-- ==== Sys2Proof/Word.lean ====
section
/-! DEFINITION. Word.lean: the byte, and the two total containers of fixed length the station uses. -/

namespace Sys2Proof

/-- A byte of a frame payload or of the configuration image. -/
abbrev Byte := BitVec 8

/-- Apply a function to every element of a table of fixed length. -/
def mapTable {α β : Type} {n : Nat} (f : α → β) (t : Vector α n) : Vector β n :=
  ⟨⟨t.toList.map f⟩, by simp⟩

/-- The station numbers 1 to 15, in ascending order. -/
def stationNumbers : List Nat := [1, 2, 3, 4, 5, 6, 7, 8, 9, 10, 11, 12, 13, 14, 15]

/-- The channel numbers 0 to 3, in ascending order. -/
def channelNumbers : List (Fin 4) := [0, 1, 2, 3]

/-- The element a table of fifteen holds for a station number; `d` for a number that is not 1 to 15. -/
def stationGet {α : Type} (d : α) (t : Vector α 15) (n : Nat) : α :=
  if h : 1 ≤ n ∧ n ≤ 15 then t[n - 1]'(by omega) else d

/-- Put an element into a table of fifteen at a station number; no change for a number that is not 1 to 15. -/
def stationPut {α : Type} (t : Vector α 15) (n : Nat) (a : α) : Vector α 15 :=
  if h : 1 ≤ n ∧ n ≤ 15 then t.set (n - 1) a (by omega) else t

end Sys2Proof
end

