-- ==== Sys2Proof/Syntax.lean ====
section
/-! DEFINITION. Syntax.lean: the commands of the station, one constructor per row of spec/opcode_table.json, and the
operands they carry. The table gives no operand; each operand is what the rule of the row says the event brings. -/

namespace Sys2Proof

/-- The two poles, after the wire each contacts (00 section 5). -/
inductive Pole where
  | pos
  | neg
deriving DecidableEq, Repr

/-- R195: the strap pins as LOADING samples them: ROLE2:0, SN3:0 and CFG_EN. -/
structure Straps where
  roleCode : BitVec 3
  number : BitVec 4
  cfgEn : Bool
deriving DecidableEq, Repr

/-- The eight analog readings of one sample, 10 bits each (00 Table 4-1). -/
structure AnalogSample where
  ain0 : BitVec 10
  ain1 : BitVec 10
  ain2 : BitVec 10
  ain3 : BitVec 10
  ain4 : BitVec 10
  ain5 : BitVec 10
  ain6 : BitVec 10
  ain7 : BitVec 10
deriving DecidableEq, Repr

/-- R181, Table 10-1: the fields of a frame after its start bit. -/
structure Frame where
  priority : BitVec 2
  station : BitVec 4
  kind : BitVec 3
  length : BitVec 7
  payload : List Byte
  crc : BitVec 16
deriving DecidableEq, Repr

/-- R168, Table 10-3: one record of an ACK_ALARMS command, as sent. -/
structure AckRecord where
  kind : Byte
  qualifier : Byte
  count : Byte
deriving DecidableEq, Repr

/-- The commands of the station: one constructor per row of spec/opcode_table.json, in the table's order. -/
inductive Instr where
  | coldReset
  | loadingEnd (straps : Straps)
  | analogSample (sample : AnalogSample)
  | digitalInputChange (input : Fin 12) (level : Bool)
  | wakeInput
  | wakeByFrame (priority : BitVec 2)
  | beaconReceived (frame : Frame)
  | patternReceived (frame : Frame)
  | patternSilenceTimeout (station : Fin 16)
  | cutReceived (frame : Frame)
  | releaseReceived (frame : Frame)
  | restorationOffsetExpiry
  | commandReceived (frame : Frame)
  | raisePoles (number : Byte)
  | lowerPoles (number : Byte)
  | clearLockout (number : Byte) (pole : Byte)
  | ackAlarms (number : Byte) (records : List AckRecord)
  | patternOn (number : Byte)
  | patternOff (number : Byte)
  | entryStale (station : Fin 16)
  | entryPhantom (station : Fin 16)
  | phantomHoldExpiry (station : Fin 16)
  | allotmentEventPeriodic
  | allotmentComputationEnd
  | poleHookTimeout (pole : Pole)
  | raiseTimeout
  | drainTimeout
  | retrieveTimeout (pole : Pole)
  | forgivenessExpiry (pole : Pole)
  | gapTimeout
  | sourceChangeTimeout
  | trackingStep
  | suspectExpiry (pole : Pole)
  | bounceExpiry (pole : Pole)
  | startSpacingExpiry
  | startingComplete (channel : Fin 4)
  | minOnElapsed (channel : Fin 4)
  | minOffElapsed (channel : Fin 4)
  | cycleComplete (channel : Fin 4)
  | carrierSlotBoundary
  | specialWorkTailExpiry
  | transmitStart
  | arbitrationLost
  | transmitAbort
  | transmitComplete
  | listenInExpiry
  | dormancyExpiry
  | readImage
  | readBusy
  | readSnapshot
  | writePage (page : Fin 16) (bytes : Vector Byte 16) (wp : Bool)
  | pageWriteComplete
  | flashClockPhase
  | setpointPulsePeriodStart
deriving DecidableEq, Repr

end Sys2Proof
end

