-- ==== Sys2Proof/Machine/Types.lean ====
section
/-! DEFINITION. Types.lean: the named values and records the blocks of the station hold. -/

namespace Sys2Proof.Machine

/-- 11 Table 11-2: the operating states. -/
inductive OpState where
  | loading
  | maintenance
  | faulted
  | listening
  | active
  | pattern
  | parked
  | dormant
deriving DecidableEq, Repr

/-- 00 Table 3-1: the roles. -/
inductive Role where
  | traction
  | auxiliary
  | battery
  | pole
  | console
deriving DecidableEq, Repr

/-- 01 Table 1-2: the operating states a beacon can carry. -/
inductive BeaconState where
  | listening
  | active
  | pattern
  | parked
  | faulted
deriving DecidableEq, Repr

/-- 04 Table 4-3, in the table's order. -/
inductive PoleState where
  | stowed
  | raising
  | seeking
  | onWire
  | suspect
  | dewired
  | retrieving
  | lowering
  | lockedOut
deriving DecidableEq, Repr

/-- R85. -/
inductive LineState where
  | isOpen
  | live
  | gap
  | out
deriving DecidableEq, Repr

/-- R24, R89. -/
inductive SourceMode where
  | none
  | wire
  | gap
  | battery
deriving DecidableEq, Repr

/-- 06 Table 6-2, in the table's order. -/
inductive CutCause where
  | suspectPos
  | suspectNeg
  | dewirePos
  | dewireNeg
  | section_
  | lowering
  | sourceChange
  | driver
deriving DecidableEq, Repr

/-- 09 Table 9-2, in the table's order. -/
inductive AlarmKind where
  | poleDrop
  | retrieveFail
  | poleLocked
  | raiseFail
  | bounce
  | lineLost
  | stationLost
  | duplicateStation
  | paramMismatch
  | configFault
  | hotDerate
  | shortCycle
  | sinkShort
  | patternError
deriving DecidableEq, Repr

/-- 09 Table 9-1. -/
inductive AlarmState where
  | activeUnack
  | activeAck
  | clearedUnack
deriving DecidableEq, Repr

/-- 09 Table 9-1. -/
inductive Severity where
  | critical
  | warning
  | advisory
deriving DecidableEq, Repr

/-- 10 Table 10-4: the result codes the station itself gives. -/
inductive Result where
  | done
  | refusedState
  | refusedLocked
  | refusedMoving
  | refusedNotStandstill
  | ignoredStale
deriving DecidableEq, Repr

/-- A claim: class, demand and floor (00 section 6). -/
structure Claim where
  cls : Nat
  demand : Nat
  floor : Nat
deriving DecidableEq, Repr

/-- One cut of a beacon's cut list (01 Table 1-2). -/
structure CutRecord where
  cause : CutCause
  number : Nat
deriving DecidableEq, Repr

/-- One record of a beacon's alarm report list (R169); the qualifier is its code of Table 10-4. -/
structure AlarmRecord where
  kind : AlarmKind
  qualifier : Nat
  state : AlarmState
  count : Nat
deriving DecidableEq, Repr

/-- 01 Table 1-2: the pole part of a beacon with its line voltage. -/
structure PolePart where
  voltage : Nat
  posState : PoleState
  posCount : Nat
  negState : PoleState
  negCount : Nat
  line : LineState
  source : SourceMode
deriving DecidableEq, Repr

/-- The console record (R177). -/
structure ConsolePart where
  special : Bool
  doors : Bool
  key : Bool
  heat : Nat
deriving DecidableEq, Repr

/-- R187: the optional part of a beacon by role. -/
inductive Part where
  | traction (speed : Nat)
  | auxiliary
  | battery (discharge accept : Nat)
  | pole (p : PolePart)
  | console (c : ConsolePart)
deriving DecidableEq, Repr

/-- The role whose part a beacon carries (R187: the optional part goes by role). -/
def Part.role : Part → Role
  | .traction _ => .traction
  | .auxiliary => .auxiliary
  | .battery _ _ => .battery
  | .pole _ => .pole
  | .console _ => .console

/-- 01 Table 1-2: the contents of a beacon. The role is that of its part. -/
structure Beacon where
  part : Part
  sequence : Nat
  paramSet : Nat
  period : Nat
  op : BeaconState
  duplicate : Bool
  configFault : Bool
  hot : Bool
  pattern : Bool
  draw : Nat
  regenRequest : Nat
  regen : Nat
  sink : Nat
  lastResult : Option (Nat × Nat)
  claims : List Claim
  cuts : List CutRecord
  alarms : List AlarmRecord
deriving DecidableEq, Repr

/-- 01 Table 1-1. -/
inductive EntryState where
  | empty
  | fresh
  | stale
  | phantom
deriving DecidableEq, Repr

/-- R10: how a stored beacon disagrees with the own configuration. -/
structure Causes where
  paramSet : Bool
  period : Bool
  role : Bool
deriving DecidableEq, Repr

/-- 01 Table 1-1: one entry of the peer view table. -/
structure Entry where
  state : EntryState
  age : Nat
  pe : Nat
  phantom : Nat
  causes : Causes
  beacon : Option Beacon
deriving DecidableEq, Repr

/-- R1: the table of fifteen entries, addressed by station number. -/
abbrev PeerTable := Vector Entry 15

/-- 07 Table 7-1. -/
inductive ChannelKind where
  | switched
  | modulated
  | timed
  | converter
deriving DecidableEq, Repr

/-- 07 Table 7-1. -/
inductive FloorRule where
  | none
  | whenRequesting
  | criticalPressure
deriving DecidableEq, Repr

/-- 07 Table 7-1. -/
inductive RequestSource where
  | din
  | heatDuty
  | pressure
  | demand
deriving DecidableEq, Repr

/-- 07 Table 7-1: a channel record. Times are in seconds, as the image holds them. -/
structure ChannelRecord where
  present : Bool
  kind : ChannelKind
  rated : Nat
  priority : Nat
  cls : Nat
  minOn : Nat
  minOff : Nat
  floorRule : FloorRule
  sink : Bool
  output : Nat
  source : RequestSource
  input : Nat
  demandInput : Nat
  thermalInput : Option Nat
  trip : Nat
  release : Nat
  pressureInput : Option Nat
  pcrit : Nat
  pon : Nat
  poff : Nat
  cycle : Nat
  park : Bool
deriving DecidableEq, Repr

/-- 08 R157: the five outputs of the interlock array, and a set of them in the output map. -/
structure Inhibits where
  station : Bool
  chan0 : Bool
  chan1 : Bool
  chan2 : Bool
  chan3 : Bool
deriving DecidableEq, Repr

/-- R157: one counted literal, a signal number and its polarity. -/
structure Literal where
  signal : Nat
  negated : Bool
deriving DecidableEq, Repr

/-- R157: a product term, its counted literals and its output-map entry. -/
structure Term where
  literals : List Literal
  map : Inhibits
deriving DecidableEq, Repr

/-- R156: the key source named in the image. -/
inductive KeySource where
  | console
  | local_ (input : Nat)
deriving DecidableEq, Repr

/-- 11 Table 11-1: the settled configuration values the station runs on. -/
structure Settings where
  paramSet : Nat
  period : Nat
  imax : Nat
  reserve : Nat
  step : Nat
  isw : Nat
  vcutLow : Nat
  vkneeLow : Nat
  iregenMax : Nat
  vkneeHigh : Nat
  vcutHigh : Nat
  vsection : Nat
  vpresent : Nat
  poleStation : Nat
  consoleStation : Nat
  stationMax : Nat
  trip : Nat
  release : Nat
  ehook : Nat
  emax : Nat
  traise : Nat
  tretrieve : Nat
  tgap : Nat
  nlock : Nat
  erise : Nat
  efall : Nat
  lmax : Nat
  lmaxWide : Nat
  tbounce : Nat
  key : KeySource
  chans : Vector ChannelRecord 4
  terms : Vector Term 8
deriving DecidableEq, Repr

/-- R20, R21: the two kinds of allotment computation. -/
inductive CompKind where
  | periodic
  | unscheduled
deriving DecidableEq, Repr

/-- R15, R31: the snapshot of the live table and the own quantities frozen with it. -/
structure Snapshot where
  entries : PeerTable
  ownClaims : List Claim
  ownDraw : Nat
  source : SourceMode
  voltage : Nat
  discharge : Nat
  accept : Nat
  special : Bool
  op : OpState
  duplicate : Bool
  hot : Bool
  offsetRunning : Bool
  regenRequest : Nat
  sink : Nat
deriving DecidableEq, Repr

/-- R31: a counted claim, with the station and the index it is ordered by. -/
structure CountedClaim where
  station : Nat
  index : Nat
  claim : Claim
deriving DecidableEq, Repr

/-- R39: a counted claim and its grant. -/
structure Granted where
  counted : CountedClaim
  grant : Nat
deriving DecidableEq, Repr

/-- R59: a sink station of a computation, its capacity and its computed share. -/
structure SinkShare where
  station : Nat
  capacity : Nat
  share : Nat
deriving DecidableEq, Repr

/-- 06 Table 6-1: an entry of the cut set. -/
structure CutEntry where
  origin : Nat
  cause : CutCause
  number : Nat
  own : Bool
deriving DecidableEq, Repr

/-- 06 Table 6-3. -/
inductive Phase where
  | none
  | held
  | offset
  | restoring
deriving DecidableEq, Repr

/-- A channel of the restoration set or record, with its shed position (R127). -/
structure Placed where
  channel : Fin 4
  position : Nat
deriving DecidableEq, Repr

/-- 07 Table 7-2. -/
inductive ChannelState where
  | off
  | waiting
  | starting
  | on
  | shed
  | suspended
  | inhibited
deriving DecidableEq, Repr

/-- R135: the run-time fields of a channel. `offRuns` tells that the elapsing of the min-off is still to come (R142). -/
structure Channel where
  state : ChannelState
  request : Nat
  duty : Nat
  sinkDuty : Nat
  placed : Nat
  minOn : Nat
  minOff : Nat
  offRuns : Bool
  cycle : Nat
  cyclePending : Bool
  cap : Nat
  requesting : Bool
  critical : Bool
  shedPos : Option Nat
  winDuty : Nat
  winSink : Nat
deriving DecidableEq, Repr

/-- R67, R93: a pole record. -/
structure PoleRecord where
  state : PoleState
  count : Nat
  forgive : Nat
  timer : Nat
  height : Nat
  suspect : Nat
  bounces : List Nat
  samples : List Nat
  suspectCut : Option Nat
deriving DecidableEq, Repr

/-- R68: the pole operation; LOWER with its phase. -/
inductive PoleOperation where
  | none
  | raise
  | lowerDrain
  | lowerDescent
deriving DecidableEq, Repr

/-- 09 Table 9-1: an alarm entry with its creation sequence number. -/
structure AlarmEntry where
  kind : AlarmKind
  source : Nat
  qualifier : Nat
  severity : Severity
  latched : Bool
  state : AlarmState
  count : Nat
  raised : Nat
  orphan : Bool
  sequence : Nat
deriving DecidableEq, Repr

/-- R193: a pattern check record. Whether PATTERN_ERROR stands is among the conditions in force. -/
structure PatternCheck where
  opened : Bool
  timer : Nat
  stopped : Bool
deriving DecidableEq, Repr

/-- 10 Table 10-3: the kind and arguments of a command. -/
inductive CommandKind where
  | raisePoles
  | lowerPoles
  | clearLockout (pole : Byte)
  | ackAlarms (records : List AckRecord)
  | patternOn
  | patternOff
deriving DecidableEq, Repr

/-- A frame a station has to send, before its bits are formed. -/
inductive Message where
  | beacon (b : Beacon)
  | pattern (station : Nat)
  | cut (origin : Nat) (cause : CutCause) (number : Nat)
  | release (origin : Nat) (cause : CutCause) (number : Nat)
  | command (target number : Nat) (kind : CommandKind)
deriving DecidableEq, Repr

/-- R183: the three kinds of slot of the transmit queue. -/
inductive Slot where
  | beacon
  | urgent
  | command
deriving DecidableEq, Repr

/-- R182: the frame the station is driving onto the line, and the slot it holds. It is in transmission from the end of its
arbitration part (R183); `dropped` and `displaced` hold what follows if it is found to be in that part still: whether it has
lost its waiting place, and the older urgent frame that then stays. -/
structure Sending where
  slot : Slot
  message : Message
  frame : Frame
  dropped : Bool
  displaced : Option Message
deriving DecidableEq, Repr

/-- R201: the outcome of the latest WRITE_PAGE. -/
inductive WriteOutcome where
  | none
  | done
  | ignoredBusy
  | ignoredProtected
  | ignoredState
deriving DecidableEq, Repr

/-- R202: the page write under way. -/
structure PageWrite where
  page : Fin 16
  bytes : Vector Byte 16
  elapsed : Nat
deriving DecidableEq, Repr

end Sys2Proof.Machine
end

