-- ==== Sys2Proof/Machine/Image.lean ====
section
/-! DEFINITION. Image.lean: the configuration image as delivered, its store, and the settling of a loaded image. -/

namespace Sys2Proof.Machine

/-- The high byte of a two-byte field (R194: most significant byte first). -/
def hiByte (w : Nat) : Nat := w / 256 % 256

/-- The low byte of a two-byte field. -/
def loByte (w : Nat) : Nat := w % 256

/-- R194, Table 11-6 and Table 7-1: the default bytes of the channel record of channel c. -/
def defaultRecordBytes (c : Nat) : List Nat :=
  [0, 0, hiByte 10, loByte 10, c, 2, 0, 0, 0, 0, 2 + c, 0, 2 + c, 1, 255, 85, 80, 255,
   hiByte 500, loByte 500, hiByte 650, loByte 650, hiByte 800, loByte 800, hiByte 60, loByte 60, 0, 0]

/-- R194, Table 11-5: bytes 0 to 31 of the image as delivered, the vehicle section at its defaults. -/
def defaultVehicleBytes : List Nat :=
  [0, 0, 20, hiByte 500, loByte 500, 20, 25, hiByte 80, loByte 80, hiByte 480, loByte 480,
   hiByte 560, loByte 560, hiByte 300, loByte 300, hiByte 820, loByte 820, hiByte 900, loByte 900,
   hiByte 150, loByte 150, hiByte 400, loByte 400, 1, 7, 0, 0, 0, 0, 0, 0, 0]

/-- R194, Table 11-5: bytes 32 to 63 of the image as delivered, the plain station parameters at their defaults. -/
def defaultStationBytes : List Nat :=
  [hiByte 400, loByte 400, 85, 80, 50, hiByte 700, loByte 700, hiByte 8000, loByte 8000,
   hiByte 2000, loByte 2000, hiByte 1500, loByte 1500, 3, hiByte 60, loByte 60, hiByte 80, loByte 80,
   hiByte 250, loByte 250, hiByte 380, loByte 380, hiByte 80, loByte 80, 0, 0, 0, 0, 0, 0, 0, 0]

/-- R194: the 254 data bytes of the image as delivered: every default, and 0 in the bytes no table names. -/
def deliveredData : List Nat :=
  defaultVehicleBytes ++ defaultStationBytes ++ defaultRecordBytes 0 ++ defaultRecordBytes 1 ++
    defaultRecordBytes 2 ++ defaultRecordBytes 3 ++ List.replicate 78 0

/-- R194: the 16-bit sum of data bytes, with carries out of 16 bits dropped. -/
def imageSum (bytes : List Nat) : Nat := bytes.sum % 65536

/-- What an unlisted address of the image store reads as: the byte of the image as delivered (R194). -/
def deliveredByte (a : Nat) : Byte :=
  if a < 254 then BitVec.ofNat 8 (deliveredData.getD a 0)
  else if a = 254 then BitVec.ofNat 8 (hiByte (imageSum deliveredData))
  else if a = 255 then BitVec.ofNat 8 (loByte (imageSum deliveredData))
  else 0

/-- The image store: address and byte cells in the canonical form of `Memory.wf`. -/
abbrev Memory := List Host.Cell

/-- Addresses strictly rise from `lo` on, below 256, and no cell equals what its address reads as when unlisted. -/
def Memory.wfFrom : Nat → Memory → Bool
  | _, [] => true
  | lo, (a, b) :: m => decide (lo ≤ a ∧ a < 256) && decide (b ≠ deliveredByte a) && Memory.wfFrom (a + 1) m

/-- The canonical form of the image store. -/
def Memory.wf (m : Memory) : Bool := Memory.wfFrom 0 m

/-- The byte an address of the image store reads as. -/
def Memory.read : Memory → Nat → Byte
  | [], a => deliveredByte a
  | (k, b) :: m, a => if k = a then b else Memory.read m a

/-- Remove the cell of an address, so that it reads as delivered. -/
def Memory.erase : Memory → Nat → Memory
  | [], _ => []
  | (k, b) :: m, a => if k = a then m else (k, b) :: Memory.erase m a

/-- List a byte that differs from the delivered one at its place in the rising order. -/
def Memory.insert : Memory → Nat → Byte → Memory
  | [], a, v => [(a, v)]
  | (k, b) :: m, a, v =>
    if k = a then (a, v) :: m else if a < k then (a, v) :: (k, b) :: m else (k, b) :: Memory.insert m a v

/-- Write one byte of the image store, keeping the canonical form; an address above 255 does not exist. -/
def Memory.write (m : Memory) (a : Nat) (v : Byte) : Memory :=
  if a < 256 then (if v = deliveredByte a then m.erase a else m.insert a v) else m

/-- Write consecutive bytes from an address on. -/
def Memory.writeAll : Memory → Nat → List Byte → Memory
  | m, _, [] => m
  | m, a, v :: vs => Memory.writeAll (m.write a v) (a + 1) vs

/-- R202: the page of the image holds 16 new bytes. -/
def Memory.writePage (m : Memory) (page : Nat) (bytes : List Byte) : Memory :=
  m.writeAll (16 * page) (bytes.take 16)

/-- R201: all 256 stored bytes in address order. -/
def Memory.bytes (m : Memory) : List Byte := (List.range 256).map m.read

/-- A stored byte as a number. -/
def Memory.byteAt (m : Memory) (a : Nat) : Nat := (m.read a).toNat

/-- A stored two-byte field, most significant byte first (R194). -/
def Memory.wordAt (m : Memory) (a : Nat) : Nat := m.byteAt a * 256 + m.byteAt (a + 1)

/-- R195: the sum of bytes 0 to 253 agrees with bytes 254 and 255. -/
def Memory.sumAgrees (m : Memory) : Bool :=
  decide (imageSum ((List.range 254).map m.byteAt) = m.wordAt 254)

/-- R196: a numeric field outside its range is brought to its nearest limit. -/
def clamp (lo hi v : Nat) : Nat := min (max v lo) hi

/-- R194: a flag byte means yes when it is not 0. -/
def flagByte (v : Nat) : Bool := decide (v ≠ 0)

/-- Table 11-6: the channel kind code; a code outside the list is the default. -/
def kindOfCode : Nat → ChannelKind
  | 1 => .modulated
  | 2 => .timed
  | 3 => .converter
  | _ => .switched

/-- Table 11-6: the floor rule code; a code outside the list is the default. -/
def floorOfCode : Nat → FloorRule
  | 1 => .whenRequesting
  | 2 => .criticalPressure
  | _ => .none

/-- Table 11-6: the request source code; a code outside the list is the default. -/
def sourceOfCode : Nat → RequestSource
  | 1 => .heatDuty
  | 2 => .pressure
  | 3 => .demand
  | _ => .din

/-- Table 11-6: an analog input number 0 to 7; any other value means absent. -/
def inputOfCode (v : Nat) : Option Nat := if v ≤ 7 then some v else none

/-- Table 11-6: the channel record at an address, before it is settled. -/
def readRecord (m : Memory) (a : Nat) : ChannelRecord where
  present := flagByte (m.byteAt a)
  kind := kindOfCode (m.byteAt (a + 1))
  rated := m.wordAt (a + 2)
  priority := m.byteAt (a + 4)
  cls := m.byteAt (a + 5)
  minOn := m.byteAt (a + 6)
  minOff := m.byteAt (a + 7)
  floorRule := floorOfCode (m.byteAt (a + 8))
  sink := flagByte (m.byteAt (a + 9))
  output := m.byteAt (a + 10)
  source := sourceOfCode (m.byteAt (a + 11))
  input := m.byteAt (a + 12)
  demandInput := m.byteAt (a + 13)
  thermalInput := inputOfCode (m.byteAt (a + 14))
  trip := m.byteAt (a + 15)
  release := m.byteAt (a + 16)
  pressureInput := inputOfCode (m.byteAt (a + 17))
  pcrit := m.wordAt (a + 18)
  pon := m.wordAt (a + 20)
  poff := m.wordAt (a + 22)
  cycle := m.wordAt (a + 24)
  park := flagByte (m.byteAt (a + 26))

/-- R134 step 1: the digital outputs the role already drives (R66, Table 9-3). -/
def roleDrives : Role → Nat → Bool
  | .pole, o => decide (o = 0 ∨ o = 1)
  | .console, o => decide (o = 0 ∨ o = 1 ∨ o = 6 ∨ o = 7)
  | _, _ => false

/-- R134 step 1, in ascending channel number: `used` are the outputs of the present records of lower number. -/
def dropConflicts (role : Role) : List Nat → List ChannelRecord → List ChannelRecord
  | _, [] => []
  | used, r :: rs =>
    if r.present then
      if roleDrives role r.output || used.contains r.output then
        { r with present := false } :: dropConflicts role used rs
      else r :: dropConflicts role (r.output :: used) rs
    else r :: dropConflicts role used rs

/-- R134 step 2: the allowed pairs of kind and source. -/
def pairAllowed : ChannelKind → RequestSource → Bool
  | .switched, .din => true
  | .switched, .pressure => true
  | .modulated, .din => true
  | .modulated, .heatDuty => true
  | .timed, .din => true
  | .converter, .demand => true
  | _, _ => false

/-- R134 step 2: a record with any other pair is made not present. -/
def dropPair (r : ChannelRecord) : ChannelRecord :=
  if pairAllowed r.kind r.source then r else { r with present := false }

/-- R134 step 2: every CONVERTER record but the lowest-numbered is made not present, counted among the present ones (DESIGN
CHOICE, log entry 76). -/
def keepFirstConverter : Bool → List ChannelRecord → List ChannelRecord
  | _, [] => []
  | seen, r :: rs =>
    if r.present && r.kind == .converter then
      (if seen then { r with present := false } else r) :: keepFirstConverter true rs
    else r :: keepFirstConverter seen rs

/-- R134 step 2: the demand input of the traction converter, the class of the charge channel. -/
def settleConverter (role : Role) (r : ChannelRecord) : ChannelRecord :=
  if r.kind = .converter then
    match role with
    | .traction => { r with demandInput := 1 }
    | .battery => { r with cls := 3 }
    | _ => r
  else r

/-- R134 step 3: the inputs the kind cannot use. -/
def dropInputs (r : ChannelRecord) : ChannelRecord :=
  let r1 := if r.kind = .switched ∨ r.kind = .timed then { r with thermalInput := none } else r
  let r2 := if r1.source ≠ .pressure ∧ r1.floorRule ≠ .criticalPressure then { r1 with pressureInput := none } else r1
  let r3 := if r2.floorRule = .criticalPressure ∧ r2.pressureInput = none then { r2 with floorRule := .none } else r2
  if r3.kind ≠ .modulated then { r3 with sink := false } else r3

/-- R134 step 4: each numeric field to its range (Table 7-1). The output number, to which the table gives none, is left as
stored (DESIGN CHOICE, log entry 69). -/
def settleRanges (r : ChannelRecord) : ChannelRecord :=
  let trip := clamp 40 125 r.trip
  let release := clamp 30 124 r.release
  let pon := clamp 10 1013 (clamp 0 1023 r.pon)
  { r with
    rated := clamp 1 400 r.rated
    priority := clamp 0 3 r.priority
    cls := clamp 0 3 r.cls
    minOn := clamp 0 60 r.minOn
    minOff := clamp 0 60 r.minOff
    input := clamp 0 11 r.input
    demandInput := clamp 0 7 r.demandInput
    trip := trip
    release := if trip ≤ release then trip - 1 else release
    pon := pon
    poff := max (clamp 0 1023 r.poff) (pon + 10)
    pcrit := min (clamp 0 1023 r.pcrit) (pon - 10)
    cycle := clamp 1 3600 r.cycle }

/-- R134 step 5: how many present records stand before this one, by priority and then by channel number. -/
def rank (rs : List ChannelRecord) (c : Nat) (r : ChannelRecord) : Nat :=
  ((rs.zipIdx).filter (fun p =>
    p.1.present && (decide (p.1.priority < r.priority) || (p.1.priority == r.priority && decide (p.2 < c))))).length

/-- R134 step 5: the present channels are given priorities 0, 1, 2, … in that order. -/
def settlePriorities (rs : List ChannelRecord) : List ChannelRecord :=
  rs.zipIdx.map (fun p => if p.1.present then { p.1 with priority := rank rs p.2 p.1 } else p.1)

/-- R134: the channel records settled, in the order of its steps. -/
def settleRecords (role : Role) (rs : List ChannelRecord) : List ChannelRecord :=
  let r1 := dropConflicts role [] rs
  let r2 := (keepFirstConverter false (r1.map dropPair)).map (settleConverter role)
  settlePriorities ((r2.map dropInputs).map settleRanges)

/-- Table 7-1: the record of an absent channel with every default. -/
def absentRecord (c : Nat) : ChannelRecord where
  present := false
  kind := .switched
  rated := 10
  priority := c
  cls := 2
  minOn := 0
  minOff := 0
  floorRule := .none
  sink := false
  output := 2 + c
  source := .din
  input := 2 + c
  demandInput := 1
  thermalInput := none
  trip := 85
  release := 80
  pressureInput := none
  pcrit := 500
  pon := 650
  poff := 800
  cycle := 60
  park := false

/-- The four records of a list (the first four; an absent record where the list is shorter). -/
def fourRecords (rs : List ChannelRecord) : Vector ChannelRecord 4 :=
  ⟨#[rs.getD 0 (absentRecord 0), rs.getD 1 (absentRecord 1), rs.getD 2 (absentRecord 2), rs.getD 3 (absentRecord 3)], rfl⟩

/-- Table 11-7: bits 0 to 4 of the output map. -/
def mapOfByte (v : Nat) : Inhibits where
  station := v.testBit 0
  chan0 := v.testBit 1
  chan1 := v.testBit 2
  chan2 := v.testBit 3
  chan3 := v.testBit 4

/-- Table 11-7: a literal, its signal number in bits 0 to 3 and bit 7 set for a negated one. -/
def literalOfByte (v : Nat) : Literal where
  signal := v % 16
  negated := v.testBit 7

/-- Table 11-7, R157: the term at an address; a literal count above 6 is taken as 6. -/
def readTerm (m : Memory) (a : Nat) : Term where
  literals := (List.range (min 6 (m.byteAt a))).map (fun i => literalOfByte (m.byteAt (a + 1 + i)))
  map := mapOfByte (m.byteAt (a + 7))

/-- No output named. -/
def noInhibits : Inhibits := ⟨false, false, false, false, false⟩

/-- R157, Table 8-2: an unused term. -/
def unusedTerm : Term := ⟨[], noInhibits⟩

/-- Table 11-5: the eight terms of the image. -/
def readTerms (m : Memory) : Vector Term 8 :=
  ⟨#[readTerm m 176, readTerm m 184, readTerm m 192, readTerm m 200,
     readTerm m 208, readTerm m 216, readTerm m 224, readTerm m 232], rfl⟩

/-- R196: a period code other than 10, 20 or 50 becomes 20. -/
def settlePeriod (v : Nat) : Nat := if v = 10 ∨ v = 20 ∨ v = 50 then v else 20

/-- R196: a release not below its trip is the trip less 1 (R32). -/
def settleRelease (trip release : Nat) : Nat := if trip ≤ release then trip - 1 else release

/-- R196: the pole station number of the image, settled. -/
def imagePoleStation (m : Memory) : Nat := clamp 1 15 (m.byteAt 23)

/-- R196: the console station number of the image, settled. -/
def imageConsoleStation (m : Memory) : Nat := clamp 1 15 (m.byteAt 24)

/-- R156, Table 11-5: the key source; a code outside the list is the default CONSOLE. -/
def readKey (m : Memory) : KeySource :=
  if m.byteAt 56 = 1 then .local_ (clamp 0 11 (m.byteAt 57)) else .console

/-- R196, R134: the settled values of a loaded image for a station of the given role. Each range is that of Table 11-1
or of the rule it names; a field whose range depends on another is settled after it. -/
def settle (role : Role) (m : Memory) : Settings :=
  let vcutLow := clamp 300 600 (m.wordAt 9)
  let vkneeHigh := clamp 600 1000 (m.wordAt 15)
  let vsection := clamp 50 400 (m.wordAt 19)
  let trip := clamp 40 125 (m.byteAt 34)
  let ehook := clamp 20 200 (m.byteAt 36)
  let lmax := clamp 50 450 (m.wordAt 50)
  { paramSet := m.wordAt 0
    period := settlePeriod (m.byteAt 2)
    imax := clamp 50 600 (m.wordAt 3)
    reserve := clamp 0 100 (m.byteAt 5)
    step := clamp 1 100 (m.byteAt 6)
    isw := clamp 0 600 (m.wordAt 7)
    vcutLow := vcutLow
    vkneeLow := clamp (vcutLow + 20) 1023 (m.wordAt 11)
    iregenMax := clamp 0 400 (m.wordAt 13)
    vkneeHigh := vkneeHigh
    vcutHigh := clamp (vkneeHigh + 20) 1023 (m.wordAt 17)
    vsection := vsection
    vpresent := clamp (vsection + 10) 800 (m.wordAt 21)
    poleStation := imagePoleStation m
    consoleStation := imageConsoleStation m
    stationMax := clamp 0 400 (m.wordAt 32)
    trip := trip
    release := settleRelease trip (clamp 30 124 (m.byteAt 35))
    ehook := ehook
    emax := clamp (ehook + 10) 900 (m.wordAt 37)
    traise := clamp 2000 20000 (m.wordAt 39)
    tretrieve := clamp 500 10000 (m.wordAt 41)
    tgap := clamp 200 5000 (m.wordAt 43)
    nlock := clamp 1 15 (m.byteAt 45)
    erise := clamp 10 300 (m.wordAt 46)
    efall := clamp 10 300 (m.wordAt 48)
    lmax := lmax
    lmaxWide := clamp lmax 450 (m.wordAt 52)
    tbounce := clamp 20 500 (m.wordAt 54)
    key := readKey m
    chans := fourRecords (settleRecords role [readRecord m 64, readRecord m 92, readRecord m 120, readRecord m 148])
    terms := readTerms m }

/-- Table 11-1, Table 4-2, Table 5-2, Table 7-1, Table 8-2: every default. -/
def defaultSettings : Settings where
  paramSet := 0
  period := 20
  imax := 500
  reserve := 20
  step := 25
  isw := 80
  vcutLow := 480
  vkneeLow := 560
  iregenMax := 300
  vkneeHigh := 820
  vcutHigh := 900
  vsection := 150
  vpresent := 400
  poleStation := 1
  consoleStation := 7
  stationMax := 400
  trip := 85
  release := 80
  ehook := 50
  emax := 700
  traise := 8000
  tretrieve := 2000
  tgap := 1500
  nlock := 3
  erise := 60
  efall := 80
  lmax := 250
  lmaxWide := 380
  tbounce := 80
  key := .console
  chans := ⟨#[absentRecord 0, absentRecord 1, absentRecord 2, absentRecord 3], rfl⟩
  terms := Vector.replicate 8 unusedTerm

/-- R197: in FAULTED every parameter takes its default, but for the parameter set number as the image bytes hold it. -/
def faultedSettings (m : Memory) : Settings := { defaultSettings with paramSet := m.wordAt 0 }

end Sys2Proof.Machine
end

