-- ==== Sys2Proof/Machine/State.lean ====
section
/-! DEFINITION. State.lean: everything the spec gives the station, block by block (00 Table 2-1), the machine right after
cold reset, and the reasons a command could stop. -/

namespace Sys2Proof.Machine

/-- R195 to R199: the operating-state machine. -/
structure OpMachine where
  op : OpState
  role : Role
  number : Nat
  listen : Nat
  dormancy : Nat
  uptime : Nat
deriving DecidableEq, Repr

/-- 00 Table 2-1: the sample unit, its latest sample and its twelve filtered inputs. `valid` tells that a sample has been
taken since the end of LOADING or since wake. -/
structure SampleUnit where
  ain : AnalogSample
  valid : Bool
  din : BitVec 12
deriving DecidableEq, Repr

/-- 02 and 03: the allotment engine. `barred` tells that Q and the battery's capacity stand at 0 until the next sample (R159,
R160). -/
structure Allotment where
  snapshot : Snapshot
  computing : Option CompKind
  waiting : Option CompKind
  due : Nat
  grants : List Granted
  grant : Nat
  draw : Nat
  hot : Bool
  published : List Claim
  regenRequest : Nat
  regenGrant : Nat
  regen : Nat
  sinkOffered : Nat
  absorption : Nat
  usableRegen : Nat
  excess : Nat
  sinkTotal : Nat
  shares : List SinkShare
  share : Nat
  shareBase : Nat
  shareRegen : Nat
  setpoint : Nat
  setpointOut : Nat
  barred : Bool
deriving DecidableEq, Repr

/-- 06: the cut controller. -/
structure CutUnit where
  cuts : List CutEntry
  counter : Nat
  phase : Phase
  offset : Nat
  restSet : List Placed
  restRecord : List Placed
deriving DecidableEq, Repr

/-- 07: the load channel manager. `reserved` is the reserved current of the latest duty raises (R145 step 3). -/
structure LoadUnit where
  chans : Vector Channel 4
  shedCounter : Nat
  spacing : Nat
  spacingRuns : Bool
  carrierOn : Bool
  slot : Nat
  slotClock : Nat
  claims : List Claim
  reserved : Nat
  batteryPart : Nat
deriving DecidableEq, Repr

/-- 04 and 05: the pole watch unit. `sampled` tells that the sample of this millisecond is among the recent samples, and
`trackWaits` that a tracking step waits for it (R98). -/
structure PoleUnit where
  pos : PoleRecord
  neg : PoleRecord
  operation : PoleOperation
  raiseTimer : Nat
  drainTimer : Nat
  line : LineState
  gapTimer : Nat
  source : SourceMode
  sourceTimer : Option Nat
  trackClock : Option Nat
  sampled : Bool
  trackWaits : Bool
  loadPending : Bool
deriving DecidableEq, Repr

/-- 08: the interlock array. Its settled terms and key source are among the settings. -/
structure Interlock where
  signals : List Bool
  terms : List Bool
  outputs : Inhibits
  heldKey : Bool
deriving DecidableEq, Repr

/-- 09: the alarm unit. `inForce` are the conditions the blocks hold in force (R165). -/
structure AlarmUnit where
  entries : List AlarmEntry
  nextSeq : Nat
  overflow : Bool
  inForce : List (AlarmKind × Nat)
deriving DecidableEq, Repr

/-- 09 and R193: the console functions. -/
structure ConsoleUnit where
  special : Bool
  tail : Option Nat
  heat : Nat
  commandCounter : Nat
  checks : Vector PatternCheck 15
  flashRuns : Bool
  flashOn : Bool
  flashClock : Nat
deriving DecidableEq, Repr

/-- 10: the bus interface. -/
structure BusUnit where
  beaconSlot : Option Message
  urgentSlots : List Message
  commandSlots : List Message
  sending : Option Sending
  sequence : Nat
  lastResult : Option (Nat × Nat)
  duplicate : Bool
  backoff : Nat
deriving DecidableEq, Repr

/-- 11: the configuration store. The busy flag is that a write is under way. -/
structure ConfigStore where
  image : Memory
  write : Option PageWrite
  mark : Bool
  outcome : WriteOutcome
deriving DecidableEq, Repr

/-- The output pins but the setpoint output (00 Table 4-1): pulls, channel outputs, console outputs, WAKE_REQ. -/
structure Outputs where
  pullPos : Bool
  pullNeg : Bool
  chan : Vector Bool 4
  criticalLamp : Bool
  warningLamp : Bool
  overflowLamp : Bool
  buzzer : Bool
  wakeReq : Bool
deriving DecidableEq, Repr

/-- R154: what READ_SNAPSHOT returns of a channel beside its record and run-time fields. -/
structure ChannelView where
  run : Channel
  effective : Nat
  current : Nat
deriving DecidableEq, Repr

/-- R180: what READ_SNAPSHOT returns of the console. -/
structure ConsoleView where
  inputs : List Bool
  special : Bool
  tail : Option Nat
  heat : Nat
  commandCounter : Nat
  criticalLamp : Bool
  warningLamp : Bool
  overflowLamp : Bool
  buzzer : Bool
  flashOn : Bool
deriving DecidableEq, Repr

/-- R201: the contents READ_SNAPSHOT returns, as R19, R58, R62, R66 to R68, R93, R132, R134, R154, R163, R180 and R196
list them. -/
structure SnapshotData where
  settings : Settings
  table : PeerTable
  grants : List Granted
  grant : Nat
  regenGrant : Nat
  absorption : Nat
  usableRegen : Nat
  sinkTotal : Nat
  shares : List SinkShare
  appliedShare : Nat
  poles : PoleUnit
  pullPos : Bool
  pullNeg : Bool
  cuts : CutUnit
  channels : List ChannelView
  shedList : List Placed
  spacing : Nat
  reserved : Nat
  slot : Nat
  claims : List Claim
  interlock : Interlock
  alarms : List AlarmEntry
  overflow : Bool
  console : Option ConsoleView
deriving DecidableEq, Repr

/-- R201: the answer of the maintenance port: its status and the operation's data. -/
inductive PortAnswer where
  | idle
  | refused
  | busy
  | image (bytes : List Byte)
  | busyState (busy : Bool) (outcome : WriteOutcome) (mark : Bool)
  | snapshot (data : SnapshotData)
  | written (status : Fin 3)
deriving DecidableEq, Repr

/-- Everything the spec gives the station, with the queue of waiting commands and the counter that freshens the free
values (both the model's own). -/
structure State where
  settings : Settings
  osm : OpMachine
  su : SampleUnit
  pvt : PeerTable
  ae : Allotment
  cc : CutUnit
  lcm : LoadUnit
  pwu : PoleUnit
  ia : Interlock
  au : AlarmUnit
  cf : ConsoleUnit
  bus : BusUnit
  cs : ConfigStore
  port : PortAnswer
  out : Outputs
  freeCount : Nat
  pending : List Instr
deriving DecidableEq, Repr

/-- Why a command could stop with a fault: for no reason. No command of the spec stops the station (FAULTED is an
operating state, R197), so this type has no constructor. -/
inductive Fault where
deriving DecidableEq, Repr

/-- Why a command could be refused. -/
inductive Refusal where
  /-- Raised by an arm of exec whose command has no meaning yet; safe, since nothing can be proved of what it does. No arm
  of this model raises it. -/
  | notModelled (mnemonic : String)
deriving DecidableEq, Repr

/-- The state with its settings replaced. -/
def State.withSettings (s : State) (x : Settings) : State := { s with settings := x }

/-- The state with its osm replaced. -/
def State.withOsm (s : State) (x : OpMachine) : State := { s with osm := x }

/-- The state with its su replaced. -/
def State.withSu (s : State) (x : SampleUnit) : State := { s with su := x }

/-- The state with its pvt replaced. -/
def State.withPvt (s : State) (x : PeerTable) : State := { s with pvt := x }

/-- The state with its ae replaced. -/
def State.withAe (s : State) (x : Allotment) : State := { s with ae := x }

/-- The state with its cc replaced. -/
def State.withCc (s : State) (x : CutUnit) : State := { s with cc := x }

/-- The state with its lcm replaced. -/
def State.withLcm (s : State) (x : LoadUnit) : State := { s with lcm := x }

/-- The state with its pwu replaced. -/
def State.withPwu (s : State) (x : PoleUnit) : State := { s with pwu := x }

/-- The state with its ia replaced. -/
def State.withIa (s : State) (x : Interlock) : State := { s with ia := x }

/-- The state with its au replaced. -/
def State.withAu (s : State) (x : AlarmUnit) : State := { s with au := x }

/-- The state with its cf replaced. -/
def State.withCf (s : State) (x : ConsoleUnit) : State := { s with cf := x }

/-- The state with its bus replaced. -/
def State.withBus (s : State) (x : BusUnit) : State := { s with bus := x }

/-- The state with its cs replaced. -/
def State.withCs (s : State) (x : ConfigStore) : State := { s with cs := x }

/-- The state with its port replaced. -/
def State.withPort (s : State) (x : PortAnswer) : State := { s with port := x }

/-- The state with its out replaced. -/
def State.withOut (s : State) (x : Outputs) : State := { s with out := x }

/-- The state with its freeCount replaced. -/
def State.withFreeCount (s : State) (x : Nat) : State := { s with freeCount := x }

/-- The state with its pending replaced. -/
def State.withPending (s : State) (x : List Instr) : State := { s with pending := x }
/-- R17: an EMPTY entry, with Pe the given period. -/
def emptyEntry (pe : Nat) : Entry := ⟨.empty, 0, pe, 0, ⟨false, false, false⟩, none⟩

/-- R17: the table with all fifteen entries EMPTY. -/
def emptyTable (pe : Nat) : PeerTable := Vector.replicate 15 (emptyEntry pe)

/-- R15, R46: the snapshot after cold reset, all fifteen entries EMPTY and no claims. The other frozen own quantities, to which
the rules give no value there, are NONE, 0, off and LOADING (DESIGN CHOICE, log entry 66). -/
def emptySnapshot : Snapshot where
  entries := emptyTable 20
  ownClaims := []
  ownDraw := 0
  source := .none
  voltage := 0
  discharge := 0
  accept := 0
  special := false
  op := .loading
  duplicate := false
  hot := false
  offsetRunning := false
  regenRequest := 0
  sink := 0

/-- R135: a channel after cold reset. -/
def resetChannel : Channel where
  state := .off
  request := 0
  duty := 0
  sinkDuty := 0
  placed := 0
  minOn := 0
  minOff := 60000
  offRuns := false
  cycle := 0
  cyclePending := false
  cap := 8
  requesting := false
  critical := false
  shedPos := none
  winDuty := 0
  winSink := 0

/-- R91, R93: a pole record after cold reset. -/
def resetPole : PoleRecord where
  state := .lowering
  count := 0
  forgive := 0
  timer := 0
  height := 0
  suspect := 0
  bounces := []
  samples := []
  suspectCut := none

/-- All readings 0. -/
def zeroSample : AnalogSample := ⟨0, 0, 0, 0, 0, 0, 0, 0⟩

/-- R193: a closed pattern check record, after cold reset and after a closing. Its silence timer is held at 0, which the spec
leaves open until the opening starts it from 0 (DESIGN CHOICE, log entry 92). -/
def closedCheck : PatternCheck := ⟨false, 0, false⟩

/-- R46, R64: the allotment engine after cold reset. -/
def resetAllotment : Allotment where
  snapshot := emptySnapshot
  computing := none
  waiting := none
  due := 0
  grants := []
  grant := 0
  draw := 0
  hot := false
  published := []
  regenRequest := 0
  regenGrant := 0
  regen := 0
  sinkOffered := 0
  absorption := 0
  usableRegen := 0
  excess := 0
  sinkTotal := 0
  shares := []
  share := 0
  shareBase := 0
  shareRegen := 0
  setpoint := 512
  setpointOut := 512
  barred := false

/-- R131: the cut controller after cold reset. -/
def resetCuts : CutUnit := ⟨[], 0, .none, 0, [], []⟩

/-- R152: the load channel manager after cold reset; the stopped carrier clock holds slot 0 at 0 ms (DESIGN CHOICE, log
entry 60). -/
def resetLoads : LoadUnit where
  chans := Vector.replicate 4 resetChannel
  shedCounter := 0
  spacing := 200
  spacingRuns := false
  carrierOn := false
  slot := 0
  slotClock := 0
  claims := []
  reserved := 0
  batteryPart := 0

/-- R91: the pole watch unit after cold reset. -/
def resetPoles : PoleUnit where
  pos := resetPole
  neg := resetPole
  operation := .none
  raiseTimer := 0
  drainTimer := 0
  line := .isOpen
  gapTimer := 0
  source := .none
  sourceTimer := none
  trackClock := none
  sampled := false
  trackWaits := false
  loadPending := false

/-- R162: the interlock array after cold reset. -/
def resetInterlock : Interlock := ⟨List.replicate 16 false, List.replicate 8 false, noInhibits, false⟩

/-- R179: the alarm unit after cold reset. -/
def resetAlarms : AlarmUnit := ⟨[], 0, false, []⟩

/-- R177, R179, R193: the console functions after cold reset. -/
def resetConsole : ConsoleUnit := ⟨false, none, 0, 0, Vector.replicate 15 closedCheck, false, true, 0⟩

/-- R183, R184, R186, R188: the bus interface after cold reset. No retry back-off is waited for (DESIGN CHOICE, log entry 90). -/
def resetBus : BusUnit := ⟨none, [], [], none, 0, none, false, 0⟩

/-- R66, R152, R174, R200: the output pins after cold reset. -/
def resetOutputs : Outputs := ⟨true, true, Vector.replicate 4 false, false, false, false, false, false⟩

/-- The machine right after cold reset (R195): LOADING, every block at the cold-reset values of its chapter, the image as
delivered, no command waiting. Until the image is loaded the effective period of each EMPTY entry is the default 20 ms (DESIGN
CHOICE, log entry 88). -/
def State.reset : State where
  settings := defaultSettings
  osm := ⟨.loading, .auxiliary, 0, 0, 0, 0⟩
  su := ⟨zeroSample, false, 0⟩
  pvt := emptyTable 20
  ae := resetAllotment
  cc := resetCuts
  lcm := resetLoads
  pwu := resetPoles
  ia := resetInterlock
  au := resetAlarms
  cf := resetConsole
  bus := resetBus
  cs := ⟨[], none, false, .none⟩
  port := .idle
  out := resetOutputs
  freeCount := 0
  pending := []

end Sys2Proof.Machine
end

