-- ==== Sys2Proof/Machine/Frames.lean ====
section
/-! DEFINITION. Frames.lean: the codes of Table 10-4, the CRC of R181 and the layouts of R187, both ways. -/

namespace Sys2Proof.Machine

/-- Table 10-4. -/
def Role.code : Role → Nat
  | .traction => 0
  | .auxiliary => 1
  | .battery => 2
  | .pole => 3
  | .console => 4

/-- Table 10-4, R195: the role codes 0 to 4. -/
def roleOfCode : Nat → Option Role
  | 0 => some .traction
  | 1 => some .auxiliary
  | 2 => some .battery
  | 3 => some .pole
  | 4 => some .console
  | _ => none

/-- Table 10-4. -/
def BeaconState.code : BeaconState → Nat
  | .listening => 0
  | .active => 1
  | .pattern => 2
  | .parked => 3
  | .faulted => 4

/-- Table 10-4. -/
def beaconStateOfCode : Nat → Option BeaconState
  | 0 => some .listening
  | 1 => some .active
  | 2 => some .pattern
  | 3 => some .parked
  | 4 => some .faulted
  | _ => none

/-- Table 10-4: the order of Table 4-3. -/
def PoleState.code : PoleState → Nat
  | .stowed => 0
  | .raising => 1
  | .seeking => 2
  | .onWire => 3
  | .suspect => 4
  | .dewired => 5
  | .retrieving => 6
  | .lowering => 7
  | .lockedOut => 8

/-- Table 10-4. -/
def poleStateOfCode : Nat → Option PoleState
  | 0 => some .stowed
  | 1 => some .raising
  | 2 => some .seeking
  | 3 => some .onWire
  | 4 => some .suspect
  | 5 => some .dewired
  | 6 => some .retrieving
  | 7 => some .lowering
  | 8 => some .lockedOut
  | _ => none

/-- Table 10-4. -/
def LineState.code : LineState → Nat
  | .isOpen => 0
  | .live => 1
  | .gap => 2
  | .out => 3

/-- Table 10-4. -/
def lineStateOfCode : Nat → Option LineState
  | 0 => some .isOpen
  | 1 => some .live
  | 2 => some .gap
  | 3 => some .out
  | _ => none

/-- Table 10-4. -/
def SourceMode.code : SourceMode → Nat
  | .none => 0
  | .wire => 1
  | .gap => 2
  | .battery => 3

/-- Table 10-4. -/
def sourceModeOfCode : Nat → Option SourceMode
  | 0 => some .none
  | 1 => some .wire
  | 2 => some .gap
  | 3 => some .battery
  | _ => none

/-- Table 10-4: the order of Table 6-2. -/
def CutCause.code : CutCause → Nat
  | .suspectPos => 0
  | .suspectNeg => 1
  | .dewirePos => 2
  | .dewireNeg => 3
  | .section_ => 4
  | .lowering => 5
  | .sourceChange => 6
  | .driver => 7

/-- Table 10-4. -/
def causeOfCode : Nat → Option CutCause
  | 0 => some .suspectPos
  | 1 => some .suspectNeg
  | 2 => some .dewirePos
  | 3 => some .dewireNeg
  | 4 => some .section_
  | 5 => some .lowering
  | 6 => some .sourceChange
  | 7 => some .driver
  | _ => none

/-- Table 10-4: the order of Table 9-2. -/
def AlarmKind.code : AlarmKind → Nat
  | .poleDrop => 0
  | .retrieveFail => 1
  | .poleLocked => 2
  | .raiseFail => 3
  | .bounce => 4
  | .lineLost => 5
  | .stationLost => 6
  | .duplicateStation => 7
  | .paramMismatch => 8
  | .configFault => 9
  | .hotDerate => 10
  | .shortCycle => 11
  | .sinkShort => 12
  | .patternError => 13

/-- Table 10-4. -/
def alarmKindOfCode : Nat → Option AlarmKind
  | 0 => some .poleDrop
  | 1 => some .retrieveFail
  | 2 => some .poleLocked
  | 3 => some .raiseFail
  | 4 => some .bounce
  | 5 => some .lineLost
  | 6 => some .stationLost
  | 7 => some .duplicateStation
  | 8 => some .paramMismatch
  | 9 => some .configFault
  | 10 => some .hotDerate
  | 11 => some .shortCycle
  | 12 => some .sinkShort
  | 13 => some .patternError
  | _ => none

/-- Table 10-4. -/
def AlarmState.code : AlarmState → Nat
  | .activeUnack => 0
  | .activeAck => 1
  | .clearedUnack => 2

/-- Table 10-4. -/
def alarmStateOfCode : Nat → Option AlarmState
  | 0 => some .activeUnack
  | 1 => some .activeAck
  | 2 => some .clearedUnack
  | _ => none

/-- Table 10-4. -/
def Result.code : Result → Nat
  | .done => 0
  | .refusedState => 1
  | .refusedLocked => 2
  | .refusedMoving => 3
  | .refusedNotStandstill => 4
  | .ignoredStale => 5

/-- Table 10-4. -/
def CommandKind.code : CommandKind → Nat
  | .raisePoles => 0
  | .lowerPoles => 1
  | .clearLockout _ => 2
  | .ackAlarms _ => 3
  | .patternOn => 4
  | .patternOff => 5

/-- One bit through the CRC register: generator x^16 + x^12 + x^5 + 1 (R181). -/
def crcBit (r : BitVec 16) (b : Bool) : BitVec 16 :=
  if r.msb != b then (r <<< 1) ^^^ 0x1021#16 else r <<< 1

/-- The bits of a field, most significant first (R181). -/
def bitsOf {n : Nat} (x : BitVec n) : List Bool := (List.range n).map x.getMsbD

/-- R181: the CRC over the fields from priority to the last payload byte, the register preset to all ones. -/
def crcOf (priority : BitVec 2) (station : BitVec 4) (kind : BitVec 3) (length : BitVec 7) (payload : List Byte) :
    BitVec 16 :=
  (payload.flatMap bitsOf).foldl crcBit
    ((bitsOf priority ++ bitsOf station ++ bitsOf kind ++ bitsOf length).foldl crcBit 0xFFFF#16)

/-- R185 check 1: the CRC of a frame agrees. -/
def crcAgrees (f : Frame) : Bool := f.crc == crcOf f.priority f.station f.kind f.length f.payload

/-- R181, Table 10-1: a frame with its length and CRC worked out. -/
def makeFrame (priority : BitVec 2) (station : Nat) (kind : BitVec 3) (payload : List Byte) : Frame :=
  let st := BitVec.ofNat 4 station
  let len := BitVec.ofNat 7 payload.length
  ⟨priority, st, kind, len, payload, crcOf priority st kind len payload⟩

/-- One byte of a payload. -/
def byteOf (n : Nat) : Byte := BitVec.ofNat 8 n

/-- R187: two bytes, most significant first. -/
def wordOf (n : Nat) : List Byte := [byteOf (n / 256), byteOf n]

/-- R187: a two-byte quantity read most significant byte first. -/
def wordFrom (hi lo : Byte) : Nat := hi.toNat * 256 + lo.toNat

/-- A bit as a number. -/
def bit (b : Bool) (v : Nat) : Nat := if b then v else 0

/-- R187, Table 10-2: the flag byte of a beacon; bits 5 to 7 are sent as 0 (DESIGN CHOICE, log entry 73). -/
def flagsOf (b : Beacon) : Nat :=
  bit b.duplicate 1 + bit b.configFault 2 + bit b.hot 4 + bit b.pattern 8 + bit b.lastResult.isSome 16

/-- R187: the optional part of a beacon; bits 3 to 7 of the console's flag byte are sent as 0 (DESIGN CHOICE, log entry 73). -/
def partBytes : Part → List Byte
  | .traction v => wordOf v
  | .auxiliary => []
  | .battery d a => wordOf d ++ wordOf a
  | .pole p =>
    wordOf p.voltage ++ [byteOf p.posState.code, byteOf p.posCount, byteOf p.negState.code, byteOf p.negCount,
      byteOf p.line.code, byteOf p.source.code]
  | .console c => [byteOf (bit c.special 1 + bit c.doors 2 + bit c.key 4), byteOf c.heat]

/-- R187: 5 bytes per claim. -/
def claimBytes (c : Claim) : List Byte := byteOf c.cls :: (wordOf c.demand ++ wordOf c.floor)

/-- R187: 2 bytes per cut. -/
def cutBytes (c : CutRecord) : List Byte := [byteOf c.cause.code, byteOf c.number]

/-- R187: 4 bytes per alarm record. -/
def alarmBytes (r : AlarmRecord) : List Byte :=
  [byteOf r.kind.code, byteOf r.qualifier, byteOf r.state.code, byteOf r.count]

/-- R187, Table 10-2: the payload of a beacon. -/
def beaconBytes (b : Beacon) : List Byte :=
  byteOf b.part.role.code :: byteOf b.sequence :: (wordOf b.paramSet ++ byteOf b.period :: byteOf b.op.code ::
    byteOf (flagsOf b) :: (wordOf b.draw ++ wordOf b.regenRequest ++ wordOf b.regen ++ wordOf b.sink ++
      [byteOf ((b.lastResult.map Prod.fst).getD 0), byteOf ((b.lastResult.map Prod.snd).getD 0),
        byteOf b.claims.length, byteOf b.cuts.length, byteOf b.alarms.length])) ++
    partBytes b.part ++ b.claims.flatMap claimBytes ++ b.cuts.flatMap cutBytes ++ b.alarms.flatMap alarmBytes

/-- R192: byte i of the PATTERN frame of station n. -/
def patternByte (n i : Nat) : Nat :=
  if i % 2 = 0 then (8 * i + n) % 256 else 255 - (8 * i + n) % 256

/-- R192: the 32 bytes of the PATTERN frame of station n. -/
def patternBytes (n : Nat) : List Byte := (List.range 32).map (fun i => byteOf (patternByte n i))

/-- R187, Table 10-3: the payload of a command. -/
def commandBytes (origin target number : Nat) (kind : CommandKind) : List Byte :=
  [byteOf origin, byteOf target, byteOf number, byteOf kind.code] ++
    match kind with
    | .clearLockout p => [p]
    | .ackAlarms rs => byteOf rs.length :: rs.flatMap (fun r => [r.kind, r.qualifier, r.count])
    | _ => []

/-- R181, R184, R187: the frame a station sends for a message; each kind has one priority. -/
def encode (station : Nat) : Message → Frame
  | .beacon b => makeFrame 2 station 0 (beaconBytes b)
  | .pattern n => makeFrame 3 station 4 (patternBytes n)
  | .cut o c k => makeFrame 0 station 1 [byteOf o, byteOf c.code, byteOf k]
  | .release o c k => makeFrame 0 station 2 [byteOf o, byteOf c.code, byteOf k]
  | .command t k kind => makeFrame 1 station 3 (commandBytes station t k kind)

/-- R187: the optional part of a role and the rest of the payload; bits 3 to 7 of the console's flag byte are ignored (DESIGN
CHOICE, log entry 73). -/
def parsePart : Role → List Byte → Option (Part × List Byte)
  | .traction, a :: b :: r => some (.traction (wordFrom a b), r)
  | .auxiliary, r => some (.auxiliary, r)
  | .battery, a :: b :: c :: d :: r => some (.battery (wordFrom a b) (wordFrom c d), r)
  | .pole, a :: b :: c :: d :: e :: f :: g :: h :: r =>
    match poleStateOfCode c.toNat, poleStateOfCode e.toNat, lineStateOfCode g.toNat, sourceModeOfCode h.toNat with
    | some ps, some ns, some ls, some sm => some (.pole ⟨wordFrom a b, ps, d.toNat, ns, f.toNat, ls, sm⟩, r)
    | _, _, _, _ => none
  | .console, a :: b :: r =>
    some (.console ⟨a.toNat.testBit 0, a.toNat.testBit 1, a.toNat.testBit 2, b.toNat⟩, r)
  | _, _ => none

/-- R187: the claims of a beacon; a class outside 0 to 3 fails the frame (Table 10-4). -/
def parseClaims : Nat → List Byte → Option (List Claim × List Byte)
  | 0, r => some ([], r)
  | n + 1, a :: b :: c :: d :: e :: r =>
    if a.toNat ≤ 3 then
      (parseClaims n r).map (fun p => (⟨a.toNat, wordFrom b c, wordFrom d e⟩ :: p.1, p.2))
    else none
  | _ + 1, _ => none

/-- R187: the cuts of a beacon; a cut of unknown cause is passed over (Table 10-4). -/
def parseCuts : Nat → List Byte → Option (List CutRecord × List Byte)
  | 0, r => some ([], r)
  | n + 1, a :: b :: r =>
    (parseCuts n r).map (fun p =>
      match causeOfCode a.toNat with
      | some c => (⟨c, b.toNat⟩ :: p.1, p.2)
      | none => p)
  | _ + 1, _ => none

/-- R187: the alarm records of a beacon; one of unknown kind or state is passed over (R170, Table 10-4), and with it its kind and
qualifier do not appear in the list (DESIGN CHOICE, log entry 71). -/
def parseAlarms : Nat → List Byte → Option (List AlarmRecord × List Byte)
  | 0, r => some ([], r)
  | n + 1, a :: b :: c :: d :: r =>
    (parseAlarms n r).map (fun p =>
      match alarmKindOfCode a.toNat, alarmStateOfCode c.toNat with
      | some k, some st => (⟨k, b.toNat, st, d.toNat⟩ :: p.1, p.2)
      | _, _ => p)
  | _ + 1, _ => none

/-- R185 checks 2 and 5, R187: the contents of a beacon payload, if its length and codes agree; bits 5 to 7 of the flag byte are
ignored (DESIGN CHOICE, log entry 73), and list counts above those of Table 10-2 fail the check (DESIGN CHOICE, log entry 79). -/
def parseBeacon : List Byte → Option Beacon
  | b0 :: b1 :: b2 :: b3 :: b4 :: b5 :: b6 :: b7 :: b8 :: b9 :: b10 :: b11 :: b12 :: b13 :: b14 :: b15 :: b16 ::
      b17 :: b18 :: b19 :: rest => do
    let role ← roleOfCode b0.toNat
    let op ← beaconStateOfCode b5.toNat
    let (part, r1) ← parsePart role rest
    let (claims, r2) ← parseClaims b17.toNat r1
    let (cuts, r3) ← parseCuts b18.toNat r2
    let (alarms, r4) ← parseAlarms b19.toNat r3
    if b17.toNat ≤ 4 ∧ b18.toNat ≤ 8 ∧ b19.toNat ≤ 8 ∧ r4 = [] then
      some
        { part := part
          sequence := b1.toNat
          paramSet := wordFrom b2 b3
          period := b4.toNat
          op := op
          duplicate := b6.toNat.testBit 0
          configFault := b6.toNat.testBit 1
          hot := b6.toNat.testBit 2
          pattern := b6.toNat.testBit 3
          draw := wordFrom b7 b8
          regenRequest := wordFrom b9 b10
          regen := wordFrom b11 b12
          sink := wordFrom b13 b14
          lastResult := if b6.toNat.testBit 4 then some (b15.toNat, b16.toNat) else none
          claims := claims
          cuts := cuts
          alarms := alarms }
    else none
  | _ => none

/-- Table 10-3: the acknowledgement records of an ACK_ALARMS payload, which must end with them. -/
def parseAcks : Nat → List Byte → Option (List AckRecord)
  | 0, [] => some []
  | n + 1, a :: b :: c :: r => (parseAcks n r).map (fun rs => ⟨a, b, c⟩ :: rs)
  | _, _ => none

/-- Table 10-3: the kind and arguments of a command, by its kind code and the bytes that follow it. -/
def parseKind : Nat → List Byte → Option CommandKind
  | 0, [] => some .raisePoles
  | 1, [] => some .lowerPoles
  | 2, [p] => some (.clearLockout p)
  | 3, n :: r => if 1 ≤ n.toNat ∧ n.toNat ≤ 8 then (parseAcks n.toNat r).map .ackAlarms else none
  | 4, [] => some .patternOn
  | 5, [] => some .patternOff
  | _, _ => none

/-- Table 10-3: the kind of a command payload, and its arguments, past its four leading bytes. -/
def parseCommandKind : List Byte → Option CommandKind
  | _ :: _ :: _ :: k :: args => parseKind k.toNat args
  | _ => none

end Sys2Proof.Machine
end

