-- ==== Sys2Proof/Machine/Operands.lean ====
section
/-! DEFINITION. Operands.lean: the quantities the blocks read from the operands of a command: the readings of an analog
sample, the levels of the digital inputs, and the contents of a received frame that passes the checks of R185. -/

namespace Sys2Proof.Machine

/-- The reading of an analog input by its number; 0 for a number that names none. -/
def readingOf (a : AnalogSample) : Nat → Nat
  | 0 => a.ain0.toNat
  | 1 => a.ain1.toNat
  | 2 => a.ain2.toNat
  | 3 => a.ain3.toNat
  | 4 => a.ain4.toNat
  | 5 => a.ain5.toNat
  | 6 => a.ain6.toNat
  | 7 => a.ain7.toNat
  | _ => 0

/-- The latest reading of an analog input. -/
def State.ain (s : State) (i : Nat) : Nat := readingOf s.su.ain i

/-- The filtered level of a digital input, true while active. -/
def State.din (s : State) (i : Nat) : Bool := s.su.din.getLsbD i

/-- R65, Table 4-1: the elevation of a pole, clamped to 0 to 900. -/
def State.elevation (s : State) : Pole → Nat
  | .pos => min 900 (s.ain 1)
  | .neg => min 900 (s.ain 2)

/-- R65, Table 4-1: the magnitude of a pole's lateral angle, reading less 512, clamped to 450. -/
def State.lateral (s : State) : Pole → Nat
  | .pos => min 450 ((s.ain 3 - 512) + (512 - s.ain 3))
  | .neg => min 450 ((s.ain 4 - 512) + (512 - s.ain 4))

/-- R101: the rope trip of a pole. -/
def State.ropeTrip (s : State) : Pole → Bool
  | .pos => s.din 0
  | .neg => s.din 1

/-- R47: the draw demand of the signed demand on AIN1, reading less 512, clamped to 400. -/
def State.signedDraw (s : State) : Nat := min 400 (s.ain 1 - 512)

/-- R47: the regen request of the signed demand on AIN1. -/
def State.signedRegen (s : State) : Nat := min 400 (512 - s.ain 1)

/-- R26: the own discharge limit (AIN2) of the battery station, clamped to 0 to 600 A. -/
def State.ownDischarge (s : State) : Nat := min 600 (s.ain 2)

/-- R26: the own charge acceptance (AIN3) of the battery station, clamped to 0 to 600 A. -/
def State.ownAccept (s : State) : Nat := min 600 (s.ain 3)

/-- R177: the heat duty of the heat selector reading. -/
def heatOfReading (r : Nat) : Nat := r * 9 / 1024

/-- A received frame that passed the checks of R185, by its kind. A cut of unknown cause has passed them: its handling is
the cut controller's (Table 10-4). -/
inductive Received where
  | beacon (station : Nat) (b : Beacon)
  | pattern (station : Nat) (payload : List Byte)
  | cut (station origin : Nat) (cause : Option CutCause) (number : Nat)
  | release (station origin : Nat) (cause : Option CutCause) (number : Nat)
  | command (station origin target number : Nat) (kind : CommandKind)
deriving DecidableEq, Repr

/-- The station number a received frame bears. -/
def Received.station : Received → Nat
  | .beacon n _ => n
  | .pattern n _ => n
  | .cut n _ _ _ => n
  | .release n _ _ _ => n
  | .command n _ _ _ _ => n

/-- R185 checks 2 and 5 by kind: the contents of the payload, if its length and codes agree with the kind. -/
def readPayload (f : Frame) : Option Received :=
  let n := f.station.toNat
  match f.kind.toNat, f.payload with
  | 0, p => (parseBeacon p).map (.beacon n)
  | 1, [o, c, k] => some (.cut n o.toNat (causeOfCode c.toNat) k.toNat)
  | 2, [o, c, k] => some (.release n o.toNat (causeOfCode c.toNat) k.toNat)
  | 3, o :: t :: k :: r =>
    if t.toNat ≤ 15 then (parseCommandKind (o :: t :: k :: r)).map (.command n o.toNat t.toNat k.toNat) else none
  | 4, p => some (.pattern n p)
  | _, _ => none

/-- R181: the priority each kind uses (kind codes 0 to 4). -/
def priorityOfKind : Nat → Nat
  | 0 => 2
  | 3 => 1
  | 4 => 3
  | _ => 0

/-- R185: the frame that passes every check, read; none for a frame discarded. A payload that does not hold as many bytes
as its length field says is no frame of the line. -/
def checkFrame (f : Frame) : Option Received :=
  if crcAgrees f && f.payload.length == f.length.toNat && decide (f.length.toNat ≤ 96) &&
      f.priority.toNat == priorityOfKind f.kind.toNat && f.station != 0 then readPayload f
  else none

end Sys2Proof.Machine
end

