-- ==== Sys2Proof/Machine/Peers.lean ====
section
/-! DEFINITION. Peers.lean: the peer view table: what a read of a peer item yields (R11, R13), the effective period (R8),
and how a frame is stored (R2 to R4, R10). -/

namespace Sys2Proof.Machine

/-- R1: the entry for a station number. -/
def entryOf (t : PeerTable) (n : Nat) : Entry := stationGet (emptyEntry 20) t n

/-- The live entry for a station number. -/
def State.entry (s : State) (n : Nat) : Entry := entryOf s.pvt n

/-- The state with the live entry of a station number replaced. -/
def State.setEntry (s : State) (n : Nat) (e : Entry) : State := s.withPvt (stationPut s.pvt n e)

/-- A number is the own station's (a station whose straps read 0 has no own entry, R197). -/
def State.isOwn (s : State) (n : Nat) : Bool := n == s.osm.number && n != 0

/-- R8: the own period in force: the configured P, 1000 ms in PARKED, 20 ms in FAULTED. -/
def State.periodInForce (s : State) : Nat :=
  match s.osm.op with
  | .parked => 1000
  | .faulted => 20
  | _ => s.settings.period

/-- R8: the sender's period in force. -/
def senderPeriod (b : Beacon) : Nat := if b.op = .parked then 1000 else b.period

/-- R6, R8: the effective period of an entry. -/
def State.effectivePeriod (s : State) (n : Nat) (b : Beacon) : Nat :=
  if s.isOwn n then s.periodInForce else max s.periodInForce (senderPeriod b)

/-- Table 1-4: an entry whose stored items are read while FRESH or STALE. -/
def Entry.heard (e : Entry) : Bool := e.state == .fresh || e.state == .stale

/-- The stored beacon of an entry read while FRESH or STALE. -/
def Entry.heardBeacon (e : Entry) : Option Beacon := if e.heard then e.beacon else none

/-- The stored beacon of an entry read while FRESH. -/
def Entry.freshBeacon (e : Entry) : Option Beacon := if e.state = .fresh then e.beacon else none

/-- R11, R13: the pole part read from the pole station's entry. -/
def polePartOf (t : PeerTable) (pole : Nat) : Option PolePart :=
  match (entryOf t pole).heardBeacon with
  | some b => match b.part with
    | .pole p => some p
    | _ => none
  | none => none

/-- R11, R13: the console record read from the console station's entry. -/
def consolePartOf (t : PeerTable) (console : Nat) : Option ConsolePart :=
  match (entryOf t console).heardBeacon with
  | some b => match b.part with
    | .console c => some c
    | _ => none
  | none => none

/-- The role a stored beacon shows, if the entry holds one. -/
def storedRole (e : Entry) : Option Role := e.beacon.map (fun b => b.part.role)

/-- R26, R48: the entry with the lowest station number whose stored role is the given one. -/
def lowestOfRole (t : PeerTable) (r : Role) : Option Nat :=
  stationNumbers.find? (fun n => storedRole (entryOf t n) == some r)

/-- R26: the discharge limit and charge acceptance read from the battery station's entry, both 0 unless it is FRESH. -/
def batteryRecordOf (t : PeerTable) : Nat × Nat :=
  match lowestOfRole t .battery with
  | some n => match (entryOf t n).freshBeacon with
    | some b => match b.part with
      | .battery d a => (d, a)
      | _ => (0, 0)
    | none => (0, 0)
  | none => (0, 0)

/-- R48, Table 1-4: the applied regen and regen request read from the traction station's entry. -/
def tractionRegenOf (t : PeerTable) : Nat × Nat :=
  match lowestOfRole t .traction with
  | some n => match (entryOf t n).heardBeacon with
    | some b => (b.regen, b.regenRequest)
    | none => (0, 0)
  | none => (0, 0)

/-- R13, R24: the source mode read from the pole station's entry of a table. -/
def sourceOf (t : PeerTable) (pole : Nat) : SourceMode := ((polePartOf t pole).map PolePart.source).getD .none

/-- R24: the source mode read by the station: at the pole station the one its pole watch unit publishes. -/
def State.sourceRead (s : State) : SourceMode :=
  if s.osm.role = .pole then s.pwu.source else sourceOf s.pvt s.settings.poleStation

/-- R29, R100: the special-work flag read; at the console station the one the console functions hold. -/
def State.specialRead (s : State) : Bool :=
  if s.osm.role = .console then s.cf.special
  else ((consolePartOf s.pvt s.settings.consoleStation).map ConsolePart.special).getD false

/-- R137: the heat duty read; at the console station the one the console functions hold. -/
def State.heatRead (s : State) : Nat :=
  if s.osm.role = .console then s.cf.heat
  else ((consolePartOf s.pvt s.settings.consoleStation).map ConsolePart.heat).getD 0

/-- R48: the applied regen of the traction station, read live. -/
def State.regenRead (s : State) : Nat :=
  if s.osm.role = .traction then s.ae.regen else (tractionRegenOf s.pvt).1

/-- R155: the traction station's speed is known and below 10, from its latest sample or its FRESH entry. -/
def State.standstill (s : State) : Bool :=
  if s.osm.role = .traction then s.su.valid && decide (s.ain 7 < 10)
  else match lowestOfRole s.pvt .traction with
    | some n => match (s.entry n).freshBeacon with
      | some b => match b.part with
        | .traction v => decide (v < 10)
        | _ => false
      | none => false
    | none => false

/-- R156: KEY_ON as formed from the key source, keeping the held value while the console's entry is not heard. -/
def State.keyOn (s : State) : Bool :=
  if s.osm.role = .console then s.din 7
  else match s.settings.key with
    | .local_ i => s.din i
    | .console => ((consolePartOf s.pvt s.settings.consoleStation).map ConsolePart.key).getD s.ia.heldKey

/-- R3: a stored claim, its demand at most 400 A and its floor at most its demand. -/
def storedClaim (c : Claim) : Claim :=
  let d := min 400 c.demand
  ⟨c.cls, d, min c.floor d⟩

/-- R3, Table 1-2: the optional part brought within its ranges. -/
def storedPart : Part → Part
  | .traction v => .traction (min 1023 v)
  | .auxiliary => .auxiliary
  | .battery d a => .battery d a
  | .pole p => .pole { p with voltage := min 1023 p.voltage, posCount := min 15 p.posCount, negCount := min 15 p.negCount }
  | .console c => .console { c with heat := min 8 c.heat }

/-- R3: the period code was one of 10, 20 and 50 ms. -/
def periodKnown (v : Nat) : Bool := decide (v = 10 ∨ v = 20 ∨ v = 50)

/-- R3: the contents of a received beacon as they are stored. -/
def storedForm (b : Beacon) : Beacon :=
  { b with
    part := storedPart b.part
    period := if periodKnown b.period then b.period else 50
    draw := min 400 b.draw
    regenRequest := min 400 b.regenRequest
    regen := min 400 b.regen
    sink := min 1600 b.sink
    claims := b.claims.map storedClaim }

/-- No mismatch. -/
def noCauses : Causes := ⟨false, false, false⟩

/-- R10: some mismatch. -/
def Causes.any (c : Causes) : Bool := c.paramSet || c.period || c.role

/-- R10: the mismatch causes a beacon from station n shows; a station in FAULTED records none. -/
def State.causesFor (s : State) (n : Nat) (raw : Beacon) : Causes :=
  if s.osm.op = .faulted then noCauses
  else
    let r := raw.part.role
    { paramSet := decide (raw.paramSet ≠ s.settings.paramSet)
      period := decide (raw.period ≠ s.settings.period) || !periodKnown raw.period
      role := (decide (n = s.settings.poleStation) && r != .pole) ||
        (decide (n = s.settings.consoleStation) && r != .console) ||
        (r == .pole && decide (n ≠ s.settings.poleStation)) ||
        (r == .console && decide (n ≠ s.settings.consoleStation)) }

/-- R2, R3, R8: entry n after a beacon is taken. -/
def State.beaconEntry (s : State) (n : Nat) (raw : Beacon) : Entry :=
  let b := storedForm raw
  ⟨.fresh, 0, s.effectivePeriod n b, 0, s.causesFor n raw, some b⟩

/-- R4: the contents an EMPTY entry takes from a PATTERN frame, before the parts the frame itself replaces. Beyond the role,
the sequence number, the parameter set and the period R4 is silent: the flags off, no command result and empty lists are the
model's (DESIGN CHOICE, log entry 50). -/
def State.blankBeacon (s : State) : Beacon where
  part := .auxiliary
  sequence := 0
  paramSet := s.settings.paramSet
  period := s.settings.period
  op := .pattern
  duplicate := false
  configFault := false
  hot := false
  pattern := true
  draw := 0
  regenRequest := 0
  regen := 0
  sink := 0
  lastResult := none
  claims := []
  cuts := []
  alarms := []

/-- R4: what a PATTERN frame replaces of a stored beacon. -/
def patternForm (b : Beacon) : Beacon :=
  { b with claims := [], draw := 0, regen := 0, regenRequest := 0, sink := 0, op := .pattern, pattern := true }

/-- R4: entry n after a PATTERN frame is taken. -/
def State.patternEntry (s : State) (n : Nat) : Entry :=
  let e := s.entry n
  let b := patternForm (e.beacon.getD s.blankBeacon)
  ⟨.fresh, 0, s.effectivePeriod n b, 0, e.causes, some b⟩

/-- R8: an entry that is not EMPTY takes its effective period anew. -/
def State.reperiod (s : State) (n : Nat) : Entry :=
  let e := s.entry n
  match e.state, e.beacon with
  | .empty, _ => e
  | _, some b => { e with pe := s.effectivePeriod n b }
  | _, none => e

/-- R8: at a change between PARKED and another state every entry that is not EMPTY takes its new Pe at once. -/
def State.reperiodAll (s : State) : State :=
  stationNumbers.foldl (fun t n => t.setEntry n (t.reperiod n)) s

/-- R12: the claims a counted entry yields, by its state. -/
def entryClaims (e : Entry) : List Claim :=
  match e.beacon with
  | none => []
  | some b => match e.state with
    | .fresh => b.claims
    | .stale => [⟨0, b.draw, b.draw⟩]
    | .phantom => [⟨0, b.draw, b.draw⟩]
    | .empty => []

/-- Table 1-4: the applied draw read from an entry. -/
def entryDraw (e : Entry) : Nat :=
  match e.beacon with
  | none => 0
  | some b => if e.state = .empty then 0 else b.draw

end Sys2Proof.Machine
end

