-- ==== Sys2Proof/Machine/Flags.lean ====
section
/-! DEFINITION. Flags.lean: the station's status flags, which are its alarms: the table, raise, clear, acknowledge, mirror
and orphans (R164 to R172), and the conditions in force (R165). -/

namespace Sys2Proof.Machine

/-- Table 10-4: the qualifier code of a pole. -/
def poleCode : Pole → Nat
  | .pos => 1
  | .neg => 2

/-- R165, Table 9-2: the kinds that are latched. -/
def latchedKind : AlarmKind → Bool
  | .poleDrop => true
  | .retrieveFail => true
  | .poleLocked => true
  | .raiseFail => true
  | .duplicateStation => true
  | .paramMismatch => true
  | .configFault => true
  | _ => false

/-- R165, Table 9-2: the severity of a kind; STATION_LOST by the station that was lost, from the own view. -/
def State.severityOf (s : State) (k : AlarmKind) (q : Nat) : Severity :=
  match k with
  | .poleDrop => .critical
  | .retrieveFail => .critical
  | .duplicateStation => .critical
  | .configFault => .critical
  | .poleLocked => .warning
  | .raiseFail => .warning
  | .lineLost => .warning
  | .paramMismatch => .warning
  | .patternError => .warning
  | .bounce => .advisory
  | .hotDerate => .advisory
  | .shortCycle => .advisory
  | .sinkShort => .advisory
  | .stationLost =>
    if q = s.settings.poleStation ∨ storedRole (s.entry q) = some .traction then .critical else .warning

/-- R172: CRITICAL above WARNING above ADVISORY. -/
def Severity.rank : Severity → Nat
  | .critical => 2
  | .warning => 1
  | .advisory => 0

/-- R164: unacknowledged. -/
def AlarmEntry.unack (e : AlarmEntry) : Bool := e.state == .activeUnack || e.state == .clearedUnack

/-- R165: the operating states in which the alarm unit takes raises and clears. -/
def OpState.alarmsTaken : OpState → Bool
  | .listening => true
  | .active => true
  | .pattern => true
  | .parked => true
  | .faulted => true
  | _ => false

/-- R164: the entry is own. -/
def State.ownAlarm (s : State) (e : AlarmEntry) : Bool := e.source == s.osm.number

/-- R164: the own entry of a kind and qualifier. -/
def State.isOwnKey (s : State) (k : AlarmKind) (q : Nat) (e : AlarmEntry) : Bool :=
  s.ownAlarm e && e.kind == k && e.qualifier == q

/-- R172: remove entries; the overflow flag clears at a removal after which the table holds 12 entries or fewer. -/
def AlarmUnit.remove (a : AlarmUnit) (p : AlarmEntry → Bool) : AlarmUnit :=
  let kept := a.entries.filter (fun e => !p e)
  if kept.length < a.entries.length then
    { a with entries := kept, overflow := a.overflow && decide (12 < kept.length) }
  else a

/-- R164: create an entry, drawing its creation sequence number. -/
def AlarmUnit.create (a : AlarmUnit) (e : AlarmEntry) : AlarmUnit :=
  { a with entries := a.entries ++ [{ e with sequence := a.nextSeq }], nextSeq := a.nextSeq + 1 }

/-- R164: the station's uptime in seconds, as an entry records it. -/
def State.uptimeSeconds (s : State) : Nat := min 4294967295 (s.osm.uptime / 1000)

/-- R166: a new own entry, at count 1. Its source is the own number, 0 where the straps read 0 (DESIGN CHOICE, log entry 72). -/
def State.newAlarm (s : State) (k : AlarmKind) (q : Nat) : AlarmEntry :=
  ⟨k, s.osm.number, q, s.severityOf k q, latchedKind k, .activeUnack, 1, s.uptimeSeconds, false, 0⟩

/-- R166: the oldest own entry that is not latched and in the given state. -/
def State.oldestFree (s : State) (st : AlarmState) : Option AlarmEntry :=
  s.au.entries.find? (fun e => s.ownAlarm e && !e.latched && e.state == st)

/-- The entry with the creation sequence number of another. -/
def sameEntry (x e : AlarmEntry) : Bool := e.sequence == x.sequence && e == x

/-- R166: an own entry is created, making room in the rule's order. -/
def State.createOwn (s : State) (k : AlarmKind) (q : Nat) : State :=
  let e := s.newAlarm k q
  if 8 ≤ (s.au.entries.filter s.ownAlarm).length then
    match s.oldestFree .clearedUnack with
    | some x => s.withAu ((s.au.remove (sameEntry x)).create e)
    | none => match s.oldestFree .activeAck with
      | some x => s.withAu ((s.au.remove (sameEntry x)).create e)
      | none => s.withAu { s.au with overflow := true }
  else if 16 ≤ s.au.entries.length then
    match s.au.entries.find? (fun x => !s.ownAlarm x) with
    | some x => s.withAu ((s.au.remove (sameEntry x)).create e)
    | none => s.withAu (s.au.create e)
  else s.withAu (s.au.create e)

/-- R166: a raise of a kind with a qualifier, applied to the own entry. -/
def State.raiseOwn (s : State) (k : AlarmKind) (q : Nat) : State :=
  if s.au.entries.any (s.isOwnKey k q) then
    s.withAu { s.au with entries := s.au.entries.map (fun e =>
      if s.isOwnKey k q e then { e with count := min 255 (e.count + 1), state := .activeUnack } else e) }
  else s.createOwn k q

/-- R167: a clear of a kind with a qualifier, applied to the own entry. -/
def State.clearOwn (s : State) (k : AlarmKind) (q : Nat) : State :=
  let a := s.au.remove (fun e => s.isOwnKey k q e && e.state == .activeAck)
  s.withAu { a with entries := a.entries.map (fun e =>
    if s.isOwnKey k q e && e.state == .activeUnack then { e with state := .clearedUnack } else e) }

/-- R165: the condition of an alarm is in force at its block. -/
def State.inForce (s : State) (k : AlarmKind) (q : Nat) : Bool := s.au.inForce.contains (k, q)

/-- R165: the block that owns a condition finds its onset: it raises unless the condition is in force already. -/
def State.onset (s : State) (k : AlarmKind) (q : Nat) : State :=
  if s.osm.op.alarmsTaken && !s.inForce k q then
    (s.withAu { s.au with inForce := s.au.inForce ++ [(k, q)] }).raiseOwn k q
  else s

/-- R112, R166: POLE_DROP of a pole is raised at each entry into DEWIRED, whether or not its condition is in force already. An
entry that stands counts on; one that R168 has removed is created anew at count 1 (DESIGN CHOICE, log entry 56). -/
def State.raiseDrop (s : State) (p : Pole) : State :=
  if s.osm.op.alarmsTaken then
    (if s.inForce .poleDrop (poleCode p) then s
      else s.withAu { s.au with inForce := s.au.inForce ++ [(.poleDrop, poleCode p)] }).raiseOwn .poleDrop (poleCode p)
  else s

/-- R165: the condition a block owns ends; it hands the clear if the condition was in force. -/
def State.clearCond (s : State) (k : AlarmKind) (q : Nat) : State :=
  if s.osm.op.alarmsTaken && s.inForce k q then
    (s.withAu { s.au with inForce := s.au.inForce.filter (fun p => p != (k, q)) }).clearOwn k q
  else s

/-- R168: one acknowledgement record is stale: its entry exists with another count. -/
def State.ackStale (s : State) (k : AlarmKind) (q c : Nat) : Bool :=
  s.au.entries.any (fun e => s.isOwnKey k q e && e.count != c)

/-- R168: one acknowledgement record applied to the own entry of its kind and qualifier. -/
def State.ackOne (s : State) (k : AlarmKind) (q c : Nat) : State :=
  let a := s.au.remove (fun e => s.isOwnKey k q e && e.count == c && e.state == .clearedUnack)
  s.withAu { a with entries := a.entries.map (fun e =>
    if s.isOwnKey k q e && e.count == c && e.state == .activeUnack then { e with state := .activeAck } else e) }

/-- R168: the records of an ACK_ALARMS in list order; true when at least one was stale. A record of unknown kind names no
entry (Table 10-4). -/
def State.ackAll : State → List AckRecord → State × Bool
  | s, [] => (s, false)
  | s, r :: rs =>
    match alarmKindOfCode r.kind.toNat with
    | none => s.ackAll rs
    | some k =>
      let stale := s.ackStale k r.qualifier.toNat r.count.toNat
      let p := (s.ackOne k r.qualifier.toNat r.count.toNat).ackAll rs
      (p.1, stale || p.2)

/-- R172: a mirrored entry is created if the table has room for it. -/
def State.createMirror (s : State) (e : AlarmEntry) : State :=
  if 16 ≤ s.au.entries.length then
    match s.au.entries.find? (fun x => !s.ownAlarm x && decide (x.severity.rank < e.severity.rank)) with
    | some x => s.withAu ((s.au.remove (sameEntry x)).create e)
    | none => s.withAu { s.au with overflow := true }
  else s.withAu (s.au.create e)

/-- R170 step 3: one record of the list; a count of 0 is taken as 1. -/
def State.mirrorOne (s : State) (n : Nat) (r : AlarmRecord) : State :=
  let c := max 1 r.count
  let here := fun e : AlarmEntry => e.source == n && e.kind == r.kind && e.qualifier == r.qualifier
  if s.au.entries.any here then
    s.withAu { s.au with entries := s.au.entries.map (fun e => if here e then { e with state := r.state, count := c } else e) }
  else
    s.createMirror
      ⟨r.kind, n, r.qualifier, s.severityOf r.kind r.qualifier, latchedKind r.kind, r.state, c, s.uptimeSeconds, false, 0⟩

/-- R170: a record that repeats a kind and qualifier already taken from the same list is passed over. -/
def firstRecords : List (AlarmKind × Nat) → List AlarmRecord → List AlarmRecord
  | _, [] => []
  | seen, r :: rs =>
    if seen.contains (r.kind, r.qualifier) then firstRecords seen rs
    else r :: firstRecords ((r.kind, r.qualifier) :: seen) rs

/-- R170 steps 1 and 2: an entry of station n leaves at a report: an orphan, or one that the report does not list. -/
def unreported (n : Nat) (rs : List AlarmRecord) (e : AlarmEntry) : Bool :=
  e.source == n && (e.orphan || !(rs.any (fun r => r.kind == e.kind && r.qualifier == e.qualifier)))

/-- R170: the alarm report list of station n applied as one change; the overflow flag is judged (R172) after the whole
list. -/
def State.mirrorReport (s : State) (n : Nat) (rs : List AlarmRecord) : State :=
  let taken := firstRecords [] rs
  let kept := s.au.entries.filter (fun e => !unreported n taken e)
  let t := taken.foldl (fun t r => t.mirrorOne n r) (s.withAu { s.au with entries := kept })
  if kept.length < s.au.entries.length ∧ t.au.entries.length ≤ 12 then t.withAu { t.au with overflow := false } else t

/-- R171: every mirrored entry of station n is marked orphan. -/
def State.markOrphans (s : State) (n : Nat) : State :=
  s.withAu { s.au with entries := s.au.entries.map (fun e =>
    if e.source == n && !s.ownAlarm e then { e with orphan := true } else e) }

/-- R171: the orphans of station n are removed, at every station other than the console station. -/
def State.dropOrphans (s : State) (n : Nat) : State :=
  if s.osm.role = .console then s else s.withAu (s.au.remove (fun e => e.source == n && e.orphan))

/-- R169: the alarm report list: every own entry in ascending creation sequence. -/
def State.alarmReport (s : State) : List AlarmRecord :=
  (s.au.entries.filter s.ownAlarm).map (fun e => ⟨e.kind, e.qualifier, e.state, e.count⟩)

/-- R175 steps 1 and 2: every orphan is removed, and every unacknowledged own entry is acknowledged locally. -/
def State.ackLocal (s : State) : State :=
  let a := s.au.remove (fun e => e.orphan)
  let b := a.remove (fun e => s.ownAlarm e && e.state == .clearedUnack)
  s.withAu { b with entries := b.entries.map (fun e =>
    if s.ownAlarm e && e.state == .activeUnack then { e with state := .activeAck } else e) }

/-- The conditions that the chapters clear at entry to DORMANT (R18, R32, R57, R111, R153, R178, R193, R85). -/
def clearsAtDormant : AlarmKind → Bool
  | .paramMismatch => true
  | .hotDerate => true
  | .sinkShort => true
  | .bounce => true
  | .shortCycle => true
  | .stationLost => true
  | .patternError => true
  | .lineLost => true
  | _ => false

/-- R179: the alarm unit at entry to DORMANT, in the rule's order. -/
def State.alarmsDormant (s : State) : State :=
  let s1 := (s.au.inForce.filter (fun p => clearsAtDormant p.1)).foldl (fun t p => t.clearCond p.1 p.2) s
  let a := s1.au.remove (fun e => !s1.ownAlarm e || !e.latched)
  s1.withAu { a with overflow := false }

end Sys2Proof.Machine
end

