-- ==== Sys2Proof/Machine/Channels.lean ====
section
/-! DEFINITION. Channels.lean: the load channel manager of chapter 07: currents, requests, claims, admission, shedding, the
shed list, inhibits, and the offered sink capacity of R52 and R53. -/

namespace Sys2Proof.Machine

/-- R133: the settled record of a channel. -/
def State.record (s : State) (c : Fin 4) : ChannelRecord := s.settings.chans[c]

/-- R135: the run-time fields of a channel. -/
def State.chan (s : State) (c : Fin 4) : Channel := s.lcm.chans[c]

/-- The state with the run-time fields of a channel replaced. -/
def State.setChan (s : State) (c : Fin 4) (ch : Channel) : State :=
  s.withLcm { s.lcm with chans := s.lcm.chans.set c ch }

/-- STARTING or ON. -/
def ChannelState.running (st : ChannelState) : Bool := st == .starting || st == .on

/-- SHED or SUSPENDED: the channel is on the shed list (R144). -/
def ChannelState.listed (st : ChannelState) : Bool := st == .shed || st == .suspended

/-- The present channels' numbers. -/
def State.present (s : State) : List (Fin 4) := channelNumbers.filter (fun c => (s.record c).present)

/-- A channel is present and STARTING or ON. -/
def State.runs (s : State) (c : Fin 4) : Bool := (s.record c).present && (s.chan c).state.running

/-- A channel is present and on the shed list. -/
def State.onList (s : State) (c : Fin 4) : Bool := (s.record c).present && (s.chan c).state.listed

/-- R135: the min-on of a channel in ms. -/
def ChannelRecord.minOnMs (r : ChannelRecord) : Nat := r.minOn * 1000

/-- R135: the min-off of a channel in ms. -/
def ChannelRecord.minOffMs (r : ChannelRecord) : Nat := r.minOff * 1000

/-- R135: the channel's min-off has elapsed. -/
def State.minOffElapsed (s : State) (c : Fin 4) : Bool := decide ((s.record c).minOffMs ≤ (s.chan c).minOff)

/-- R135: the channel's min-on has elapsed. -/
def State.minOnElapsed (s : State) (c : Fin 4) : Bool := decide ((s.record c).minOnMs ≤ (s.chan c).minOn)

/-- R136: the current of a MODULATED channel at a duty in eighths. -/
def dutyCurrent (rated d : Nat) : Nat := rated * d / 8

/-- R137: the effective request r' of a MODULATED channel. -/
def Channel.effective (ch : Channel) : Nat := min ch.request ch.cap

/-- R137: the channel asks to run. -/
def Channel.asks (ch : Channel) : Bool := ch.request != 0

/-- R137: the requested current of a channel. -/
def requestedCurrent (r : ChannelRecord) (ch : Channel) : Nat :=
  match r.kind with
  | .switched => if ch.asks then r.rated else 0
  | .timed => if ch.asks then r.rated else 0
  | .modulated => dutyCurrent r.rated ch.effective
  | .converter => ch.request

/-- R136: the current of a channel but a CONVERTER channel. -/
def loadCurrent (r : ChannelRecord) (ch : Channel) : Nat :=
  if r.present && ch.state.running then
    match r.kind with
    | .switched => r.rated
    | .timed => r.rated
    | .modulated => dutyCurrent r.rated ch.duty
    | .converter => 0
  else 0

/-- R136: L, the sum of the currents of the channels in STARTING and ON other than the CONVERTER channel. -/
def State.load (s : State) : Nat := (channelNumbers.map (fun c => loadCurrent (s.record c) (s.chan c))).sum

/-- R136: the current of a channel; the converter takes the applied draw that the other channels leave. -/
def State.current (s : State) (c : Fin 4) : Nat :=
  if (s.record c).kind = .converter then
    (if s.runs c then min (s.ae.draw - s.load) (s.chan c).request else 0)
  else loadCurrent (s.record c) (s.chan c)

/-- Channel a stands before channel b in order of priority, highest first, and then of number. -/
def State.before (s : State) (a b : Fin 4) : Bool :=
  decide ((s.record a).priority < (s.record b).priority) ||
    ((s.record a).priority == (s.record b).priority && decide (a ≤ b))

/-- Put a channel into a list kept in an order. -/
def insertChannel (le : Fin 4 → Fin 4 → Bool) (c : Fin 4) : List (Fin 4) → List (Fin 4)
  | [] => [c]
  | d :: ds => if le c d then c :: d :: ds else d :: insertChannel le c ds

/-- A list of channels in an order. -/
def orderChannels (le : Fin 4 → Fin 4 → Bool) : List (Fin 4) → List (Fin 4)
  | [] => []
  | c :: cs => insertChannel le c (orderChannels le cs)

/-- The present channels in order of priority, highest first. -/
def State.byPriority (s : State) : List (Fin 4) := orderChannels s.before s.present

/-- The present channels in order of priority, lowest first. -/
def State.lowestFirst (s : State) : List (Fin 4) := s.byPriority.reverse

/-- A channel's shed position; a channel that holds none stands after all that hold one. -/
def Channel.position (ch : Channel) : Nat := ch.shedPos.getD 1000000

/-- R144: the shed list, oldest first. -/
def State.shedOrder (s : State) : List (Fin 4) :=
  orderChannels (fun a b => decide ((s.chan a).position < (s.chan b).position) ||
    ((s.chan a).position == (s.chan b).position && decide (a ≤ b))) (channelNumbers.filter s.onList)

/-- R144: the shed list with the positions. -/
def State.shedList (s : State) : List Placed := s.shedOrder.map (fun c => ⟨c, (s.chan c).position⟩)

/-- A channel's fields as it leaves STARTING or ON, or enters another state: the output goes off, the min-on clock stops,
the min-off clock starts from 0 if it was running (R135, R143); d is 0 in every state but STARTING and ON; a state other
than OFF carries no sink duty (R61), and the channel drops the part of the share placed on it: back in OFF before the next
computation, it carries no sink duty until then (DESIGN CHOICE, log entry 84). -/
def Channel.leave (ch : Channel) (st : ChannelState) : Channel :=
  let keep := st == .off
  { ch with
    state := st
    duty := 0
    winDuty := 0
    minOn := 0
    minOff := if ch.state.running then 0 else ch.minOff
    offRuns := ch.state.running || ch.offRuns
    shedPos := none
    sinkDuty := if keep then ch.sinkDuty else 0
    placed := if keep then ch.placed else 0
    winSink := if keep then ch.winSink else 0 }

/-- R143: the state of a channel shed. -/
def shedState (r : ChannelRecord) : ChannelState := if r.kind = .timed then .suspended else .shed

/-- R147: the condition of SHORT_CYCLE of a channel ends. -/
def State.clearShort (s : State) (c : Fin 4) : State := s.clearCond .shortCycle c.val

/-- R147: a channel runs and its min-on clock has reached its min-on, so a stop finds SHORT_CYCLE cleared, also where the stop is
taken before MIN_ON_ELAPSED in that millisecond. -/
def State.minOnReachedBy (s : State) (c : Fin 4) : Bool := s.runs c && s.minOnElapsed c

/-- R146: a channel on the shed list leaves it at the end of its request: WAITING if its min-off has not elapsed, else OFF. -/
def State.leaveList (s : State) (c : Fin 4) : State :=
  (s.setChan c ((s.chan c).leave (if s.minOffElapsed c then .off else .waiting))).clearShort c

/-- R144: the channels newly on the list take positions after every channel already on it, in order of priority. -/
def State.placeShed (s : State) : State :=
  s.byPriority.foldl (fun t c =>
    if t.onList c && (t.chan c).shedPos == none then
      let p := t.lcm.shedCounter + 1
      let u := t.setChan c { t.chan c with shedPos := some p }
      u.withLcm { u.lcm with shedCounter := p }
    else t) s

/-- R144: the counter is reset to 0 whenever the list is empty. -/
def State.resetCounter (s : State) : State :=
  if channelNumbers.any s.onList then s else s.withLcm { s.lcm with shedCounter := 0 }

/-- R127: a channel of the restoration record that an admission event has shed since the state `s0` leaves the record. -/
def State.dropRecord (s0 s : State) : State :=
  s.withCc { s.cc with restRecord := s.cc.restRecord.filter (fun p => !(s0.runs p.channel && !s.runs p.channel)) }

/-- R124, R144: the channels shed take their places on the list, those too that only their min-on held running (DEDUCED, log
entry 22). -/
def State.finishShed (s : State) : State := s.placeShed.resetCounter

/-- A channel forced off: SHED, or SUSPENDED if it is TIMED (R124, R143); SHORT_CYCLE has cleared if its min-on is reached
(R147). -/
def State.stop (s : State) (c : Fin 4) : State :=
  let t := s.setChan c ((s.chan c).leave (shedState (s.record c)))
  if s.minOnReachedBy c then t.clearShort c else t

/-- R142: every channel in STARTING or ON is forced off. -/
def State.stopAll (s : State) : State :=
  channelNumbers.foldl (fun t c => if t.runs c then t.stop c else t) s

/-- R141: a channel contributes to the claim list. -/
def State.contributes (s : State) (c : Fin 4) : Bool :=
  let ch := s.chan c
  (s.record c).present && ch.state != .waiting && ch.state != .inhibited && (ch.asks || ch.state.running) &&
    (s.osm.op != .parked || (s.record c).park)

/-- R141: the demand of a contribution. -/
def State.contribDemand (s : State) (c : Fin 4) : Nat :=
  if (s.chan c).asks then requestedCurrent (s.record c) (s.chan c) else s.current c

/-- R138, R141: the critical flag acts on the contribution under the floor rule CRITICAL_PRESSURE. -/
def State.criticalFloor (s : State) (c : Fin 4) : Bool :=
  (s.record c).floorRule == .criticalPressure && (s.chan c).critical

/-- R141: the class of a contribution. -/
def State.contribClass (s : State) (c : Fin 4) : Nat := if s.criticalFloor c then 0 else (s.record c).cls

/-- R141: the floor of a contribution. -/
def State.contribFloor (s : State) (c : Fin 4) : Nat :=
  match (s.record c).floorRule with
  | .none => 0
  | .whenRequesting => s.contribDemand c
  | .criticalPressure => if (s.chan c).critical then (s.record c).rated else 0

/-- R141: the claim of one class, if at least one channel contributes to it. -/
def State.claimOf (s : State) (k : Nat) : List Claim :=
  match channelNumbers.filter (fun c => s.contributes c && s.contribClass c == k) with
  | [] => []
  | c :: cs =>
    let d := min 400 ((c :: cs).map s.contribDemand).sum
    [⟨k, d, min ((c :: cs).map s.contribFloor).sum d⟩]

/-- R141, R34, R153: the own claim list as the manager builds it, in ascending order of class. -/
def State.builtClaims (s : State) : List Claim :=
  match s.osm.op with
  | .listening | .active | .parked =>
    if s.ia.outputs.station then [] else [0, 1, 2, 3].flatMap s.claimOf
  | _ => []

/-- R143 step 1: the duty a MODULATED channel is lowered to, one eighth at a time down to 1. -/
def lowerTo (fits : Nat → Bool) : Nat → Nat
  | 0 => 0
  | 1 => 1
  | n + 2 => if fits (n + 2) then n + 2 else lowerTo fits (n + 1)

/-- R146, R149: a lowered duty, whose fall takes effect on the output at once. -/
def Channel.lowered (ch : Channel) (d : Nat) : Channel := { ch with duty := d, winDuty := min ch.winDuty d }

/-- R143 step 1 on one channel. -/
def State.lowerDuty (s : State) (c : Fin 4) : State :=
  if s.runs c && (s.record c).kind == .modulated && decide (s.ae.draw < s.load) then
    let r := (s.record c).rated
    let others := s.load - dutyCurrent r (s.chan c).duty
    s.setChan c ((s.chan c).lowered
      (lowerTo (fun d => decide (others + dutyCurrent r d ≤ s.ae.draw)) (s.chan c).duty))
  else s

/-- R143: one step of shedding on one channel, while L exceeds A: a channel with a counted current that the step names is
shed, and raises SHORT_CYCLE if it is within its min-on and the step says so (R147). -/
def State.shedStep (pick : State → Fin 4 → Bool) (short : Bool) (s : State) (c : Fin 4) : State :=
  if decide (s.ae.draw < s.load) && s.runs c && loadCurrent (s.record c) (s.chan c) != 0 && pick s c then
    let t := s.stop c
    if short && !s.minOnElapsed c then t.onset .shortCycle c.val else t
  else s

/-- R143: reduction, each step on the channels of lowest priority first, until L ≤ A. -/
def State.reduce (s : State) : State :=
  let o := s.lowestFirst
  let s1 := o.foldl State.lowerDuty s
  let s2 := o.foldl (State.shedStep (fun t c => t.contribFloor c == 0 && t.minOnElapsed c) false) s1
  let s3 := o.foldl (State.shedStep (fun t c => t.contribFloor c == 0) true) s2
  o.foldl (State.shedStep (fun _ _ => true) true) s3

/-- R145: a channel fits the room A − L. -/
def State.fits (s : State) (c : Fin 4) : Bool :=
  let room := s.ae.draw - s.load
  match (s.record c).kind with
  | .switched => decide ((s.record c).rated ≤ room)
  | .timed => decide ((s.record c).rated ≤ room)
  | .modulated => decide (dutyCurrent (s.record c).rated 1 ≤ room)
  | .converter => decide (0 < room)

/-- R145: restoration may start or raise anything. -/
def State.mayRestore (s : State) : Bool :=
  decide (0 < s.ae.draw) && decide (s.load ≤ s.ae.draw) && s.cc.phase != .held && s.cc.phase != .offset

/-- R145: a channel may start but for the start-spacing timer. -/
def State.ready (s : State) (c : Fin 4) : Bool :=
  (s.record c).present && (s.chan c).asks && s.minOffElapsed c && s.fits c

/-- R145: a channel may start. -/
def State.mayStart (s : State) (c : Fin 4) : Bool := s.ready c && decide (200 ≤ s.lcm.spacing)

/-- R145: the largest duty up to a bound whose current is within a limit, at least the given lowest. -/
def largestDuty (rated limit : Nat) : Nat → Nat
  | 0 => 0
  | d + 1 => if dutyCurrent rated (d + 1) ≤ limit then d + 1 else largestDuty rated limit d

/-- R145: the duty a channel starts at. -/
def State.startDuty (s : State) (c : Fin 4) : Nat :=
  if (s.record c).kind = .modulated then
    largestDuty (s.record c).rated (s.ae.draw - s.load) (s.chan c).effective
  else 0

/-- R127: the restoration record takes a channel of the restoration set that leaves the shed list by a restart. -/
def State.recordRestart (s : State) (c : Fin 4) : State :=
  if s.cc.phase == .restoring && s.onList c && s.cc.restSet.any (fun p => p.channel == c) then
    s.withCc { s.cc with restRecord := s.cc.restRecord ++ [⟨c, (s.chan c).position⟩] }
  else s

/-- R145: a channel enters STARTING, leaves the shed list, and starts the start-spacing timer from 0. -/
def State.start (s : State) (c : Fin 4) : State :=
  let t := s.recordRestart c
  let u := t.setChan c { t.chan c with state := .starting, minOn := 0, duty := s.startDuty c, shedPos := none }
  u.withLcm { u.lcm with spacing := 0, spacingRuns := true }

/-- R145: the reserved current: what the channels that only the start-spacing timer holds back request. -/
def State.reservedCurrent (s : State) : Nat :=
  if 200 ≤ s.lcm.spacing ∨ s.mayRestore = false then 0
  else ((channelNumbers.filter (fun c => s.ready c && ((s.chan c).state.listed || (s.chan c).state == ChannelState.off))).map
    (fun c => requestedCurrent (s.record c) (s.chan c))).sum

/-- R145 step 3 on one channel: as many eighths as the room allows up to r'. -/
def State.raiseDuty (reserved : Nat) (s : State) (c : Fin 4) : State :=
  let ch := s.chan c
  if s.runs c && (s.record c).kind == .modulated && decide (ch.duty < ch.effective) then
    let r := (s.record c).rated
    let limit := dutyCurrent r ch.duty + (s.ae.draw - s.load - reserved)
    s.setChan c { ch with duty := max ch.duty (largestDuty r limit ch.effective) }
  else s

/-- R145: restoration: the shed list, then OFF channels, then duty raises. -/
def State.restore (s : State) : State :=
  if s.mayRestore then
    let s1 := match s.shedOrder.find? s.mayStart with
      | some c => s.start c
      | none => match s.byPriority.find? (fun c => (s.chan c).state == ChannelState.off && s.mayStart c) with
        | some c => s.start c
        | none => s
    let r := s1.reservedCurrent
    let s2 := s1.byPriority.foldl (State.raiseDuty r) s1
    s2.withLcm { s2.lcm with reserved := r }
  else s

/-- R142: an admission event fits the channels to the applied draw: reduction, and restoration unless it shed. While A is
0 it sheds every channel in STARTING or ON. -/
def State.admission (s : State) : State :=
  if s.ae.draw = 0 then
    if channelNumbers.any s.runs then (State.dropRecord s s.stopAll).finishShed else s
  else
    let t := s.reduce
    if channelNumbers.any (fun c => s.runs c && !t.runs c) then (State.dropRecord s t).finishShed
    else t.restore.resetCounter

/-- R137, R151, R152, R153: the request of a channel as its source and the operating state give it. In PATTERN it is held as 0,
where R153 says that no request is acted on (DESIGN CHOICE, log entry 57). -/
def State.wantedRequest (s : State) (c : Fin 4) : Nat :=
  let r := s.record c
  let ch := s.chan c
  let live := match s.osm.op with
    | .listening | .active => true
    | .parked => r.park
    | .dormant => r.source == .din
    | _ => false
  if r.present && live then
    match r.kind, r.source with
    | .switched, .din => if s.din r.input then 1 else 0
    | .switched, .pressure => if ch.requesting then 1 else 0
    | .modulated, .din => if s.din r.input then 8 else 0
    | .modulated, .heatDuty => s.heatRead
    | .timed, .din => if ch.cyclePending then 1 else 0
    | .converter, .demand =>
      if s.su.valid then
        min r.rated (if s.osm.role = .traction && r.demandInput == 1 then s.signedDraw else s.ain r.demandInput)
      else 0
    | _, _ => 0
  else 0

/-- R146: the end of a request acts by the channel's state; within min-on a running channel is held, and with its min-on
reached SHORT_CYCLE has cleared (R147). -/
def State.endRequest (s : State) (c : Fin 4) : State :=
  if s.runs c then (if s.minOnElapsed c then (s.setChan c ((s.chan c).leave .waiting)).clearShort c else s)
  else if s.onList c then s.leaveList c
  else s

/-- R146: a MODULATED channel whose r' lies above 0 but below its d has d lowered to r' at once. -/
def State.fitDuty (s : State) (c : Fin 4) : State :=
  let ch := s.chan c
  if s.runs c && (s.record c).kind == .modulated && ch.asks && decide (ch.effective < ch.duty) then
    s.setChan c (ch.lowered ch.effective)
  else s

/-- R137, R146: a channel takes the request its source gives. -/
def State.refreshOne (s : State) (c : Fin 4) : State :=
  let ch := s.chan c
  let r := s.wantedRequest c
  if r = ch.request then s.fitDuty c
  else
    let t := s.setChan c { ch with request := r }
    if r = 0 then t.endRequest c else t.fitDuty c

/-- R137, R144: every present channel takes the request its source gives, by which the shed list may become empty. -/
def State.refreshRequests (s : State) : State := (s.present.foldl State.refreshOne s).resetCounter

/-- R148: a channel is inhibited. -/
def Inhibits.reaches (o : Inhibits) (c : Fin 4) : Bool :=
  o.station || (match c with
    | 0 => o.chan0
    | 1 => o.chan1
    | 2 => o.chan2
    | 3 => o.chan3)

/-- R148: the start and the end of an inhibit on one channel, by the outputs of an evaluation; SHORT_CYCLE ends as the channel
leaves the shed list and has cleared if its min-on is reached (R147). -/
def State.inhibitOne (o : Inhibits) (s : State) (c : Fin 4) : State :=
  let ch := s.chan c
  if o.reaches c then
    if ch.state = .inhibited then s
    else
      let t := s.setChan c { ch.leave .inhibited with cyclePending := false, cycle := 0 }
      if s.onList c || s.minOnReachedBy c then t.clearShort c else t
  else if ch.state = .inhibited then s.setChan c (ch.leave .off)
  else s

/-- R144, R148: the outputs of an evaluation act on every present channel, by which the shed list may become empty. -/
def State.applyInhibits (s : State) (o : Inhibits) : State := (s.present.foldl (State.inhibitOne o) s).resetCounter

/-- R52: the cap on a sink-capable channel: 4 while HOT or while its thermal cap is in force, else 8. -/
def State.sinkCap (s : State) (c : Fin 4) : Nat := if s.ae.hot then 4 else (s.chan c).cap

/-- R61: a channel's state carries sink duty. -/
def ChannelState.sinks (st : ChannelState) : Bool := st == .off || st == .starting || st == .on

/-- R52, R64, R151: a channel may offer sink capacity. -/
def State.isSink (s : State) (c : Fin 4) : Bool :=
  let r := s.record c
  r.present && r.sink && r.kind == .modulated && (s.chan c).state.sinks && (s.osm.op != .parked || r.park)

/-- R52: the capacity a channel offers. -/
def State.channelCapacity (s : State) (c : Fin 4) : Nat :=
  if s.isSink c then
    dutyCurrent (s.record c).rated (s.sinkCap c) - dutyCurrent (s.record c).rated (s.chan c).duty
  else 0

/-- R133, R134: the station's CONVERTER channel, if present. -/
def State.converter (s : State) : Option (Fin 4) :=
  channelNumbers.find? (fun c => (s.record c).present && (s.record c).kind == .converter)

/-- R53, R159, R160: the battery's capacity at the battery station; after an inhibit it is read again at the next sample. -/
def State.batteryCapacity (s : State) : Nat :=
  if s.osm.role = .battery ∧ s.sourceRead = .wire ∧ s.ia.outputs.station = false ∧ s.ae.barred = false then
    match s.converter with
    | some c => if (s.chan c).state = .inhibited then 0 else s.ownAccept - s.current c
    | none => s.ownAccept
  else 0

/-- R52: the sink capacity S the station offers; 0 in the states that neither offer nor sink, where R64 has the
beacon carry 0; so the own S is 0 there in the sums and shares too (DESIGN CHOICE, log entry 80). -/
def State.offeredSink (s : State) : Nat :=
  match s.osm.op with
  | .listening | .active | .parked =>
    (channelNumbers.map s.channelCapacity).sum + s.batteryCapacity
  | _ => 0

/-- R61: the sink duty for a placed part, no more than the cap less d. -/
def State.sinkDutyFor (s : State) (c : Fin 4) (p : Nat) : Nat :=
  let r := (s.record c).rated
  min ((p * 8 + r - 1) / r) (s.sinkCap c - (s.chan c).duty)

/-- R61: a placed part takes effect as sink duty on a channel that may carry it. -/
def State.placeOn (s : State) (c : Fin 4) (p : Nat) : State :=
  if s.isSink c then s.setChan c { s.chan c with placed := p, sinkDuty := s.sinkDutyFor c p }
  else s.setChan c { s.chan c with placed := 0, sinkDuty := 0 }

/-- R61: the share spread over the channels in order of priority, each up to its limit; what is left unplaced. -/
def State.spread (limit : State → Fin 4 → Nat) : State → Nat → List (Fin 4) → State × Nat
  | s, left, [] => (s, left)
  | s, left, c :: cs =>
    let p := min left (limit s c)
    State.spread limit (s.placeOn c p) (left - p) cs

/-- R61, R62: the share of a computation is placed anew, on the channels and then on the battery, each up to the capacity it
offers at the computation's end (DESIGN CHOICE, log entry 53). -/
def State.placeShare (s : State) : State :=
  let p := State.spread State.channelCapacity s s.ae.share s.byPriority
  p.1.withLcm { p.1.lcm with batteryPart := min p.2 p.1.batteryCapacity }

/-- R60, R61, R150: between computations the placed parts follow a fall of the share and a change of state or cap; no part
moves to another channel. Sink duty that a rise of d has cut comes back at once as d falls, e being worked out from the placed
part in each step (DESIGN CHOICE, log entry 85). The battery part is cut with its capacity and not restored (DESIGN CHOICE, log
entry 54). -/
def State.trimShare (s : State) : State :=
  let p := State.spread (fun t c => (t.chan c).placed) s s.ae.share s.byPriority
  p.1.withLcm { p.1.lcm with batteryPart := min p.1.lcm.batteryPart (min p.2 p.1.batteryCapacity) }

/-- R61: the current that sink duty adds to a channel. -/
def State.sinkAdds (s : State) (c : Fin 4) : Nat :=
  let r := (s.record c).rated
  let ch := s.chan c
  if s.isSink c then dutyCurrent r (ch.duty + ch.sinkDuty) - dutyCurrent r ch.duty else 0

/-- R62: the applied sink share. -/
def State.appliedShare (s : State) : Nat := (channelNumbers.map s.sinkAdds).sum + s.lcm.batteryPart

/-- R149: a slot lies in the on-window of a channel, which begins at slot 2 × number and wraps past slot 7. -/
def inWindow (c : Fin 4) (width slot : Nat) : Bool := decide ((slot + 8 - (2 * c.val) % 8) % 8 < width)

/-- R149: the operating states in which the channel outputs are off. -/
def OpState.outputsOff : OpState → Bool
  | .listening => false
  | .active => false
  | .parked => false
  | _ => true

/-- R149: a channel's output. -/
def State.channelOutput (s : State) (c : Fin 4) : Bool :=
  let r := s.record c
  let ch := s.chan c
  if !r.present || s.osm.op.outputsOff then false
  else match r.kind with
    | .modulated =>
      if ch.state.running then inWindow c (ch.winDuty + ch.winSink) s.lcm.slot
      else if ch.state == .off && r.sink then inWindow c ch.winSink s.lcm.slot
      else false
    | .converter =>
      ch.state.running || (ch.state != .inhibited &&
        ((s.osm.role == .traction && decide (0 < s.ae.regen)) ||
          (s.osm.role == .battery && decide (0 < s.lcm.batteryPart))))
    | _ => ch.state.running

end Sys2Proof.Machine
end

