-- ==== Sys2Proof/Machine/Allotment.lean ====
section
/-! DEFINITION. Allotment.lean: the draw and regeneration computations of chapters 02 and 03 on a snapshot. -/

namespace Sys2Proof.Machine

/-- R28: the line draw envelope at a line voltage. -/
def lineDraw (c : Settings) (v : Nat) : Nat :=
  if c.vkneeLow ≤ v then c.imax
  else if v ≤ c.vcutLow then 0
  else c.imax * (v - c.vcutLow) / (c.vkneeLow - c.vcutLow)

/-- R50: the line regeneration envelope at a line voltage. -/
def lineRegen (c : Settings) (v : Nat) : Nat :=
  if v ≤ c.vkneeHigh then c.iregenMax
  else if c.vcutHigh ≤ v then 0
  else c.iregenMax * (c.vcutHigh - v) / (c.vcutHigh - c.vkneeHigh)

/-- R24: the source mode a computation uses. -/
def State.sourceUsed (s : State) (x : Snapshot) : SourceMode :=
  if s.osm.role = .pole then x.source else sourceOf x.entries s.settings.poleStation

/-- R25: the line voltage a computation uses. -/
def State.voltageUsed (s : State) (x : Snapshot) : Nat :=
  if s.osm.role = .pole then x.voltage
  else ((polePartOf x.entries s.settings.poleStation).map PolePart.voltage).getD 0

/-- R26: the battery record a computation uses. -/
def State.batteryUsed (s : State) (x : Snapshot) : Nat × Nat :=
  if s.osm.role = .battery then (x.discharge, x.accept) else batteryRecordOf x.entries

/-- R29: the special-work flag a computation uses. -/
def State.specialUsed (s : State) (x : Snapshot) : Bool :=
  if s.osm.role = .console then x.special
  else ((consolePartOf x.entries s.settings.consoleStation).map ConsolePart.special).getD false

/-- R27, R29: the draw envelope, with the special-work cap. -/
def State.drawEnvelope (s : State) (x : Snapshot) : Nat :=
  let e := match s.sourceUsed x with
    | .wire => lineDraw s.settings (s.voltageUsed x)
    | .battery => (s.batteryUsed x).1
    | .gap => 0
    | .none => 0
  if s.specialUsed x then min e s.settings.isw else e

/-- R30: the usable envelope. -/
def State.usableDraw (s : State) (x : Snapshot) : Nat := s.drawEnvelope x - s.settings.reserve

/-- R49: the usable regeneration envelope. -/
def State.usableRegenOf (s : State) (x : Snapshot) : Nat :=
  let e := match s.sourceUsed x with
    | .wire => lineRegen s.settings (s.voltageUsed x)
    | .battery => (s.batteryUsed x).2
    | .gap => 0
    | .none => 0
  e - s.settings.reserve

/-- R31: the claims of one station with their indices, those of demand 0 dropped. -/
def countedOf (n : Nat) (cs : List Claim) : List CountedClaim :=
  (cs.zipIdx.map (fun p => ⟨n, p.2, p.1⟩)).filter (fun c => c.claim.demand != 0)

/-- R12, R31: the counted claims of a computation, by ascending station number and then index. -/
def State.countedClaims (s : State) (x : Snapshot) : List CountedClaim :=
  stationNumbers.flatMap (fun n =>
    countedOf n (if s.isOwn n then x.ownClaims else entryClaims (entryOf x.entries n)))

/-- R36: the floor sum. -/
def floorSum (cs : List CountedClaim) : Nat := (cs.map (fun c => c.claim.floor)).sum

/-- R37: a claim's extra. -/
def CountedClaim.extra (c : CountedClaim) : Nat := c.claim.demand - c.claim.floor

/-- R36: the grants when the floors alone exhaust the usable envelope. -/
def floorGrants (u sf : Nat) (cs : List CountedClaim) : List Granted :=
  cs.map (fun c => ⟨c, c.claim.floor * u / sf⟩)

/-- R37: the extras of a class. -/
def classExtra (k : Nat) (gs : List Granted) : Nat :=
  (gs.map (fun g => if g.counted.claim.cls = k then g.counted.extra else 0)).sum

/-- R37: the amounts the proportional sharing of W over T gives a class. -/
def classShared (k w t : Nat) (gs : List Granted) : Nat :=
  (gs.map (fun g => if g.counted.claim.cls = k then g.counted.extra * w / t else 0)).sum

/-- R38: the leftover of a class, dealt 1 A at a time in order, skipping a claim that has its whole extra. -/
def dealLeftover (k : Nat) : Nat → List Granted → List Granted
  | _, [] => []
  | left, g :: gs =>
    if g.counted.claim.cls = k ∧ g.grant < g.counted.claim.demand ∧ 0 < left then
      { g with grant := g.grant + 1 } :: dealLeftover k (left - 1) gs
    else g :: dealLeftover k left gs

/-- R37: one class of the class stage, with the remainder W. -/
def classStage (k : Nat) (p : Nat × List Granted) : Nat × List Granted :=
  let w := p.1
  let gs := p.2
  let t := classExtra k gs
  if t = 0 then (w, gs)
  else if t ≤ w then
    (w - t, gs.map (fun g =>
      if g.counted.claim.cls = k then { g with grant := g.grant + g.counted.extra } else g))
  else
    (0, dealLeftover k (w - classShared k w t gs) (gs.map (fun g =>
      if g.counted.claim.cls = k then { g with grant := g.grant + g.counted.extra * w / t } else g)))

/-- R37: the classes in order 0, 1, 2, 3 from the floors. -/
def classGrants (w : Nat) (cs : List CountedClaim) : List Granted :=
  (classStage 3 (classStage 2 (classStage 1 (classStage 0 (w, cs.map (fun c => ⟨c, c.claim.floor⟩)))))).2

/-- R36 to R39: the grants of the counted claims from the usable envelope. -/
def allot (u : Nat) (cs : List CountedClaim) : List Granted :=
  if u ≤ floorSum cs then floorGrants u (floorSum cs) cs else classGrants (u - floorSum cs) cs

/-- R39: the own grant, the sum over the own claims, clamped to the station maximum. -/
def State.ownGrant (s : State) (gs : List Granted) : Nat :=
  min (((gs.filter (fun g => s.isOwn g.counted.station)).map Granted.grant).sum) s.settings.stationMax

/-- R51: the counted entries (R12) other than the own one. -/
def State.countedEntry (s : State) (x : Snapshot) (n : Nat) : Bool :=
  !s.isOwn n && (entryOf x.entries n).state != .empty

/-- R48: the station number of the traction station of a computation, if there is one. -/
def State.tractionNumber (s : State) (x : Snapshot) : Option Nat :=
  if s.osm.role = .traction then some s.osm.number else lowestOfRole x.entries .traction

/-- R51: the on-board absorption. -/
def State.absorptionOf (s : State) (x : Snapshot) : Nat :=
  ((stationNumbers.filter (fun n => s.countedEntry x n && s.tractionNumber x != some n)).map
    (fun n => entryDraw (entryOf x.entries n))).sum + (if s.osm.role = .traction then 0 else x.ownDraw)

/-- R54: the capacity a station offers a computation: the own S, or the stored S of a FRESH peer. -/
def State.capacityOf (s : State) (x : Snapshot) (n : Nat) : Nat :=
  if s.isOwn n then x.sink else ((entryOf x.entries n).freshBeacon.map Beacon.sink).getD 0

/-- R54, R59: the sink stations of a computation with their capacities, in ascending station number. -/
def State.sinkStations (s : State) (x : Snapshot) : List SinkShare :=
  (stationNumbers.map (fun n => (⟨n, s.capacityOf x n, 0⟩ : SinkShare))).filter (fun k => k.capacity != 0)

/-- R54: the total sink capacity. -/
def totalSink (ks : List SinkShare) : Nat := (ks.map SinkShare.capacity).sum

/-- R59: the leftover of the proportional shares, dealt 1 A at a time, skipping a share that has reached its capacity. -/
def dealShares : Nat → List SinkShare → List SinkShare
  | _, [] => []
  | left, k :: ks =>
    if k.share < k.capacity ∧ 0 < left then { k with share := k.share + 1 } :: dealShares (left - 1) ks
    else k :: dealShares left ks

/-- R59: the sink shares of the excess regen over the sink stations. -/
def sinkShares (excess : Nat) (ks : List SinkShare) : List SinkShare :=
  let t := totalSink ks
  if excess = 0 ∨ t = 0 then ks.map (fun k => { k with share := 0 })
  else if t ≤ excess then ks.map (fun k => { k with share := k.capacity })
  else
    let prop := ks.map (fun k => { k with share := excess * k.capacity / t })
    dealShares (excess - (prop.map SinkShare.share).sum) prop

/-- R59: the own share among the computed shares. -/
def State.ownShare (s : State) (ks : List SinkShare) : Nat :=
  ((ks.filter (fun k => s.isOwn k.station)).map SinkShare.share).sum

/-- R41, R55: the conditions on an increase, in the snapshot and the frozen own quantities. -/
def State.increaseAllowed (s : State) (x : Snapshot) : Bool :=
  (x.op == .active || x.op == .parked) &&
    (entryOf x.entries s.settings.poleStation).state == .fresh &&
    stationNumbers.all (fun n => !(s.countedEntry x n) || (entryOf x.entries n).state == .fresh) &&
    !x.offsetRunning

/-- R40, R41, R55: a quantity after a computation: down to its grant at once, up by at most K where an increase is
allowed, else as it was. -/
def ramp (allowed : Bool) (k prev grant : Nat) : Nat :=
  if grant < prev then grant else if prev < grant ∧ allowed then min grant (prev + k) else prev

/-- R45: the duty for a draw setpoint. -/
def drawDuty (a : Nat) : Nat := min 1023 (512 + 512 * a / 400)

/-- R45: the duty for a regen setpoint. -/
def regenDuty (a : Nat) : Nat := 512 - 512 * a / 400

/-- R33: a claim under the hot derate. -/
def derated (c : Claim) : Claim := { c with demand := c.floor + (c.demand - c.floor) / 2 }

/-- R34: a claim under the duplicate limit. -/
def floored (c : Claim) : Claim := { c with demand := c.floor }

/-- R31, R33, R34: the own claim list as published: the hot derate, then the duplicate limit, within the bounds of R31;
empty in PATTERN and FAULTED and in the states that publish nothing. -/
def State.publishedClaims (s : State) : List Claim :=
  match s.osm.op with
  | .listening | .active | .parked =>
    let a := s.lcm.claims.map storedClaim
    let b := if s.ae.hot then a.map derated else a
    if s.bus.duplicate then b.map floored else b
  | _ => []

/-- R35: one class of a published list against the list as it last stood. -/
def classFell (old new : List Claim) (k : Nat) : Bool :=
  match old.find? (fun c => c.cls == k) with
  | none => false
  | some o => match new.find? (fun c => c.cls == k) with
    | none => true
    | some n => decide (n.demand < o.demand ∨ n.floor < o.floor)

/-- R35: the own claim list as published decreases. -/
def claimsFell (old new : List Claim) : Bool := [0, 1, 2, 3].any (classFell old new)

end Sys2Proof.Machine
end

