-- ==== Sys2Proof/Machine/Ops.lean ====
section
/-! DEFINITION. Ops.lean: the operations several commands share: the groups of operating states, the forcing to 0 of R42,
the slots of the transmit queue (R183), the composition of a beacon (R184, R191) and the setpoint (R44, R45). -/

namespace Sys2Proof.Machine

/-- R20: the operating states in which the station composes, and in which periodic events fall due. -/
def OpState.composes : OpState → Bool
  | .listening => true
  | .active => true
  | .pattern => true
  | .parked => true
  | .faulted => true
  | _ => false

/-- R185: the operating states in which the station receives: those in which it composes. -/
def OpState.receives (o : OpState) : Bool := o.composes

/-- R92, R130, R175, R176, R193: LISTENING, ACTIVE, PATTERN and PARKED. -/
def OpState.serves : OpState → Bool
  | .listening => true
  | .active => true
  | .pattern => true
  | .parked => true
  | _ => false

/-- R42: the operating states in which the applied draw may be above 0. -/
def OpState.draws : OpState → Bool
  | .active => true
  | .parked => true
  | _ => false

/-- R42, R56: a source mode under which no current is allowed. -/
def SourceMode.dead : SourceMode → Bool
  | .none => true
  | .gap => true
  | _ => false

/-- R42: a condition that forces the applied draw, the applied regen and the sink share to 0 holds. -/
def State.forced (s : State) : Bool := !s.cc.cuts.isEmpty || s.sourceRead.dead || !s.osm.op.draws

/-- R42, R56, R57, R60: what the start of a forcing condition does at once. -/
def State.zeroDraw (s : State) : State :=
  (s.withAe { s.ae with draw := 0, regen := 0, share := 0, shareBase := 0 }).clearCond .sinkShort 0

/-- R42: the forcing conditions act. -/
def State.forceZero (s : State) : State := if s.forced then s.zeroDraw else s

/-- R183: one when the frame being driven holds a slot of the given kind. -/
def BusUnit.driven (b : BusUnit) (k : Slot) : Nat :=
  match b.sending with
  | some x => if x.slot = k then 1 else 0
  | none => 0

/-- R183: a composed frame replaces the one that waits in the beacon slot. -/
def State.pushBeacon (s : State) (m : Message) : State := s.withBus { s.bus with beaconSlot := some m }

/-- R183: a third urgent frame discards the oldest that is not in transmission. While an urgent frame is driven that is the
other one, or the driven one if it is found to be in arbitration still (DEDUCED, log entry 26). -/
def BusUnit.putUrgent (b : BusUnit) (m : Message) : BusUnit :=
  if b.urgentSlots.length + b.driven .urgent < 2 then { b with urgentSlots := b.urgentSlots ++ [m] }
  else { b with
    urgentSlots := b.urgentSlots.drop 1 ++ [m]
    sending := b.sending.map (fun x =>
      if x.slot = .urgent then { x with dropped := true, displaced := b.urgentSlots.head? } else x) }

/-- R183: an urgent frame is handed over. -/
def State.pushUrgent (s : State) (m : Message) : State := s.withBus (s.bus.putUrgent m)

/-- R183: a command handed over while all three slots hold a frame is discarded. -/
def BusUnit.putCommand (b : BusUnit) (m : Message) : BusUnit :=
  if b.commandSlots.length + b.driven .command < 3 then { b with commandSlots := b.commandSlots ++ [m] } else b

/-- R183: a command is handed over. -/
def State.pushCommand (s : State) (m : Message) : State := s.withBus (s.bus.putCommand m)

/-- R184, Table 10-4: the operating state a beacon carries. -/
def OpState.published : OpState → BeaconState
  | .active => .active
  | .pattern => .pattern
  | .parked => .parked
  | .faulted => .faulted
  | _ => .listening

/-- R91: the pole part as it is published. -/
def State.polePart (s : State) : PolePart :=
  ⟨s.ain 0, s.pwu.pos.state, s.pwu.pos.count, s.pwu.neg.state, s.pwu.neg.count, s.pwu.line, s.pwu.source⟩

/-- R187: the optional part of the own role, each item as it stands. -/
def State.ownPart (s : State) : Part :=
  match s.osm.role with
  | .traction => .traction (s.ain 7)
  | .auxiliary => .auxiliary
  | .battery => .battery s.ownDischarge s.ownAccept
  | .pole => .pole s.polePart
  | .console => .console ⟨s.cf.special, s.din 6, s.din 7, s.cf.heat⟩

/-- R118: every own entry of the cut set, in the set's order. -/
def State.ownCuts (s : State) : List CutRecord :=
  (s.cc.cuts.filter CutEntry.own).map (fun e => ⟨e.cause, e.number⟩)

/-- R64, R191: Q, S and the currents are carried as 0 in PATTERN and FAULTED. -/
def OpState.quiet : OpState → Bool
  | .pattern => true
  | .faulted => true
  | _ => false

/-- R184: the contents of a beacon composed now, with the given claims and offered sink capacity. The cut list that the own entry
stores is the one at composition: a frame's cut list is read at its transmission start, the entry's is not read again (DESIGN
CHOICE, log entry 83). -/
def State.ownBeacon (s : State) (claims : List Claim) (sink : Nat) (entry : Bool) : Beacon where
  part := s.ownPart
  sequence := s.bus.sequence
  paramSet := s.settings.paramSet
  period := s.settings.period
  op := s.osm.op.published
  duplicate := s.bus.duplicate
  configFault := s.osm.op == .faulted
  hot := s.ae.hot
  pattern := entry
  draw := if s.osm.op.quiet then 0 else s.ae.draw
  regenRequest := if s.osm.op.quiet then 0 else s.ae.regenRequest
  regen := if s.osm.op.quiet then 0 else s.ae.regen
  sink := if s.osm.op.quiet then 0 else min 1600 sink
  lastResult := s.bus.lastResult
  claims := if s.osm.op.quiet then [] else claims
  cuts := s.ownCuts
  alarms := s.alarmReport

/-- R6: the own entry takes the contents the station publishes; a station of number 0 has none (R197). -/
def State.fillOwn (s : State) (b : Beacon) : State :=
  if s.osm.number = 0 then s
  else s.setEntry s.osm.number ⟨.fresh, 0, s.periodInForce, 0, noCauses, some b⟩

/-- R184: a beacon is composed, fills the own entry and takes the beacon slot; its number is used. -/
def State.composeBeacon (s : State) (b : Beacon) : State :=
  let t := (s.fillOwn b).pushBeacon (.beacon b)
  t.withBus { t.bus with sequence := (t.bus.sequence + 1) % 256 }

/-- R6, R192: a PATTERN frame is composed; the own entry is treated as R4 treats a peer's. -/
def State.composePattern (s : State) : State :=
  (s.setEntry s.osm.number (s.patternEntry s.osm.number)).pushBeacon (.pattern s.osm.number)

/-- R20, R184: what a periodic computation composes; a station whose straps read 0 sends no frame (R197). One that ends in
PATTERN composes a PATTERN frame, also where it fell due before the entry, and that frame replaces an entry beacon that still
waits; one that fell due in PATTERN and ends after it composes a beacon (DESIGN CHOICE, log entry 52). -/
def State.compose (s : State) : State :=
  if s.osm.number = 0 then s
  else if s.osm.op = .pattern then s.composePattern
  else s.composeBeacon (s.ownBeacon s.ae.snapshot.ownClaims s.ae.snapshot.sink false)

/-- R6: at the pole station the line voltage and the pole part of the own entry follow the pole watch unit. -/
def State.followPoles (s : State) : State :=
  let e := s.entry s.osm.number
  match e.beacon with
  | some b =>
    if s.osm.role = .pole ∧ s.osm.number ≠ 0 then
      s.setEntry s.osm.number { e with beacon := some { b with part := .pole s.polePart } }
    else s
  | none => s

/-- R44, R62: the draw setpoint. -/
def State.drawSetpoint (s : State) : Nat :=
  (match s.converter with
    | some c => s.current c
    | none => 0) + (if s.osm.role = .battery then s.lcm.batteryPart else 0)

/-- R45: the operating states in which the setpoint output holds d = 512. -/
def OpState.setpointHeld : OpState → Bool
  | .loading => true
  | .maintenance => true
  | .faulted => true
  | .dormant => true
  | _ => false

/-- R44, R45: the duty of the setpoint output. -/
def State.setpointDuty (s : State) : Nat :=
  if s.osm.op.setpointHeld then 512
  else if s.osm.role = .traction ∧ 0 < s.ae.regenRequest then regenDuty s.ae.regen
  else drawDuty s.drawSetpoint

/-- R188: the number and the result of a command taken. -/
def State.storeResult (s : State) (number : Nat) (r : Result) : State :=
  s.withBus { s.bus with lastResult := some (number, r.code) }

end Sys2Proof.Machine
end

