-- ==== Sys2Proof/Machine/Cuts.lean ====
section
/-! DEFINITION. Cuts.lean: the cut controller of chapter 06: the cut set, originations and releases, what is heard, and the
restoration phases with the forced stop. -/

namespace Sys2Proof.Machine

/-- An entry has the given origin and cause. -/
def CutEntry.isOf (e : CutEntry) (o : Nat) (c : CutCause) : Bool := e.origin == o && e.cause == c

/-- R123: the oldest entry that is not own is removed. -/
def dropOldestPeer : List CutEntry → List CutEntry
  | [] => []
  | e :: es => if e.own then e :: dropOldestPeer es else es

/-- R119, R123: the set after a cut heard from a peer is taken. -/
def enterCut (cuts : List CutEntry) (o : Nat) (c : CutCause) (k : Nat) : List CutEntry :=
  if cuts.any (fun e => e.isOf o c && e.number == k) then cuts
  else if cuts.any (fun e => e.isOf o c) then cuts.filter (fun e => !e.isOf o c) ++ [⟨o, c, k, false⟩]
  else if cuts.length < 8 then cuts ++ [⟨o, c, k, false⟩]
  else if cuts.any (fun e => !e.own) then dropOldestPeer cuts ++ [⟨o, c, k, false⟩]
  else cuts

/-- R120: the set after a release heard from a peer is taken. -/
def removeCut (cuts : List CutEntry) (o : Nat) (c : CutCause) (k : Nat) : List CutEntry :=
  cuts.filter (fun e => !(e.isOf o c && e.number == k))

/-- R121: the set after the cut list of a beacon of station n: the entries are made before the removals. -/
def applyCutList (cuts : List CutEntry) (n : Nat) (list : List CutRecord) : List CutEntry :=
  (list.foldl (fun cs r => enterCut cs n r.cause r.number) cuts).filter
    (fun e => e.origin != n || list.any (fun r => r.cause == e.cause && r.number == e.number))

/-- R122: the set without the cuts of an origin. -/
def dropOrigin (cuts : List CutEntry) (n : Nat) : List CutEntry := cuts.filter (fun e => e.origin != n)

/-- R128 step 2: a channel of the restoration record that runs goes back to its former shed position, one too that has been OFF
and was started again since (DESIGN CHOICE, log entry 68). -/
def State.returnShed (s : State) (p : Placed) : State :=
  if s.runs p.channel then
    let t := s.stop p.channel
    let u := t.setChan p.channel { t.chan p.channel with shedPos := some p.position }
    u.withLcm { u.lcm with shedCounter := max u.lcm.shedCounter p.position }
  else s

/-- R124, R128: the set has become non-empty: the forcing, the phase HELD, the abort and the forced stop, in that order. -/
def State.beginHeld (s : State) : State :=
  let a := s.zeroDraw
  let b := a.withCc { a.cc with phase := .held, offset := 0 }
  let c := (b.cc.restRecord.foldl State.returnShed b).stopAll.finishShed
  c.withCc { c.cc with restSet := [], restRecord := [] }

/-- R124, R125: the cut set takes new contents. -/
def State.putCuts (s : State) (cuts : List CutEntry) : State :=
  let t := s.withCc { s.cc with cuts := cuts }
  if s.cc.cuts = [] ∧ cuts ≠ [] then t.beginHeld
  else if s.cc.cuts ≠ [] ∧ cuts = [] ∧ s.cc.phase = .held then t.withCc { t.cc with phase := .offset, offset := 0 }
  else t

/-- The own entry of a cause. -/
def State.ownCut (s : State) (c : CutCause) : Option CutEntry := s.cc.cuts.find? (fun e => e.own && e.cause == c)

/-- The own station holds a cut of a cause. -/
def State.holdsCut (s : State) (c : CutCause) : Bool := (s.ownCut c).isSome

/-- R117: the first number from n on that no own entry bears; `fuel` bounds the search. -/
def freeNumber (held : List Nat) : Nat → Nat → Nat
  | 0, n => n
  | fuel + 1, n => if held.contains n then freeNumber held fuel ((n + 1) % 256) else n

/-- R117: the numbers of the own entries. -/
def State.heldNumbers (s : State) : List Nat := (s.cc.cuts.filter CutEntry.own).map CutEntry.number

/-- R116, R117, R123: an own cut of a cause not held is numbered, entered and handed to the bus interface. -/
def State.originate (s : State) (c : CutCause) : State :=
  if s.holdsCut c then s
  else
    let k := freeNumber s.heldNumbers 9 s.cc.counter
    let t := s.withCc { s.cc with counter := (k + 1) % 256 }
    let room := if 8 ≤ t.cc.cuts.length then dropOldestPeer t.cc.cuts else t.cc.cuts
    (t.putCuts (room ++ [⟨t.osm.number, c, k, true⟩])).pushUrgent (.cut t.osm.number c k)

/-- R116: an own cut held is removed and its RELEASE handed to the bus interface. -/
def State.releaseOwn (s : State) (c : CutCause) : State :=
  match s.ownCut c with
  | none => s
  | some e =>
    (s.putCuts (s.cc.cuts.filter (fun x => !(x.own && x.cause == c)))).pushUrgent (.release s.osm.number c e.number)

/-- R127: in RESTORING with no channel of the restoration set on the shed list the phase becomes NONE. -/
def State.settleRestoring (s : State) : State :=
  if s.cc.phase = .restoring ∧ !(s.cc.restSet.any (fun p => s.onList p.channel)) then
    s.withCc { s.cc with phase := .none, restSet := [], restRecord := [] }
  else s

/-- R125, R127: the offset has run. -/
def State.beginRestoring (s : State) : State :=
  s.withCc { s.cc with phase := .restoring, offset := 0, restSet := s.shedList, restRecord := [] }

/-- R130: at the console the DRIVER cut follows the emergency current-off input in the states that R130 names. -/
def State.driverCut (s : State) : State :=
  if s.osm.role = .console ∧ s.osm.op.serves then
    (if s.din 8 then s.originate .driver else s.releaseOwn .driver)
  else s

end Sys2Proof.Machine
end

