-- ==== Sys2Proof/Machine/Poles.lean ====
section
/-! DEFINITION. Poles.lean: the pole watch unit of chapters 04 and 05: pole states, raise and lower, the line state, the
source mode, detection of dewirement, and the cuts it holds. -/

namespace Sys2Proof.Machine

/-- R67: the record of a pole. -/
def PoleUnit.get (u : PoleUnit) : Pole → PoleRecord
  | .pos => u.pos
  | .neg => u.neg

/-- The unit with the record of a pole replaced. -/
def PoleUnit.put (u : PoleUnit) (p : Pole) (r : PoleRecord) : PoleUnit :=
  match p with
  | .pos => { u with pos := r }
  | .neg => { u with neg := r }

/-- R67: the record of a pole. -/
def State.pole (s : State) (p : Pole) : PoleRecord := s.pwu.get p

/-- The state with the record of a pole replaced. -/
def State.setPole (s : State) (p : Pole) (r : PoleRecord) : State := s.withPwu (s.pwu.put p r)

/-- The other pole. -/
def otherPole : Pole → Pole
  | .pos => .neg
  | .neg => .pos

/-- R85: the pole counts as up. -/
def PoleState.up (st : PoleState) : Bool := st == .onWire || st == .suspect

/-- Table 4-3: the pole is down. -/
def PoleState.down (st : PoleState) : Bool := st == .stowed || st == .lockedOut

/-- Table 4-3: the pole is moving. -/
def PoleState.moving (st : PoleState) : Bool :=
  st == .raising || st == .seeking || st == .dewired || st == .retrieving || st == .lowering

/-- The pole is rising: RAISING or SEEKING (R73). -/
def PoleState.rising (st : PoleState) : Bool := st == .raising || st == .seeking

/-- The pole is pulled down against Tretrieve: RETRIEVING or LOWERING (R78, R79). -/
def PoleState.falling (st : PoleState) : Bool := st == .retrieving || st == .lowering

/-- R66, Table 4-3: the retriever pull of a pole state. -/
def PoleState.pull (st : PoleState) : Bool := !(st.rising || st.up)

/-- R85: both poles are up. -/
def State.bothUp (s : State) : Bool := s.pwu.pos.state.up && s.pwu.neg.state.up

/-- Both poles are down. -/
def State.bothDown (s : State) : Bool := s.pwu.pos.state.down && s.pwu.neg.state.down

/-- R92: the pole watch unit runs its rules: role POLE in LISTENING, ACTIVE, PARKED or PATTERN. -/
def State.polesRun (s : State) : Bool := s.osm.role == .pole && s.osm.op.serves

/-- R67, R82, R93: a pole enters a state: the operation and SUSPECT timers start from 0 or stop at 0, and the forgiveness
timer is set to 0 outside ON_WIRE and SUSPECT. -/
def PoleRecord.enter (r : PoleRecord) (st : PoleState) : PoleRecord :=
  { r with state := st, timer := 0, suspect := 0, forgive := if st.up then r.forgive else 0 }

/-- A pole of the state enters a pole state. -/
def State.enterPole (s : State) (p : Pole) (st : PoleState) : State := s.setPole p ((s.pole p).enter st)

/-- A pole enters LOWERING if its state is of the given kind. -/
def State.lowerIf (f : PoleState → Bool) (s : State) (p : Pole) : State :=
  if f (s.pole p).state then s.enterPole p .lowering else s

/-- The two poles. -/
def bothPoles : List Pole := [.pos, .neg]

/-- R72, R73, R74: the raise operation ends. -/
def State.endRaise (s : State) : State := s.withPwu { s.pwu with operation := .none, raiseTimer := 0 }

/-- R73: a raise in progress is abandoned. -/
def State.abandonRaise (s : State) : State :=
  (bothPoles.foldl (State.lowerIf PoleState.rising) s).endRaise.onset .raiseFail 0

/-- R75, R76: the drain ends, by completion or by its timer. -/
def State.endDrain (s : State) : State :=
  bothPoles.foldl (State.lowerIf (fun st => st == .onWire))
    (s.withPwu { s.pwu with operation := .lowerDescent, drainTimer := 0 })

/-- R75: every FRESH peer entry carries an applied draw and an applied regen of 0. -/
def State.drainComplete (s : State) : Bool :=
  stationNumbers.all (fun n => s.isOwn n ||
    (match (s.entry n).freshBeacon with
      | some b => b.draw == 0 && b.regen == 0
      | none => true))

/-- R75: the condition that ends a drain is examined. -/
def State.checkDrain (s : State) : State :=
  if s.pwu.operation = .lowerDrain ∧ s.drainComplete then s.endDrain else s

/-- R75: a lowering with the poles up begins. -/
def State.beginLowering (s : State) : State :=
  (s.withPwu { s.pwu with operation := .lowerDrain, drainTimer := 0 }).checkDrain

/-- R70: a raise begins. -/
def State.beginRaise (s : State) : State :=
  let t := (s.enterPole .pos .raising).enterPole .neg .raising
  t.withPwu { t.pwu with operation := .raise, raiseTimer := 0 }

/-- R110: the bounce history with a new time. -/
def recordBounce (h : List Nat) (t : Nat) : List Nat := (if 4 ≤ h.length then h.drop 1 else h) ++ [t]

/-- R76, R104, R105, R110, R111: a pole in SUSPECT returns to ON_WIRE, and is lowered there if a descent is under way. -/
def State.returnPole (s : State) (p : Pole) : State :=
  let r := s.pole p
  let h := recordBounce r.bounces s.osm.uptime
  let t := s.setPole p { r.enter .onWire with bounces := h }
  let u := if h.length = 4 then t.onset .bounce (poleCode p) else t
  if u.pwu.operation = .lowerDescent then u.enterPole p .lowering else u

/-- R77, R106, R107, R108: a pole is judged dewired: it passes through DEWIRED into RETRIEVING, its survivor is lowered, and
a drain passes to DESCENT. -/
def State.dewire (s : State) (p : Pole) : State :=
  let r := s.pole p
  let t := s.setPole p { r.enter .dewired with count := min 15 (r.count + 1) }
  let u := (t.raiseDrop p).enterPole p .retrieving
  let v := u.lowerIf PoleState.up (otherPole p)
  if v.pwu.operation = .lowerDrain then v.withPwu { v.pwu with operation := .lowerDescent, drainTimer := 0 } else v

/-- R100: the lateral limit in force. -/
def State.lateralLimit (s : State) : Nat := if s.specialRead then s.settings.lmaxWide else s.settings.lmax

/-- R99: a pole is in window on the latest sample and the present rope trip. -/
def State.inWindowOf (s : State) (p : Pole) : Bool :=
  decide (s.elevation p ≤ (s.pole p).height + s.settings.erise) &&
    decide ((s.pole p).height ≤ s.elevation p + s.settings.efall) &&
    decide (s.lateral p ≤ s.lateralLimit) && !s.ropeTrip p

/-- R102, R104: the window of a pole is judged. -/
def State.judgeWindow (s : State) (p : Pole) : State :=
  match (s.pole p).state with
  | .onWire => if s.inWindowOf p then s else s.enterPole p .suspect
  | .suspect => if s.inWindowOf p && decide (s.settings.vsection ≤ s.ain 0) then s.returnPole p else s
  | _ => s

/-- R105, R106: the SUSPECT window of a pole expires. -/
def State.expireWindow (s : State) (p : Pole) : State :=
  if s.inWindowOf p then s.returnPole p else s.dewire p

/-- R95: the elevation of a sample joins the 16 most recent. -/
def State.takeElevation (s : State) (p : Pole) : State :=
  let l := (s.pole p).samples ++ [s.elevation p]
  s.setPole p { s.pole p with samples := l.drop (l.length - 16) }

/-- R91: the state of a pole from its first elevation sample after LOADING. The operation timer starts from 0 here, having run
from the entry to LISTENING too (R92; DESIGN CHOICE, log entry 55). -/
def State.placePole (s : State) (p : Pole) : State :=
  s.enterPole p (if s.elevation p < s.settings.ehook then .stowed else .lowering)

/-- R91: both poles are set from the first elevation sample after LOADING. -/
def State.placePoles (s : State) : State :=
  if s.pwu.loadPending then
    let t := bothPoles.foldl State.placePole s
    t.withPwu { t.pwu with loadPending := false }
  else s

/-- R78, R80: a pole pulled down is stowed or locked out, a stowed pole that rose is pulled down. -/
def State.fallPole (s : State) (p : Pole) : State :=
  let r := s.pole p
  if r.state.falling && decide (s.elevation p < s.settings.ehook) then
    if s.settings.nlock ≤ r.count then (s.enterPole p .lockedOut).onset .poleLocked (poleCode p)
    else s.enterPole p .stowed
  else if r.state == .stowed && decide (s.settings.ehook < s.elevation p) then s.enterPole p .lowering
  else s

/-- R71: a rising pole clears its hook. -/
def State.seekPole (s : State) (p : Pole) : State :=
  if (s.pole p).state == .raising && decide (s.settings.ehook < s.elevation p) then s.enterPole p .seeking else s

/-- R73: a rising pole above Emax abandons the raise. -/
def State.checkEmax (s : State) : State :=
  if s.pwu.operation = .raise ∧
      bothPoles.any (fun p => (s.pole p).state.rising && decide (s.settings.emax < s.elevation p)) then s.abandonRaise
  else s

/-- R72, R96: a pole makes contact and captures its wire-height reference. -/
def State.contactPole (s : State) (p : Pole) : State :=
  s.setPole p { (s.pole p).enter .onWire with height := s.elevation p, forgive := 0 }

/-- R72: contact. -/
def State.checkContact (s : State) : State :=
  if s.pwu.pos.state = .seeking ∧ s.pwu.neg.state = .seeking ∧ s.settings.vpresent ≤ s.ain 0 then
    let t := (bothPoles.foldl State.contactPole s).endRaise
    t.withPwu { t.pwu with line := .live, gapTimer := 0 }
  else s

/-- R86, R87, R88: the line state is judged on a sample while the poles are up. -/
def State.judgeLine (s : State) : State :=
  match s.pwu.line with
  | .live => if s.ain 0 < s.settings.vsection then s.withPwu { s.pwu with line := .gap, gapTimer := 0 } else s
  | .gap => if s.settings.vpresent ≤ s.ain 0 then s.withPwu { s.pwu with line := .live, gapTimer := 0 } else s
  | .out =>
    if s.settings.vpresent ≤ s.ain 0 then (s.withPwu { s.pwu with line := .live }).clearCond .lineLost 0 else s
  | .isOpen => s

/-- R85: the line state becomes OPEN at the moment the poles are not up. -/
def State.openLine (s : State) : State :=
  if s.bothUp then s
  else
    let t := s.withPwu { s.pwu with line := .isOpen, gapTimer := 0 }
    if s.pwu.line = .out then t.clearCond .lineLost 0 else t

/-- R79, R112: the conditions that end when a pole is down. -/
def State.clearDown (s : State) (p : Pole) : State :=
  if (s.pole p).state.down then (s.clearCond .retrieveFail (poleCode p)).clearCond .poleDrop (poleCode p) else s

/-- The pole operation is LOWER. -/
def PoleOperation.lowers (o : PoleOperation) : Bool := o == .lowerDrain || o == .lowerDescent

/-- R68, R73, R79, R112: what ends when poles are down. -/
def State.endDescent (s : State) : State :=
  let t := bothPoles.foldl State.clearDown s
  if t.bothDown then
    let u := if t.pwu.operation.lowers then t.withPwu { t.pwu with operation := .none, drainTimer := 0 } else t
    u.clearCond .raiseFail 0
  else t

/-- R89, Table 4-6: the source mode published. -/
def State.sourceMode (s : State) : SourceMode :=
  match s.pwu.line with
  | .live => .wire
  | .gap => .gap
  | _ => if 0 < (batteryRecordOf s.pvt).1 then .battery else .none

/-- R90: a change of source mode for which a SOURCE_CHANGE cut is held. -/
def sourceChanges (old new : SourceMode) : Bool :=
  (old == .battery && new == .wire) || ((old == .wire || old == .gap) && new == .battery)

/-- R89, R90: the published source mode is worked out anew. -/
def State.updateSource (s : State) : State :=
  let new := s.sourceMode
  s.withPwu { s.pwu with
    source := new
    sourceTimer := if sourceChanges s.pwu.source new then some 0 else s.pwu.sourceTimer }

/-- Table 5-4: the causes the pole watch unit originates, in the order of Table 6-2. -/
def poleCauses : List CutCause :=
  [.suspectPos, .suspectNeg, .dewirePos, .dewireNeg, .section_, .lowering, .sourceChange]

/-- Table 5-4: the pole watch unit holds a cut of a cause; `dewired` is the pole dewired in this step. -/
def State.polesHold (s : State) (dewired : Option Pole) : CutCause → Bool
  | .suspectPos => s.pwu.pos.state == .suspect
  | .suspectNeg => s.pwu.neg.state == .suspect
  | .dewirePos => dewired == some .pos || (s.holdsCut .dewirePos && !s.bothDown)
  | .dewireNeg => dewired == some .neg || (s.holdsCut .dewireNeg && !s.bothDown)
  | .section_ => s.pwu.line == .gap
  | .lowering => s.pwu.operation.lowers
  | .sourceChange => s.pwu.sourceTimer.isSome
  | .driver => s.holdsCut .driver

/-- R116: a cut the pole watch unit has come to hold is originated. -/
def State.originateIf (dewired : Option Pole) (s : State) (c : CutCause) : State :=
  if s.polesHold dewired c then s.originate c else s

/-- R116: a cut the pole watch unit no longer holds is released. -/
def State.releaseIf (dewired : Option Pole) (s : State) (c : CutCause) : State :=
  if s.polesHold dewired c then s else s.releaseOwn c

/-- R93: the SUSPECT cut fields. -/
def State.noteSuspects (s : State) : State :=
  s.withPwu { s.pwu with
    pos := { s.pwu.pos with suspectCut := (s.ownCut .suspectPos).map CutEntry.number }
    neg := { s.pwu.neg with suspectCut := (s.ownCut .suspectNeg).map CutEntry.number } }

/-- R116: one step of the pole watch unit: originations first, releases second. -/
def State.syncPoleCuts (s : State) (dewired : Option Pole) : State :=
  (poleCauses.foldl (State.releaseIf dewired) (poleCauses.foldl (State.originateIf dewired) s)).noteSuspects

/-- What every step of the pole watch unit ends with, where its rules run: the line state, the descent, the source mode that the
line state and the table then give (R89), and the cuts. -/
def State.finishPoles (s : State) (dewired : Option Pole) : State :=
  if s.polesRun then s.openLine.endDescent.updateSource.syncPoleCuts dewired else s

/-- R65, R71 to R73, R78, R80, R86 to R88, R102, R104: the pole watch unit takes an analog sample in the states of R92. R89, R90:
the source mode is worked out at the line state's change by the voltage, and again at the end of the step, where a pole's return
in DESCENT may have opened the line. POS is judged before NEG, so of two POLE_LOCKED or two BOUNCE of one sample that of POS is
raised first (DESIGN CHOICE, log entry 82). Whether both poles are down is looked at once, after both have been judged (DESIGN
CHOICE, log entry 89). -/
def State.samplePolesRun (s : State) : State :=
  let a := bothPoles.foldl State.fallPole s.placePoles
  let b := (bothPoles.foldl State.seekPole a).checkEmax.checkContact
  (bothPoles.foldl State.judgeWindow b.judgeLine.updateSource).finishPoles none

/-- R91: the pole watch unit takes an analog sample in MAINTENANCE and FAULTED: STOWED and LOWERING against Ehook alone. -/
def State.samplePolesIdle (s : State) : State := bothPoles.foldl State.fallPole s.placePoles

/-- R97: the tracking step of a pole. -/
def State.trackPole (s : State) (p : Pole) : State :=
  let r := s.pole p
  if r.state = .onWire then
    let m := r.samples.sum / 16
    s.setPole p { r with height := if r.height < m then r.height + 1 else if m < r.height then r.height - 1 else r.height }
  else s

/-- R97: a tracking step of the two poles. -/
def State.trackPoles (s : State) : State :=
  let t := bothPoles.foldl State.trackPole s
  t.withPwu { t.pwu with trackWaits := false }

/-- R95, R98: the elevations of a sample join the recent samples, and a tracking step that waited for them is taken. -/
def State.takeElevations (s : State) : State :=
  let a := bothPoles.foldl State.takeElevation s
  let t := a.withPwu { a.pwu with sampled := true }
  if t.pwu.trackWaits then t.trackPoles else t

/-- R65: the pole watch unit takes an analog sample. -/
def State.samplePoles (s : State) : State :=
  if s.osm.role = .pole then
    let t := s.takeElevations
    if t.osm.op.serves then t.samplePolesRun else t.samplePolesIdle
  else s

/-- R73, R99: the rope trip of a pole has changed level. -/
def State.ropeChange (s : State) (p : Pole) : State :=
  if s.polesRun then
    (if s.ropeTrip p && s.pwu.operation == .raise && (s.pole p).state.rising then s.abandonRaise
      else s.judgeWindow p).finishPoles none
  else s

/-- R69, Table 4-4. -/
def State.judgeRaise (s : State) : State × Result :=
  let a := s.pwu.pos.state
  let b := s.pwu.neg.state
  if a = .lockedOut ∨ b = .lockedOut then (s, .refusedLocked)
  else if a.moving || b.moving || s.pwu.operation.lowers then (s, .refusedMoving)
  else if a.up && b.up then (s, .done)
  else if a = .stowed ∧ b = .stowed then (s.beginRaise.finishPoles none, .done)
  else (s, .refusedMoving)

/-- R74, Table 4-5. -/
def State.judgeLower (s : State) : State × Result :=
  let a := s.pwu.pos.state
  let b := s.pwu.neg.state
  let goes := fun st : PoleState => st == .dewired || st.falling
  if s.pwu.operation.lowers then (s, .done)
  else if goes a || goes b then (s, .done)
  else if s.pwu.operation = .raise then
    (((bothPoles.foldl (State.lowerIf PoleState.rising) s).endRaise).finishPoles none, .done)
  else if a.up && b.up then (s.beginLowering.finishPoles none, .done)
  else (s, .done)

/-- R83: a named pole in LOCKED_OUT is freed. -/
def State.freePole (s : State) (p : Pole) : State :=
  if (s.pole p).state = .lockedOut then
    (s.setPole p { (s.pole p).enter .stowed with count := 0 }).clearCond .poleLocked (poleCode p)
  else s

/-- Table 10-4: the poles a CLEAR_LOCKOUT names. -/
def polesNamed : Nat → Option (List Pole)
  | 0 => some [.pos]
  | 1 => some [.neg]
  | 2 => some [.pos, .neg]
  | _ => none

/-- R83, R84: a CLEAR_LOCKOUT. -/
def State.judgeClear (s : State) (arg : Nat) : State × Result :=
  match polesNamed arg with
  | none => (s, .refusedState)
  | some ps => if s.standstill then ((ps.foldl State.freePole s).finishPoles none, .done) else (s, .refusedNotStandstill)

/-- R14, R75, R89: the pole watch unit reads the live table after a change of it. -/
def State.polesReadTable (s : State) : State :=
  if s.polesRun then s.checkDrain.finishPoles none else s

/-- R92, R93: a pole record at entry to DORMANT. -/
def PoleRecord.sleep (r : PoleRecord) : PoleRecord :=
  { r with forgive := 0, timer := 0, suspect := 0, bounces := [], samples := [], suspectCut := none }

/-- R90, R92, R93: the pole watch unit at entry to DORMANT. -/
def PoleUnit.sleep (u : PoleUnit) : PoleUnit :=
  { u with
    pos := u.pos.sleep
    neg := u.neg.sleep
    raiseTimer := 0
    drainTimer := 0
    line := .isOpen
    gapTimer := 0
    source := .none
    sourceTimer := none
    trackClock := none
    sampled := false
    trackWaits := false }

end Sys2Proof.Machine
end

