-- ==== Sys2Proof/Machine/Opstate.lean ====
section
/-! DEFINITION. Opstate.lean: the operating-state machine of chapter 11 and the effects its moves have on the blocks. -/

namespace Sys2Proof.Machine

/-- The operating state replaced, with the listen-in and dormancy timers at 0 (R198, R199). -/
def State.enterOp (s : State) (o : OpState) : State := s.withOsm { s.osm with op := o, listen := 0, dormancy := 0 }

/-- R20: the next periodic due time lies one P after this moment. -/
def State.restartDue (s : State) : State := s.withAe { s.ae with due := 0 }

/-- R149: the carrier clock starts, in slot 0 (DESIGN CHOICE, log entry 60). -/
def State.startCarrier (s : State) : State := s.withLcm { s.lcm with carrierOn := true, slot := 0, slotClock := 0 }

/-- R93: the tracking clock of the pole station starts from 0. -/
def State.startTracking (s : State) : State :=
  if s.osm.role = .pole then s.withPwu { s.pwu with trackClock := some 0 } else s

/-- R174: the flash clock of the console starts. -/
def State.startFlash (s : State) : State :=
  if s.osm.role = .console then s.withCf { s.cf with flashRuns := true, flashOn := true, flashClock := 0 } else s

/-- R177: the special-work flag of the console is set from the filtered input. -/
def State.readSpecial (s : State) : State :=
  if s.osm.role = .console then s.withCf { s.cf with special := s.din 5, tail := none } else s

/-- R18, R92, R93, R153, R174, R177, R199: wake from DORMANT into LISTENING. -/
def State.wake (s : State) : State :=
  ((s.enterOp .listening).restartDue.startCarrier.startTracking.startFlash).readSpecial

/-- R198: KEY_ON has become true in PARKED. -/
def State.leaveParked (s : State) : State := ((s.enterOp .listening).restartDue).reperiodAll

/-- R151: a channel that is not park-allowed at entry to PARKED. -/
def State.parkChannel (s : State) (c : Fin 4) : State :=
  if (s.record c).present && !(s.record c).park then
    let ch := s.chan c
    let st := if ch.state.running then ChannelState.waiting
      else if ch.state.listed then (if s.minOffElapsed c then .off else .waiting)
      else ch.state
    let ch1 := if st = ch.state then ch else ch.leave st
    (s.setChan c { ch1 with request := 0, cyclePending := false, cycle := 0, sinkDuty := 0, placed := 0 }).clearShort c
  else s

/-- R20, R46, R151, R198: entry to PARKED. -/
def State.enterParked (s : State) : State :=
  (channelNumbers.foldl State.parkChannel ((s.enterOp .parked).restartDue.reperiodAll)).resetCounter

/-- R153: a channel at entry to PATTERN or DORMANT. -/
def Channel.cleared (ch : Channel) : Channel :=
  { ch.leave .off with
    request := 0
    sinkDuty := 0
    placed := 0
    winSink := 0
    cyclePending := false
    cycle := 0 }

/-- R153: every channel at entry to PATTERN or DORMANT. -/
def State.clearChannels (s : State) : State :=
  let t := s.withLcm { s.lcm with chans := mapTable Channel.cleared s.lcm.chans, shedCounter := 0, reserved := 0 }
  channelNumbers.foldl State.clearShort t

/-- R153, R191: entry to PATTERN: the channels are cleared and the entry beacon is composed, before the forcing condition of R56
that begins with the entry clears SINK_SHORT (DESIGN CHOICE, log entry 74). -/
def State.enterPattern (s : State) : State :=
  let t := (s.enterOp .pattern).clearChannels
  let u := t.withAe { t.ae with regenRequest := 0 }
  if u.osm.number = 0 then u else u.composeBeacon (u.ownBeacon [] 0 true)

/-- A waiting PATTERN frame. -/
def Message.isPattern : Message → Bool
  | .pattern _ => true
  | _ => false

/-- R183, R192: a PATTERN frame that waits is discarded, one that is driven if it is found to be in arbitration still. -/
def BusUnit.dropPattern (b : BusUnit) : BusUnit :=
  { b with
    beaconSlot := b.beaconSlot.filter (fun m => !m.isPattern)
    sending := b.sending.map (fun x => if x.message.isPattern then { x with dropped := true } else x) }

/-- R153, R192: pattern mode ends. -/
def State.endPattern (s : State) : State :=
  let t := (s.enterOp .listening).startCarrier
  t.withBus t.bus.dropPattern

/-- R46, R64: the allotment engine at entry to DORMANT. An inhibit's bar on Q and the battery stays until a sample lifts it
(DEDUCED, log entry 63). -/
def Allotment.sleep (a : Allotment) : Allotment :=
  { resetAllotment with setpointOut := a.setpointOut, published := a.published, due := a.due, barred := a.barred }

/-- R131: the cut controller at entry to DORMANT keeps its counter. -/
def CutUnit.sleep (c : CutUnit) : CutUnit := { resetCuts with counter := c.counter }

/-- R153: a channel at entry to DORMANT. -/
def Channel.sleep (ch : Channel) : Channel := { ch with cap := 8, requesting := false }

/-- R153: the load channel manager at entry to DORMANT, past what it shares with PATTERN. The stopped carrier clock holds slot 0
at 0 ms from there on (DESIGN CHOICE, log entry 91). -/
def LoadUnit.sleep (l : LoadUnit) : LoadUnit :=
  { l with
    chans := mapTable Channel.sleep l.chans
    carrierOn := false
    slot := 0
    slotClock := 0
    batteryPart := 0 }

/-- R174, R177, R193: the console functions at entry to DORMANT. -/
def ConsoleUnit.sleep (c : ConsoleUnit) : ConsoleUnit :=
  { c with
    special := false
    tail := none
    checks := Vector.replicate 15 closedCheck
    flashRuns := false }

/-- R183: the waiting frames are discarded, a driven one too if it is found to be in arbitration still; a frame in
transmission completes. -/
def BusUnit.sleep (b : BusUnit) : BusUnit :=
  { b with
    beaconSlot := none
    urgentSlots := []
    commandSlots := []
    sending := b.sending.map (fun x => { x with dropped := true, displaced := none }) }

/-- R18, R46, R64, R92, R131, R153, R179, R183, R193, R199: entry to DORMANT. The entries it empties take the configured P as
effective period, which R18 does not name (DESIGN CHOICE, log entry 51). -/
def State.enterDormant (s : State) : State :=
  let a := s.alarmsDormant.clearChannels
  let b := a.enterOp .dormant
  { b with
    pvt := emptyTable b.settings.period
    ae := b.ae.sleep
    cc := b.cc.sleep
    lcm := b.lcm.sleep
    pwu := b.pwu.sleep
    cf := b.cf.sleep
    bus := b.bus.sleep
    su := { b.su with valid := false } }

/-- R198, R199, R192: the moves that KEY_ON and the applied draw decide, at the first moment their condition holds. -/
def State.autoMove (s : State) : State :=
  match s.osm.op with
  | .active => if !s.keyOn && s.ae.draw == 0 then s.enterParked else s
  | .parked => if s.keyOn then s.leaveParked else s
  | .pattern => if s.keyOn then s else s.endPattern
  | .dormant => if s.keyOn then s.wake else s
  | _ => s

/-- R195, R197: what LOADING leaves: the role and number of the straps and the settled values. The carrier clock starts but
in MAINTENANCE, where the load channel manager runs no rule (R149, R152). The first periodic event falls due one period after
the entry, at the entry to FAULTED too (R20 names LISTENING alone; DESIGN CHOICE, log entry 67). The tracking clock starts whatever state
LOADING ends in (DESIGN CHOICE, log entry 87). -/
def State.loaded (s : State) (o : OpState) (r : Role) (n : Nat) (c : Settings) : State :=
  let t := (s.withOsm { s.osm with op := o, role := r, number := n, listen := 0, dormancy := 0 }).withSettings c
  let v := (t.withPvt (emptyTable c.period)).restartDue
  let u := ((if o = .maintenance then v else v.startCarrier).startTracking).startFlash
  u.withPwu { u.pwu with loadPending := r == .pole }

/-- R195 check 3: the straps name no role or no number. -/
def strapsBad (x : Straps) : Bool := x.number == 0 || decide (5 ≤ x.roleCode.toNat)

/-- R195 check 4: the role and the image disagree. -/
def rolesDisagree (m : Memory) (r : Role) (n : Nat) : Bool :=
  (r == .pole && n != imagePoleStation m) || (r == .console && n != imageConsoleStation m) ||
    (n == imagePoleStation m && r != .pole) || (n == imageConsoleStation m && r != .console)

/-- R195, R197: the role the straps give; a code 5 to 7 runs as AUXILIARY. -/
def strapsRole (x : Straps) : Role := (roleOfCode x.roleCode.toNat).getD .auxiliary

/-- R195 checks 2 to 4: the station enters FAULTED. -/
def State.loadFails (s : State) (x : Straps) : Bool :=
  !s.cs.image.sumAgrees || s.cs.mark || strapsBad x || rolesDisagree s.cs.image (strapsRole x) x.number.toNat

end Sys2Proof.Machine
end

