-- ==== Sys2Proof/Machine/Console.lean ====
section
/-! DEFINITION. Console.lean: the judging of commands (R189, R190), the commands the console generates (R175, R176), its
special-work input (R177), STATION_LOST (R178) and the pattern check (R193). -/

namespace Sys2Proof.Machine

/-- Table 10-5: the operating states in which a command taken is judged. -/
def OpState.judges (o : OpState) : Bool := o.composes

/-- R84, R189: a pole command: judged by the pole station in ACTIVE, else REFUSED_STATE. -/
def State.poleCommand (s : State) (number : Nat) (judge : State → State × Result) : State :=
  if s.osm.role = .pole ∧ s.osm.op = .active then (judge s).1.storeResult number (judge s).2
  else s.storeResult number .refusedState

/-- R190: the result of a PATTERN_ON. -/
def State.patternResult (s : State) : Result :=
  if s.osm.op ≠ .active then .refusedState
  else if s.ae.draw ≠ 0 ∨ s.cc.cuts ≠ [] ∨
      (s.osm.role = .pole ∧ ¬ (s.pwu.pos.state = .stowed ∧ s.pwu.neg.state = .stowed)) then .refusedState
  else if s.standstill then .done
  else .refusedNotStandstill

/-- R190, R191: a PATTERN_ON. The result is stored before the entry beacon, which carries it. -/
def State.takePatternOn (s : State) (number : Nat) : State :=
  let t := s.storeResult number s.patternResult
  if s.patternResult = .done then t.enterPattern else t

/-- R189, R192: a PATTERN_OFF. -/
def State.takePatternOff (s : State) (number : Nat) : State :=
  let t := s.storeResult number .done
  if s.osm.op = .pattern then t.endPattern else t

/-- R168: an ACK_ALARMS. -/
def State.takeAcks (s : State) (number : Nat) (rs : List AckRecord) : State :=
  let p := s.ackAll rs
  p.1.storeResult number (if p.2 then .ignoredStale else .done)

/-- R188, R189: a command taken is judged, by its kind. -/
def State.takeCommand (s : State) (number : Nat) : CommandKind → State
  | .raisePoles => s.poleCommand number State.judgeRaise
  | .lowerPoles => s.poleCommand number State.judgeLower
  | .clearLockout p => s.poleCommand number (fun t => t.judgeClear p.toNat)
  | .ackAlarms rs => s.takeAcks number rs
  | .patternOn => s.takePatternOn number
  | .patternOff => s.takePatternOff number

/-- R84: a pole command. -/
def CommandKind.isPole : CommandKind → Bool
  | .raisePoles => true
  | .lowerPoles => true
  | .clearLockout _ => true
  | _ => false

/-- R84, R188: a command received is taken by this station. -/
def State.commandTaken (s : State) (station origin target : Nat) (k : CommandKind) : Bool :=
  origin == station && (s.isOwn target || (target == 0 && (!k.isPole || s.osm.role == .pole)))

/-- R176: a command of the console takes its number and is handed to a command slot; the console takes a target of 0
itself. -/
def State.generate (s : State) (target : Nat) (k : CommandKind) : State :=
  let n := s.cf.commandCounter
  let t := (s.withCf { s.cf with commandCounter := (n + 1) % 256 }).pushCommand (.command target n k)
  if target = 0 then t.takeCommand n k else t

/-- R175 step 3: an unacknowledged mirrored entry of a source that is not an orphan. -/
def State.toAck (s : State) (n : Nat) (e : AlarmEntry) : Bool :=
  e.source == n && !s.ownAlarm e && !e.orphan && e.unack

/-- R175 step 3: the ACK_ALARMS for one source, if it has an entry to acknowledge. -/
def State.ackSource (s : State) (n : Nat) : State :=
  match s.au.entries.filter (s.toAck n) with
  | [] => s
  | es => s.generate n (.ackAlarms (es.map (fun e => ⟨byteOf e.kind.code, byteOf e.qualifier, byteOf e.count⟩)))

/-- R175: a press of the acknowledge button. -/
def State.pressAck (s : State) : State :=
  if s.osm.op.serves then stationNumbers.foldl State.ackSource s.ackLocal
  else if s.osm.op = .faulted then s.ackLocal
  else s

/-- Table 9-4: the command of a rising edge of a console input. -/
def State.pressButton (s : State) (input : Nat) : State :=
  if input = 0 then s.pressAck
  else if s.osm.op.serves then
    match input with
    | 1 => s.generate s.settings.poleStation .raisePoles
    | 2 => s.generate s.settings.poleStation .lowerPoles
    | 3 => s.generate s.settings.poleStation (.clearLockout 2)
    | 4 => s.generate 0 .patternOn
    | _ => s
  else s

/-- R177: the special-work input has changed level. -/
def State.specialChange (s : State) (level : Bool) : State :=
  if s.osm.op.receives then
    s.withCf (if level then { s.cf with special := true, tail := none } else { s.cf with tail := some 0 })
  else s

/-- R173 to R177: an input of the console has changed level. -/
def State.consoleInput (s : State) (input : Nat) (level : Bool) : State :=
  if input = 5 then s.specialChange level
  else if level then s.pressButton input
  else if input = 4 ∧ s.osm.op.serves then s.generate 0 .patternOff
  else s

/-- R178: STATION_LOST is raised as the entry of a peer becomes PHANTOM. -/
def State.stationLost (s : State) (n : Nat) : State :=
  if s.osm.role = .console ∧ s.osm.op.serves ∧ ((s.entry n).beacon.map Beacon.op) ≠ some .parked then
    s.onset .stationLost n
  else s

/-- R178: the condition of STATION_LOST clears as the entry of a peer becomes FRESH. -/
def State.stationFound (s : State) (n : Nat) : State :=
  if s.osm.role = .console then s.clearCond .stationLost n else s

/-- R193: the pattern check record of a station. -/
def State.check (s : State) (n : Nat) : PatternCheck := stationGet closedCheck s.cf.checks n

/-- The state with a pattern check record replaced. -/
def State.setCheck (s : State) (n : Nat) (c : PatternCheck) : State :=
  s.withCf { s.cf with checks := stationPut s.cf.checks n c }

/-- R193: the console checks patterns. -/
def State.checksPatterns (s : State) : Bool := s.osm.role == .console && s.osm.op.serves

/-- R193: a pattern check record closes. -/
def State.closeCheck (s : State) (n : Nat) : State := (s.setCheck n closedCheck).clearCond .patternError n

/-- R193: a beacon is taken from station n. -/
def State.checkBeacon (s : State) (n : Nat) (pattern : Bool) : State :=
  if s.checksPatterns then
    (if pattern then (if (s.check n).opened then s else s.setCheck n ⟨true, 0, false⟩) else s.closeCheck n)
  else s

/-- R193: a PATTERN frame is taken from station n. -/
def State.checkPattern (s : State) (n : Nat) (payload : List Byte) : State :=
  if s.checksPatterns then
    let t := s.setCheck n ⟨true, 0, false⟩
    if payload = patternBytes n then t.clearCond .patternError n else t.onset .patternError n
  else s

end Sys2Proof.Machine
end

