-- ==== Sys2Proof/Machine/Compute.lean ====
section
/-! DEFINITION. Compute.lean: the start and the end of an allotment computation (R15, R20 to R23, R31, R40 to R42, R55 to
R60). -/

namespace Sys2Proof.Machine

/-- R15, R31: the snapshot and the frozen own quantities taken now. -/
def State.takeSnapshot (s : State) : Snapshot where
  entries := s.pvt
  ownClaims := s.publishedClaims
  ownDraw := s.ae.draw
  source := s.pwu.source
  voltage := s.ain 0
  discharge := s.ownDischarge
  accept := s.ownAccept
  special := s.cf.special
  op := s.osm.op
  duplicate := s.bus.duplicate
  hot := s.ae.hot
  offsetRunning := s.cc.phase == .offset
  regenRequest := s.ae.regenRequest
  sink := s.offeredSink

/-- R15, R22: a computation starts. -/
def State.startComputation (s : State) (k : CompKind) : State :=
  let x := s.takeSnapshot
  s.withAe { s.ae with snapshot := x, computing := some k, sinkOffered := x.sink }

/-- R22: a pending computation is periodic if any event that joined it was periodic. -/
def joinKind : Option CompKind → CompKind → CompKind
  | some .periodic, _ => .periodic
  | _, k => k

/-- R22: with no computation in progress a pending one starts. -/
def State.startWaiting (s : State) : State :=
  match s.ae.computing, s.ae.waiting with
  | none, some k => (s.withAe { s.ae with waiting := none }).startComputation k
  | _, _ => s

/-- R22: an event joins the pending computation, or becomes it; with no computation in progress that one starts. -/
def State.allotmentEvent (s : State) (k : CompKind) : State :=
  (s.withAe { s.ae with waiting := some (joinKind s.ae.waiting k) }).startWaiting

/-- R42, R56: a computation ends with the applied draw, the applied regen and the share at 0. -/
def State.computesZero (s : State) : Bool := s.forced || (s.sourceUsed s.ae.snapshot).dead

/-- R41, R55: an increase is allowed at the end of a computation of the given kind; the offset must run neither in the
snapshot nor now. -/
def State.mayIncrease (s : State) (k : CompKind) : Bool :=
  k == .periodic && s.increaseAllowed s.ae.snapshot && s.cc.phase != .offset

/-- R23, R36 to R42: the draw part of a computation. -/
def State.computeDraw (s : State) (k : CompKind) : State :=
  let x := s.ae.snapshot
  let gs := allot (s.usableDraw x) (s.countedClaims x)
  let g := s.ownGrant gs
  s.withAe { s.ae with
    grants := gs
    grant := g
    draw := if s.computesZero then 0 else ramp (s.mayIncrease k) s.settings.step s.ae.draw g }

/-- R55: what the vehicle can dispose of: B + Ureg + the total sink capacity. -/
def State.disposable (s : State) (x : Snapshot) : Nat :=
  s.absorptionOf x + s.usableRegenOf x + totalSink (s.sinkStations x)

/-- R55, R56: the regen part of a computation. -/
def State.computeRegen (s : State) (k : CompKind) : State :=
  let x := s.ae.snapshot
  let g := if s.osm.role = .traction then min x.regenRequest (s.disposable x) else 0
  s.withAe { s.ae with
    regenGrant := g
    absorption := s.absorptionOf x
    usableRegen := s.usableRegenOf x
    sinkTotal := totalSink (s.sinkStations x)
    regen := if s.computesZero || s.osm.role != .traction then 0
      else ramp (s.mayIncrease k) s.settings.step s.ae.regen g }

/-- R48: the applied regen of the traction station in a computation; at the traction station its own, as this computation
leaves it. -/
def State.regenUsed (s : State) (x : Snapshot) : Nat :=
  if s.osm.role = .traction then s.ae.regen else (tractionRegenOf x.entries).1

/-- R59, R60: the share part of a computation. -/
def State.computeShares (s : State) : State :=
  let x := s.ae.snapshot
  let ra := s.regenUsed x
  let ex := ra - (s.absorptionOf x + s.usableRegenOf x)
  let ks := sinkShares ex (s.sinkStations x)
  let h := if s.computesZero then 0 else s.ownShare ks
  s.withAe { s.ae with excess := ex, shares := ks, share := h, shareBase := h, shareRegen := ra }

/-- R57: SINK_SHORT is judged at a computation of the traction station. -/
def State.judgeSinkShort (s : State) : State :=
  if s.osm.role = .traction ∧ !s.computesZero then
    (if s.disposable s.ae.snapshot < s.ae.snapshot.regenRequest then s.onset .sinkShort 0 else s.clearCond .sinkShort 0)
  else s

/-- R23: the computation in progress ends with its results. -/
def State.endComputation (s : State) (k : CompKind) : State :=
  let t := ((s.computeDraw k).computeRegen k).judgeSinkShort.computeShares
  t.withAe { t.ae with computing := none }

end Sys2Proof.Machine
end

