-- ==== Sys2Proof/Machine/Interlock.lean ====
section
/-! DEFINITION. Interlock.lean: the interlock array of chapter 08: the sixteen signals, the terms and the outputs. -/

namespace Sys2Proof.Machine

/-- R155: the pole part that ANY_POLE_LOCKED reads. -/
def State.anyPoleLocked (s : State) : Bool :=
  if s.osm.role = .pole then s.pwu.pos.state == .lockedOut || s.pwu.neg.state == .lockedOut
  else match polePartOf s.pvt s.settings.poleStation with
    | some p => p.posState == .lockedOut || p.negState == .lockedOut
    | none => false

/-- R155: DOORS_OPEN. -/
def State.doorsOpen (s : State) : Bool :=
  if s.osm.role = .console then s.din 6
  else ((consolePartOf s.pvt s.settings.consoleStation).map ConsolePart.doors).getD false

/-- R155, Table 8-1: the sixteen signals formed afresh, in the table's order. -/
def State.formSignals (s : State) : List Bool :=
  [s.din 0, s.din 1, s.din 2, s.din 3, s.din 4, s.din 5, s.din 6, s.din 7,
   !s.cc.cuts.isEmpty, s.sourceRead == .wire, s.sourceRead == .battery, s.specialRead, s.anyPoleLocked, s.standstill,
   s.doorsOpen, s.keyOn]

/-- R157: a literal is true. -/
def Literal.holds (l : Literal) (signals : List Bool) : Bool := signals.getD l.signal false != l.negated

/-- R157: the value of a term; an unused one is false. -/
def Term.value (t : Term) (signals : List Bool) : Bool :=
  !t.literals.isEmpty && t.literals.all (fun l => l.holds signals)

/-- Two sets of outputs together. -/
def Inhibits.or (a b : Inhibits) : Inhibits :=
  ⟨a.station || b.station, a.chan0 || b.chan0, a.chan1 || b.chan1, a.chan2 || b.chan2, a.chan3 || b.chan3⟩

/-- R157: the five outputs. -/
def outputsOf (terms : List Term) (signals : List Bool) : Inhibits :=
  (terms.filter (fun t => t.value signals)).foldl (fun o t => o.or t.map) noInhibits

/-- R156: the held value follows each value KEY_ON takes from the console's entry. -/
def State.holdKey (s : State) : Bool :=
  if s.osm.role = .console then s.ia.heldKey
  else match s.settings.key with
    | .local_ _ => s.ia.heldKey
    | .console => ((consolePartOf s.pvt s.settings.consoleStation).map ConsolePart.key).getD s.ia.heldKey

/-- R162: the operating states in which the array evaluates. -/
def OpState.evaluates : OpState → Bool
  | .loading => false
  | .maintenance => false
  | _ => true

/-- R158: the array after an evaluation. -/
def State.evaluated (s : State) : Interlock :=
  let sig := s.formSignals
  let ts := s.settings.terms.toList
  ⟨sig, ts.map (fun t => t.value sig), outputsOf ts sig, s.holdKey⟩

/-- R158, R124, R14: the outputs of the evaluations of a step, from the state before it to the state it has reached: after the
change of an input or of the table, of the pole states, of the source mode, by way of the one it has passed `through` (R89), and
of the cut set. A beacon's items and its cut list are one evaluation, the first: `s0` holds that cut set already. The order of
the other changes of one moment, and one evaluation where the operating state changes (R162), are the model's choice (DESIGN
CHOICE, log entry 61). -/
def State.outputPath (through : Option SourceMode) (s0 s : State) : List Inhibits :=
  if s0.osm.op = s.osm.op then
    let t := s.withCc s0.cc
    let mode := fun m : SourceMode => t.withPwu { s.pwu with source := m }
    ([t.withPwu s0.pwu, mode s0.pwu.source] ++ through.toList.map mode ++ [t, s]).map (fun x => x.evaluated.outputs)
  else [s.evaluated.outputs]

/-- R158, R162: the evaluations of a step, the outputs of each handed to the load channels in their order; the array keeps
the last. -/
def State.evaluate (os : List Inhibits) (s : State) : State :=
  if s.osm.op.evaluates then os.foldl State.applyInhibits (s.withIa s.evaluated) else s

/-- R158, R148: an inhibit of a channel that begins and ends within the evaluations of a step, or ends and begins. -/
def pulses (os : List Inhibits) (c : Fin 4) : Bool := os.any (fun o => o.reaches c) && os.any (fun o => !o.reaches c)

/-- R161: an output that was false is now true, that of an absent channel too (DESIGN CHOICE, log entry 78). -/
def outputRose (old new : Inhibits) : Bool :=
  (!old.station && new.station) || (!old.chan0 && new.chan0) || (!old.chan1 && new.chan1) ||
    (!old.chan2 && new.chan2) || (!old.chan3 && new.chan3)

/-- R158, R161: along the evaluations of a step an output that was false is found true. -/
def outputsRose : Inhibits → List Inhibits → Bool
  | _, [] => false
  | o, p :: ps => outputRose o p || outputsRose p ps

end Sys2Proof.Machine
end

