-- ==== Sys2Proof/Machine/React.lean ====
section
/-! DEFINITION. React.lean: what one step hands from block to block after a command's own effect: the forcing conditions,
the interlock, requests, admission, claims, sink duty, the moves of the operating state, allotment events and outputs. -/

namespace Sys2Proof.Machine

/-- What a command asks of the blocks beside what they see for themselves: an admission event (R142), a new placing of the
share (R61), a composition (R20), the cut set that a change of an entry brings with it, whole (R14, R158), and a source mode published and
left again within the step (R89). -/
structure Cue where
  admission : Bool
  place : Bool
  compose : Bool
  cuts : Option (List CutEntry)
  through : Option SourceMode
deriving DecidableEq, Repr

/-- No cue. -/
def noCue : Cue := ⟨false, false, false, none, none⟩

/-- R158: a change of an entry and the cut set it brings with it are one evaluation. -/
def entryCue (cuts : List CutEntry) : Cue := { noCue with cuts := some cuts }

/-- R158: the state before a step as its evaluations compare with it: the cut set that came with an entry's change is no change
of its own. -/
def State.pathBase (cue : Cue) (s0 : State) : State := s0.withCc { s0.cc with cuts := cue.cuts.getD s0.cc.cuts }

/-- R159, R160: Q and the battery's capacity are taken as 0 while the station or its converter is inhibited. -/
def State.regenBarred (s : State) (o : Inhibits) : Bool :=
  o.station || (match s.converter with
    | some c => o.reaches c
    | none => false)

/-- R56, R60, R159, R160: the clamp of the applied regen to Q, and the fall of the share with the traction station's; an
inhibit that only an evaluation before the last one shows has its effect (R158). -/
def State.clampRegen (os : List Inhibits) (s : State) : State :=
  let bar := s.regenBarred s.ia.outputs || (s.osm.op.evaluates && os.any s.regenBarred)
  let q := if bar then 0 else s.ae.regenRequest
  let t := s.withAe { s.ae with
    regenRequest := q
    regen := min s.ae.regen q
    barred := s.ae.barred || bar }
  t.withAe { t.ae with share := min t.ae.share (t.ae.shareBase - (t.ae.shareRegen - t.regenRead)) }

/-- R142: a change of a channel's request, its cap or its inhibit since a former state is an admission event; a converter
demand that stays above 0 is none. -/
def State.channelEvent (s0 s : State) (c : Fin 4) : Bool :=
  let a := s0.chan c
  let b := s.chan c
  (a.request != b.request && !((s.record c).kind == .converter && a.asks && b.asks)) || a.cap != b.cap ||
    ((a.state == .inhibited) != (b.state == .inhibited))

/-- R142: the admission events of a step: a change of A first, any other after it; several changes of requests, caps and
inhibits in one step are one event (DESIGN CHOICE, log entry 58). -/
def State.admissions (cue : Cue) (os : List Inhibits) (s0 s : State) : State :=
  let a := if s.ae.draw = s0.ae.draw then s else s.admission
  let pulsed := s.osm.op.evaluates && s.present.any (pulses os)
  if cue.admission || channelNumbers.any (State.channelEvent s0 s) || pulsed then a.admission else a

/-- R141, R31: the own claim list is rebuilt, and published after the derate and the limits. It is rebuilt in every step, so it
follows the duty of a held channel too (DESIGN CHOICE, log entry 59). -/
def State.rebuildClaims (s : State) : State :=
  let t := s.withLcm { s.lcm with claims := s.builtClaims }
  t.withAe { t.ae with published := t.publishedClaims }

/-- R61, R150: the share is placed at the end of a computation, and follows the state between computations. -/
def State.settleShare (cue : Cue) (s : State) : State := if cue.place then s.placeShare else s.trimShare

/-- One pass over the blocks, comparing with the state `s0` before it. R158: the array evaluates on each of the changes that
the step has made. -/
def State.settleBlocks (cue : Cue) (s0 s : State) : State :=
  let d := s.driverCut.forceZero
  let os := State.outputPath cue.through (s0.pathBase cue) d
  let a := ((d.evaluate os).refreshRequests).clampRegen os
  (State.admissions cue os s0 a).settleRestoring.rebuildClaims.settleShare cue

/-- R192, R198, R199: the move the key and the draw decide, and the pass over the blocks that follows it. -/
def State.settleMove (s : State) : State :=
  let t := s.autoMove
  if t.osm.op = s.osm.op then s else State.settleBlocks noCue s t

/-- R6: on entering LISTENING from LOADING or DORMANT the own entry is filled at once, with S as it stands at that moment (DESIGN
CHOICE, log entry 86). -/
def State.fillAtEntry (s0 s : State) : State :=
  if (s0.osm.op = .loading ∨ s0.osm.op = .dormant) ∧ s.osm.op = .listening then
    s.fillOwn (s.ownBeacon s.publishedClaims s.offeredSink false)
  else s

/-- R21: the causes of an unscheduled allotment event, between the state before the step and the state after it. An output that
becomes true is one where its channel is absent too (DESIGN CHOICE, log entry 78). -/
def State.eventCaused (cue : Cue) (s0 s : State) : Bool :=
  s.osm.op.composes && (decide (s0.cc.cuts ≠ s.cc.cuts) || decide (s0.sourceRead ≠ s.sourceRead) ||
    claimsFell s0.ae.published s.ae.published || outputRose s0.ia.outputs s.ia.outputs ||
    (s.osm.op.evaluates && outputsRose s0.ia.outputs (State.outputPath cue.through (s0.pathBase cue) s)) ||
    decide (s0.osm.op ≠ s.osm.op))

/-- R21, R22: the allotment event the step causes joins a pending computation; a pending computation starts once the one in
progress has ended. -/
def State.settleEvents (cue : Cue) (s0 s : State) : State :=
  (if State.eventCaused cue s0 s then s.allotmentEvent .unscheduled else s).startWaiting

/-- R200: WAKE_REQ. -/
def State.wakeRequest (s : State) : Bool :=
  match s.osm.op with
  | .parked | .dormant =>
    s.present.any (fun c => (s.chan c).critical) ||
      s.au.entries.any (fun e => s.ownAlarm e && e.severity == .critical && e.state != .clearedUnack)
  | _ => false

/-- R174: the console drives its lamps and its buzzer. -/
def State.lampsOn (s : State) : Bool := s.osm.role == .console && s.osm.op.alarmsTaken

/-- R174: the lamp of a severity. -/
def State.lamp (s : State) (v : Severity) : Bool :=
  let es := s.au.entries.filter (fun e => e.severity == v)
  s.lampsOn && !es.isEmpty && (if es.any AlarmEntry.unack then s.cf.flashOn else true)

/-- R174: the buzzer. -/
def State.buzzer (s : State) : Bool :=
  s.lampsOn && s.au.entries.any (fun e => e.severity != .advisory && e.state == .activeUnack)

/-- R66: the pull of a pole, on through LOADING, in which no role is sampled yet; a station of another role has none. -/
def State.pull (s : State) (p : Pole) : Bool :=
  (s.osm.role == .pole || s.osm.op == .loading) && (s.pole p).state.pull

/-- The output pins as the blocks drive them. -/
def State.driveOutputs (s : State) : Outputs where
  pullPos := s.pull .pos
  pullNeg := s.pull .neg
  chan := ⟨#[s.channelOutput 0, s.channelOutput 1, s.channelOutput 2, s.channelOutput 3], rfl⟩
  criticalLamp := s.lamp .critical
  warningLamp := s.lamp .warning
  overflowLamp := s.lampsOn && s.au.overflow
  buzzer := s.buzzer
  wakeReq := s.wakeRequest

/-- R199: the conditions under which the dormancy timer runs. -/
def State.dormancyRuns (s : State) : Bool :=
  s.osm.op == .parked && !(channelNumbers.any (fun c => s.runs c && (s.record c).park)) &&
    !(s.au.entries.any AlarmEntry.unack) && (s.osm.role != .pole || s.bothDown) &&
    (s.osm.role != .console || !s.holdsCut .driver)

/-- R199: the dormancy timer is set to 0 at each moment a condition fails. -/
def State.settleDormancy (s : State) : State :=
  if s.dormancyRuns then s else s.withOsm { s.osm with dormancy := 0 }

/-- R44, R45: the setpoint output's duty is worked out anew. -/
def State.settleSetpoint (s : State) : State := s.withAe { s.ae with setpoint := s.setpointDuty }

/-- R60, R62, R64: a computed share as it stands: none in an operating state that may not draw, the own one as R60 has
forced or lowered it (DEDUCED, log entry 64). -/
def State.standingShare (s : State) (k : SinkShare) : SinkShare :=
  { k with share := if !s.osm.op.draws then 0 else if s.isOwn k.station then s.ae.share else k.share }

/-- R60, R62, R64: the computed shares kept for the snapshot follow. -/
def State.settleShares (s : State) : State := s.withAe { s.ae with shares := s.ae.shares.map s.standingShare }

/-- The outputs follow the state. -/
def State.refreshOutputs (s : State) : State := s.withOut s.driveOutputs

/-- What every step ends with. -/
def State.settleOutputs (s : State) : State := s.followPoles.settleSetpoint.settleShares.settleDormancy.refreshOutputs

/-- R20: the beacon or PATTERN frame a periodic computation releases. -/
def State.composeIf (cue : Cue) (s : State) : State := if cue.compose then s.compose else s

/-- The blocks take what a command has done to the state `s0`. -/
def State.react (cue : Cue) (s0 s : State) : State :=
  (State.settleEvents cue s0
    (State.composeIf cue (State.fillAtEntry s0 (State.settleBlocks cue s0 s).settleMove))).settleOutputs

end Sys2Proof.Machine
end

