-- ==== Sys2Proof/Machine/Clock.lean ====
section
/-! DEFINITION. Clock.lean: one millisecond (DESIGN CHOICE, log entry 1: what step does on an empty queue). Each timer counts
and waits at its bound; what its expiry does is the row of that expiry. -/

namespace Sys2Proof.Machine

/-- A timer counts 1 ms, up to its bound. -/
def countUp (bound t : Nat) : Nat := min bound (t + 1)

/-- R7, R9: an entry ages by 1 ms; the phantom timer counts down. -/
def Entry.tick (e : Entry) : Entry :=
  match e.state with
  | .empty => e
  | .phantom => { e with age := countUp 15001 e.age, phantom := e.phantom - 1 }
  | _ => { e with age := countUp 15001 e.age }

/-- R67, R79, R82, R103: a pole record counts 1 ms. -/
def PoleRecord.tick (c : Settings) (r : PoleRecord) : PoleRecord :=
  match r.state with
  | .raising => { r with timer := countUp 1000 r.timer }
  | .retrieving => { r with timer := countUp c.tretrieve r.timer }
  | .lowering => { r with timer := countUp c.tretrieve r.timer }
  | .onWire => { r with forgive := countUp 600000 r.forgive }
  | .suspect => { r with suspect := countUp c.tbounce r.suspect }
  | _ => r

/-- R68, R86, R90: the pole watch unit counts 1 ms where its rules run. -/
def PoleUnit.tick (c : Settings) (u : PoleUnit) : PoleUnit :=
  { u with
    pos := u.pos.tick c
    neg := u.neg.tick c
    raiseTimer := if u.operation = .raise then countUp c.traise u.raiseTimer else u.raiseTimer
    drainTimer := if u.operation = .lowerDrain then countUp 200 u.drainTimer else u.drainTimer
    gapTimer := if u.line = .gap then countUp c.tgap u.gapTimer else u.gapTimer
    sourceTimer := u.sourceTimer.map (countUp 100) }

/-- R135, R140: a channel counts 1 ms. -/
def Channel.tick (ch : Channel) : Channel :=
  if ch.state.running then
    { ch with minOn := countUp 60000 ch.minOn, cycle := ch.cycle - 1 }
  else { ch with minOff := countUp 60000 ch.minOff }

/-- R145, R149: the load channel manager counts 1 ms. -/
def LoadUnit.tick (l : LoadUnit) : LoadUnit :=
  { l with
    chans := mapTable Channel.tick l.chans
    spacing := countUp 200 l.spacing
    slotClock := if l.carrierOn then l.slotClock + 1 else l.slotClock }

/-- R193: the silence timers count 1 ms. -/
def State.tickCheck (s : State) (n : Nat) : State :=
  let c := s.check n
  if c.opened && !c.stopped then s.setCheck n { c with timer := countUp (5 * (s.entry n).pe) c.timer } else s

/-- R174, R177: the tail timer and the flash clock count 1 ms. -/
def ConsoleUnit.tick (c : ConsoleUnit) : ConsoleUnit :=
  { c with
    tail := c.tail.map (countUp 2000)
    flashClock := if c.flashRuns then c.flashClock + 1 else c.flashClock }

/-- R164, R198, R199: the timers of the operating-state machine count 1 ms. -/
def State.tickOsm (s : State) : OpMachine :=
  { s.osm with
    uptime := s.osm.uptime + 1
    listen := if s.osm.op = .listening then countUp (5 * s.settings.period) s.osm.listen else s.osm.listen
    dormancy := if s.dormancyRuns then countUp 600000 s.osm.dormancy else s.osm.dormancy }

/-- R97, R98: the tracking clock counts 1 ms, and the sample of the new millisecond is still to come. -/
def PoleUnit.tickTrack (u : PoleUnit) : PoleUnit :=
  { u with trackClock := u.trackClock.map (· + 1), sampled := false }

/-- R125: the offset timer counts 1 ms, up to station number × 50 ms. -/
def CutUnit.tick (number : Nat) (c : CutUnit) : CutUnit :=
  if c.phase = .offset then { c with offset := countUp (50 * number) c.offset } else c

/-- R202: a page write counts 1 ms, up to its 5 ms. -/
def ConfigStore.tick (c : ConfigStore) : ConfigStore :=
  { c with write := c.write.map (fun w => { w with elapsed := countUp 5 w.elapsed }) }

/-- One millisecond passes: every running timer counts, and nothing else changes. The tracking clock counts in MAINTENANCE and
FAULTED too (DESIGN CHOICE, log entry 87). -/
def State.tick (s : State) : State :=
  let t := stationNumbers.foldl State.tickCheck s
  { t with
    osm := s.tickOsm
    pvt := mapTable Entry.tick t.pvt
    ae := if t.osm.op.composes then { t.ae with due := t.ae.due + 1 } else t.ae
    cc := t.cc.tick t.osm.number
    lcm := t.lcm.tick
    pwu := (if t.polesRun then t.pwu.tick t.settings else t.pwu).tickTrack
    cf := t.cf.tick
    cs := t.cs.tick }

end Sys2Proof.Machine
end

