-- ==== Sys2Proof/Config.lean ====
section
/-! DEFINITION. Config.lean: the values the spec leaves open, each an opaque constant of which nothing can be proved.
Each is applied to a counter of State, so that a fresh use may have a fresh value. -/

namespace Sys2Proof.Config

/-- R182: the 0 to 15 bit times taken from the free-running counter after an aborted frame. -/
opaque freeBackoff : Nat → Fin 16

/-- R202: the content of a page whose write a cold reset interrupted is unknown (use, then byte index). -/
opaque freePageByte : Nat → Nat → Byte

/-- R201: the status (0 READY, 1 BUSY, 2 REFUSED) that opens the answer to a WRITE_PAGE outside DORMANT. -/
opaque freeWriteStatus : Nat → Fin 3

end Sys2Proof.Config
end

