-- ==== Sys2Proof/Machine/Bus.lean ====
section
/-! DEFINITION. Bus.lean: the transmit side of the bus interface (R181 to R183) and duplicate-number detection (R186). -/

namespace Sys2Proof.Machine

/-- R183: the frame the queue offers: highest priority first, and within a priority the one that has waited longest. -/
def BusUnit.offer (b : BusUnit) : Option (Slot × Message) :=
  match b.urgentSlots with
  | m :: _ => some (.urgent, m)
  | [] => match b.commandSlots with
    | m :: _ => some (.command, m)
    | [] => b.beaconSlot.map (fun m => (.beacon, m))

/-- The frame a slot offers leaves its waiting place as its transmission begins. -/
def BusUnit.take (b : BusUnit) : Slot → BusUnit
  | .urgent => { b with urgentSlots := b.urgentSlots.drop 1 }
  | .command => { b with commandSlots := b.commandSlots.drop 1 }
  | .beacon => { b with beaconSlot := none }

/-- R118: a beacon carries the cut list as it stands when its transmission begins. -/
def State.withCutList (s : State) (m : Message) : Message :=
  match m with
  | .beacon b => .beacon { b with cuts := s.ownCuts }
  | _ => m

/-- R182: the station begins to send the frame the queue offers. -/
def State.beginSending (s : State) : State :=
  match s.bus.sending, s.bus.offer with
  | none, some (k, m) =>
    let m1 := s.withCutList m
    s.withBus { s.bus.take k with sending := some ⟨k, m1, encode s.osm.number m1, false, none⟩, backoff := 0 }
  | _, _ => s

/-- R182, R183: the frame stays waiting in its slot; one in the beacon slot for which a newer one waits is discarded. -/
def BusUnit.putBack (b : BusUnit) (x : Sending) : BusUnit :=
  match x.slot with
  | .urgent => { b with urgentSlots := x.message :: b.urgentSlots }
  | .command => { b with commandSlots := x.message :: b.commandSlots }
  | .beacon => { b with beaconSlot := some (b.beaconSlot.getD x.message) }

/-- R183, R192: the frame is found to be in arbitration still: one that has lost its waiting place is gone, and the urgent
frame it displaced waits before the others. -/
def BusUnit.loseArbitration (b : BusUnit) (x : Sending) : BusUnit :=
  if x.dropped then
    (if x.slot = .urgent then { b with urgentSlots := x.displaced.toList ++ b.urgentSlots } else b)
  else b.putBack x

/-- R182: the station stops driving its frame; in DORMANT no frame waits (R183). -/
def State.stopSending (s : State) (waits : BusUnit → Sending → BusUnit) : State :=
  match s.bus.sending with
  | none => s
  | some x =>
    let b := { s.bus with sending := none }
    s.withBus (if s.osm.op = .dormant then b else waits b x)

/-- R182: the back-off of 0 to 15 bit times comes from a free-running counter: a free value. -/
def State.drawBackoff (s : State) : State :=
  (s.withBus { s.bus with backoff := (Config.freeBackoff s.freeCount).val }).withFreeCount (s.freeCount + 1)

/-- R186: a frame that passes the checks and bears the own number. -/
def State.duplicateFound (s : State) : State :=
  if s.bus.duplicate then s else (s.withBus { s.bus with duplicate := true }).onset .duplicateStation 0

end Sys2Proof.Machine
end

