-- ==== Sys2Proof/Machine/StartUp.lean ====
section
/-! DEFINITION. StartUp.lean: the commands of chapter 11 that move the operating state: COLD_RESET, LOADING_END, WAKE_INPUT,
WAKE_BY_FRAME, LISTEN_IN_EXPIRY, DORMANCY_EXPIRY. -/

namespace Sys2Proof.Machine

/-- R202: the image a cold reset finds: a page whose write it interrupts has unknown content (free values). -/
def State.imageAfterReset (s : State) : Memory :=
  match s.cs.write with
  | none => s.cs.image
  | some w => s.cs.image.writePage w.page.val ((List.range 16).map (Config.freePageByte s.freeCount))

/-- R195, R202: COLD_RESET: every block at its cold-reset values, the image and the interrupted-write mark as stored. -/
def execColdReset (s : State) : Host.Outcome State Fault Refusal :=
  .next { State.reset with
    cs := ⟨s.imageAfterReset, none, s.cs.mark, .none⟩
    freeCount := s.freeCount + 1
    pending := s.pending }

/-- R195 check 1: MAINTENANCE. -/
def State.enterMaintenance (s : State) (x : Straps) : State :=
  s.loaded .maintenance (strapsRole x) x.number.toNat defaultSettings

/-- R195, R197: FAULTED, with CONFIG_FAULT raised at the entry. -/
def State.enterFaulted (s : State) (x : Straps) : State :=
  ((s.loaded .faulted (strapsRole x) x.number.toNat (faultedSettings s.cs.image)).readSpecial).onset .configFault 0

/-- R195 check 5, R196: LISTENING on the settled image. -/
def State.enterRunning (s : State) (x : Straps) : State :=
  (s.loaded .listening (strapsRole x) x.number.toNat (settle (strapsRole x) s.cs.image)).readSpecial

/-- R195: LOADING_END: the checks in order. -/
def execLoadingEnd (x : Straps) (s : State) : Host.Outcome State Fault Refusal :=
  .next (if s.osm.op = .loading then
    State.react noCue s
      (if x.cfgEn then s.enterMaintenance x else if s.loadFails x then s.enterFaulted x else s.enterRunning x)
    else s)

/-- R199: WAKE_INPUT: the WAKE input becomes active. -/
def execWakeInput (s : State) : Host.Outcome State Fault Refusal :=
  .next (if s.osm.op = .dormant then State.react noCue s s.wake else s)

/-- R185, R199: in DORMANT a frame whose priority field is URGENT or COMMAND wakes the station. -/
def State.wakeOnFrame (s : State) (priority : BitVec 2) : State :=
  if s.osm.op = .dormant ∧ priority.toNat ≤ 1 then State.react noCue s s.wake else s

/-- R185, R199: WAKE_BY_FRAME. -/
def execWakeByFrame (priority : BitVec 2) (s : State) : Host.Outcome State Fault Refusal :=
  .next (s.wakeOnFrame priority)

/-- R198: LISTEN_IN_EXPIRY: the listen-in timer has reached 5P. -/
def execListenInExpiry (s : State) : Host.Outcome State Fault Refusal :=
  .next (if s.osm.op = .listening ∧ 5 * s.settings.period ≤ s.osm.listen then
    State.react noCue s (if s.keyOn then s.enterOp .active else s.enterParked)
    else s)

/-- R199: DORMANCY_EXPIRY: the dormancy timer has reached 600 000 ms. -/
def execDormancyExpiry (s : State) : Host.Outcome State Fault Refusal :=
  .next (if s.osm.op = .parked ∧ 600000 ≤ s.osm.dormancy then State.react noCue s s.enterDormant else s)

end Sys2Proof.Machine
end

