-- ==== Sys2Proof/Machine/Ageing.lean ====
section
/-! DEFINITION. Ageing.lean: the ageing of the peer view table (R7, R9) and the pattern silence (R193): ENTRY_STALE,
ENTRY_PHANTOM, PHANTOM_HOLD_EXPIRY, PATTERN_SILENCE_TIMEOUT. -/

namespace Sys2Proof.Machine

/-- R7: entry n is due to become STALE; the own entry stays FRESH (R6). -/
def State.staleDue (s : State) (n : Nat) : Bool :=
  !s.isOwn n && (s.entry n).state == .fresh && decide (2 * (s.entry n).pe < (s.entry n).age)

/-- R7: entry n is due to become PHANTOM; the own entry stays FRESH (R6). -/
def State.phantomDue (s : State) (n : Nat) : Bool :=
  !s.isOwn n && (s.entry n).heard && decide (5 * (s.entry n).pe < (s.entry n).age)

/-- R9: the phantom hold of entry n is over. -/
def State.holdOver (s : State) (n : Nat) : Bool := (s.entry n).state == .phantom && (s.entry n).phantom == 0

/-- R7: entry n becomes STALE. -/
def State.becomeStale (s : State) (n : Nat) : State :=
  (s.setEntry n { s.entry n with state := .stale }).polesReadTable

/-- R7, R14, R122, R171, R178: entry n becomes PHANTOM. -/
def State.becomePhantom (s : State) (n : Nat) : State :=
  let a := s.setEntry n { s.entry n with state := .phantom, phantom := 10 * (s.entry n).pe }
  (((a.putCuts (dropOrigin a.cc.cuts n)).markOrphans n).stationLost n).polesReadTable

/-- R9, R10, R14, R122, R171, R193: entry n becomes EMPTY. -/
def State.becomeEmpty (s : State) (n : Nat) : State :=
  let a := (s.setEntry n (emptyEntry (s.entry n).pe)).clearCond .paramMismatch n
  let b := (a.putCuts (dropOrigin a.cc.cuts n)).dropOrphans n
  (if b.osm.role = .console then b.closeCheck n else b).polesReadTable

/-- R7: ENTRY_STALE. -/
def execEntryStale (n : Fin 16) (s : State) : Host.Outcome State Fault Refusal :=
  .next (if s.staleDue n.val then State.react noCue s (s.becomeStale n.val) else s)

/-- R7: ENTRY_PHANTOM. -/
def execEntryPhantom (n : Fin 16) (s : State) : Host.Outcome State Fault Refusal :=
  .next (if s.phantomDue n.val then State.react (entryCue (dropOrigin s.cc.cuts n.val)) s (s.becomePhantom n.val) else s)

/-- R9: PHANTOM_HOLD_EXPIRY. -/
def execPhantomHoldExpiry (n : Fin 16) (s : State) : Host.Outcome State Fault Refusal :=
  .next (if s.holdOver n.val then State.react (entryCue (dropOrigin s.cc.cuts n.val)) s (s.becomeEmpty n.val) else s)

/-- R193: the silence timer of station n has reached 5Pe. -/
def State.silenceDue (s : State) (n : Nat) : Bool :=
  s.checksPatterns && (s.check n).opened && !(s.check n).stopped &&
    decide (5 * (s.entry n).pe ≤ (s.check n).timer)

/-- R193: PATTERN_SILENCE_TIMEOUT. -/
def execPatternSilenceTimeout (n : Fin 16) (s : State) : Host.Outcome State Fault Refusal :=
  .next (if s.silenceDue n.val then
    State.react noCue s ((s.setCheck n.val { s.check n.val with stopped := true }).onset .patternError n.val)
    else s)

end Sys2Proof.Machine
end

