-- ==== Sys2Proof/Machine/Commands.lean ====
section
/-! DEFINITION. Commands.lean: a command taken by the station (R188, R189): RAISE_POLES, LOWER_POLES, CLEAR_LOCKOUT,
ACK_ALARMS, PATTERN_ON, PATTERN_OFF (DEDUCED, log entry 13: the row stands for a command the station has taken). -/

namespace Sys2Proof.Machine

/-- R188, R189: a command taken is judged in the states of Table 10-5, and in no other. -/
def State.judge (s : State) (number : Byte) (k : CommandKind) : State :=
  if s.osm.op.judges then State.react noCue s (s.takeCommand number.toNat k) else s

/-- R69: RAISE_POLES. -/
def execRaisePoles (number : Byte) (s : State) : Host.Outcome State Fault Refusal := .next (s.judge number .raisePoles)

/-- R74: LOWER_POLES. -/
def execLowerPoles (number : Byte) (s : State) : Host.Outcome State Fault Refusal := .next (s.judge number .lowerPoles)

/-- R83: CLEAR_LOCKOUT. -/
def execClearLockout (number pole : Byte) (s : State) : Host.Outcome State Fault Refusal :=
  .next (s.judge number (.clearLockout pole))

/-- R168: ACK_ALARMS. -/
def execAckAlarms (number : Byte) (records : List AckRecord) (s : State) : Host.Outcome State Fault Refusal :=
  .next (s.judge number (.ackAlarms records))

/-- R190: PATTERN_ON. -/
def execPatternOn (number : Byte) (s : State) : Host.Outcome State Fault Refusal := .next (s.judge number .patternOn)

/-- R192: PATTERN_OFF. -/
def execPatternOff (number : Byte) (s : State) : Host.Outcome State Fault Refusal := .next (s.judge number .patternOff)

end Sys2Proof.Machine
end

