-- ==== Sys2Proof/Machine/Events.lean ====
section
/-! DEFINITION. Events.lean: ALLOTMENT_EVENT_PERIODIC (R20), ALLOTMENT_COMPUTATION_END (R23), RESTORATION_OFFSET_EXPIRY
(R125), SETPOINT_PULSE_PERIOD_START (R45). -/

namespace Sys2Proof.Machine

/-- R20: ALLOTMENT_EVENT_PERIODIC; the due times are spaced by P in force. -/
def execAllotmentEventPeriodic (s : State) : Host.Outcome State Fault Refusal :=
  .next (if s.osm.op.composes ∧ s.periodInForce ≤ s.ae.due then
    (s.withAe { s.ae with due := s.ae.due - s.periodInForce }).allotmentEvent .periodic
    else s)

/-- R23: ALLOTMENT_COMPUTATION_END. -/
def execAllotmentComputationEnd (s : State) : Host.Outcome State Fault Refusal :=
  .next (match s.ae.computing with
    | some k => State.react { noCue with place := true, compose := k == .periodic } s (s.endComputation k)
    | none => s)

/-- R125, R127: RESTORATION_OFFSET_EXPIRY; the start of restoration is an admission event (R142). -/
def execRestorationOffsetExpiry (s : State) : Host.Outcome State Fault Refusal :=
  .next (if s.cc.phase = .offset ∧ 50 * s.osm.number ≤ s.cc.offset then
    State.react { noCue with admission := true } s s.beginRestoring
    else s)

/-- R45: SETPOINT_PULSE_PERIOD_START: the duty worked out takes effect. -/
def execSetpointPulsePeriodStart (s : State) : Host.Outcome State Fault Refusal :=
  .next (s.withAe { s.ae with setpointOut := s.ae.setpoint })

end Sys2Proof.Machine
end

