-- ==== Sys2Proof/Machine/LoadTimers.lean ====
section
/-! DEFINITION. LoadTimers.lean: the timers of the load channel manager and of the console functions: START_SPACING_EXPIRY,
STARTING_COMPLETE, MIN_ON_ELAPSED, MIN_OFF_ELAPSED, CYCLE_COMPLETE, CARRIER_SLOT_BOUNDARY, SPECIAL_WORK_TAIL_EXPIRY,
FLASH_CLOCK_PHASE. -/

namespace Sys2Proof.Machine

/-- R145: START_SPACING_EXPIRY: an admission event. -/
def execStartSpacingExpiry (s : State) : Host.Outcome State Fault Refusal :=
  .next (if s.lcm.spacingRuns ∧ 200 ≤ s.lcm.spacing then
    State.react { noCue with admission := true } s (s.withLcm { s.lcm with spacingRuns := false })
    else s)

/-- R146: STARTING_COMPLETE: a channel has spent 200 ms in STARTING. -/
def execStartingComplete (c : Fin 4) (s : State) : Host.Outcome State Fault Refusal :=
  .next (if (s.record c).present ∧ (s.chan c).state = .starting ∧ 200 ≤ (s.chan c).minOn then
    State.react noCue s (s.setChan c { s.chan c with state := .on })
    else s)

/-- R146, R147: a channel's min-on clock has reached its min-on: a hold ends, and SHORT_CYCLE clears. -/
def State.minOnReached (s : State) (c : Fin 4) : State :=
  (if (s.chan c).asks then s else s.setChan c ((s.chan c).leave .waiting)).clearShort c

/-- R146, R147: MIN_ON_ELAPSED. -/
def execMinOnElapsed (c : Fin 4) (s : State) : Host.Outcome State Fault Refusal :=
  .next (if s.runs c ∧ s.minOnElapsed c then State.react noCue s (s.minOnReached c) else s)

/-- R146: a channel's min-off has elapsed; one in WAITING enters OFF. -/
def State.minOffReached (s : State) (c : Fin 4) : State :=
  let ch := s.chan c
  s.setChan c { (if ch.state = .waiting then ch.leave .off else ch) with offRuns := false }

/-- R142: a channel whose min-off elapses makes an admission event: it is OFF with a request, SHED or SUSPENDED. One that has
just left WAITING for OFF counts as OFF (DEDUCED, log entry 62). -/
def Channel.admitted (ch : Channel) : Bool := ch.state.listed || (ch.state == .off && ch.asks)

/-- R142: MIN_OFF_ELAPSED of a channel is an admission event. A min-off of 0 has elapsed as the channel stops and makes none of
its own, as Table 7-4 shows at t = 1500, but for a channel that leaves WAITING by it (DEDUCED, log entry 62). -/
def State.minOffAdmits (s : State) (c : Fin 4) : Bool :=
  ((s.minOffReached c).chan c).admitted && ((s.chan c).state == .waiting || decide (0 < (s.record c).minOffMs))

/-- R142, R146: MIN_OFF_ELAPSED; an elapsing is taken once (DEDUCED, log entry 62). -/
def execMinOffElapsed (c : Fin 4) (s : State) : Host.Outcome State Fault Refusal :=
  let ch := s.chan c
  .next (if (s.record c).present ∧ !ch.state.running ∧ s.minOffElapsed c ∧ (ch.offRuns ∨ ch.state = .waiting) then
    State.react { noCue with admission := s.minOffAdmits c } s (s.minOffReached c)
    else s)

/-- R140: CYCLE_COMPLETE: the cycle remaining of a TIMED channel has reached 0 and its request goes off. -/
def execCycleComplete (c : Fin 4) (s : State) : Host.Outcome State Fault Refusal :=
  .next (if (s.chan c).cyclePending ∧ (s.chan c).cycle = 0 then
    State.react noCue s (s.setChan c { s.chan c with cyclePending := false })
    else s)

/-- R61, R149: a channel's window in force takes the duties at a slot boundary. -/
def Channel.takeWindow (ch : Channel) : Channel := { ch with winDuty := ch.duty, winSink := ch.sinkDuty }

/-- R149: CARRIER_SLOT_BOUNDARY: every 125 ms the next slot begins. -/
def execCarrierSlotBoundary (s : State) : Host.Outcome State Fault Refusal :=
  .next (if s.lcm.carrierOn ∧ 125 ≤ s.lcm.slotClock then
    (s.withLcm { s.lcm with
      slot := (s.lcm.slot + 1) % 8
      slotClock := s.lcm.slotClock - 125
      chans := mapTable Channel.takeWindow s.lcm.chans }).refreshOutputs
    else s)

/-- R177: the tail of the special-work flag has reached 2000 ms. -/
def State.tailDue (s : State) : Bool :=
  match s.cf.tail with
  | some t => decide (2000 ≤ t)
  | none => false

/-- R177: SPECIAL_WORK_TAIL_EXPIRY. -/
def execSpecialWorkTailExpiry (s : State) : Host.Outcome State Fault Refusal :=
  .next (if s.tailDue then State.react noCue s (s.withCf { s.cf with special := false, tail := none }) else s)

/-- R174: FLASH_CLOCK_PHASE: each half of the flash clock lasts 500 ms. -/
def execFlashClockPhase (s : State) : Host.Outcome State Fault Refusal :=
  .next (if s.cf.flashRuns ∧ 500 ≤ s.cf.flashClock then
    (s.withCf { s.cf with flashOn := !s.cf.flashOn, flashClock := s.cf.flashClock - 500 }).refreshOutputs
    else s)

end Sys2Proof.Machine
end

