-- ==== Sys2Proof/Machine/PoleTimers.lean ====
section
/-! DEFINITION. PoleTimers.lean: the timers of the pole watch unit: POLE_HOOK_TIMEOUT, RAISE_TIMEOUT, DRAIN_TIMEOUT,
RETRIEVE_TIMEOUT, FORGIVENESS_EXPIRY, GAP_TIMEOUT, SOURCE_CHANGE_TIMEOUT, TRACKING_STEP, SUSPECT_EXPIRY, BOUNCE_EXPIRY. -/

namespace Sys2Proof.Machine

/-- A step of the pole watch unit on the expiry of one of its timers, where its rules run and the timer is due. -/
def State.poleTimer (s : State) (due : Bool) (dewired : Option Pole) (act : State → State) : State :=
  if s.polesRun && due then State.react noCue s ((act s).finishPoles dewired) else s

/-- R71: POLE_HOOK_TIMEOUT: the hook time of 1000 ms has run out in RAISING. -/
def execPoleHookTimeout (p : Pole) (s : State) : Host.Outcome State Fault Refusal :=
  .next (s.poleTimer ((s.pole p).state == .raising && decide (1000 ≤ (s.pole p).timer)) none State.abandonRaise)

/-- R73: RAISE_TIMEOUT: the raise timer has reached Traise. -/
def execRaiseTimeout (s : State) : Host.Outcome State Fault Refusal :=
  .next (s.poleTimer (s.pwu.operation == .raise && decide (s.settings.traise ≤ s.pwu.raiseTimer)) none
    State.abandonRaise)

/-- R75, R76: DRAIN_TIMEOUT: the drain timer has reached 200 ms. -/
def execDrainTimeout (s : State) : Host.Outcome State Fault Refusal :=
  .next (s.poleTimer (s.pwu.operation == .lowerDrain && decide (200 ≤ s.pwu.drainTimer)) none State.endDrain)

/-- R79: RETRIEVE_TIMEOUT: the operation timer has reached Tretrieve in RETRIEVING or LOWERING. -/
def execRetrieveTimeout (p : Pole) (s : State) : Host.Outcome State Fault Refusal :=
  .next (s.poleTimer ((s.pole p).state.falling && decide (s.settings.tretrieve ≤ (s.pole p).timer)) none
    (fun t => t.onset .retrieveFail (poleCode p)))

/-- R82: the forgiveness period of a pole is over. -/
def State.forgive (p : Pole) (s : State) : State :=
  s.setPole p { s.pole p with count := (s.pole p).count - 1, forgive := 0 }

/-- R82: FORGIVENESS_EXPIRY, taken in ON_WIRE; a timer that reaches its end as the pole enters SUSPECT waits for the return
(DESIGN CHOICE, log entry 81). -/
def execForgivenessExpiry (p : Pole) (s : State) : Host.Outcome State Fault Refusal :=
  .next (s.poleTimer ((s.pole p).state == .onWire && decide (600000 ≤ (s.pole p).forgive)) none (State.forgive p))

/-- R87: the line is judged lost. -/
def State.loseLine (s : State) : State :=
  (s.withPwu { s.pwu with line := .out, gapTimer := 0 }).onset .lineLost 0

/-- R87: GAP_TIMEOUT: the gap timer has reached Tgap. -/
def execGapTimeout (s : State) : Host.Outcome State Fault Refusal :=
  .next (s.poleTimer (s.pwu.line == .gap && decide (s.settings.tgap ≤ s.pwu.gapTimer)) none State.loseLine)

/-- R90: the source-change timer is due at 100 ms. -/
def State.sourceDue (s : State) : Bool :=
  match s.pwu.sourceTimer with
  | some t => decide (100 ≤ t)
  | none => false

/-- R90: SOURCE_CHANGE_TIMEOUT: the SOURCE_CHANGE cut is released. -/
def execSourceChangeTimeout (s : State) : Host.Outcome State Fault Refusal :=
  .next (s.poleTimer s.sourceDue none (fun t => t.withPwu { t.pwu with sourceTimer := none }))

/-- R97, R98: TRACKING_STEP: each pole ON_WIRE takes a step at a due time of the tracking clock. The step uses the sample of
its millisecond: taken before that sample it waits for it (DEDUCED, log entry 49). -/
def execTrackingStep (s : State) : Host.Outcome State Fault Refusal :=
  .next (match s.pwu.trackClock with
    | some c =>
      if 16 ≤ c then
        let t := s.withPwu { s.pwu with trackClock := some (c - 16), trackWaits := true }
        if s.pwu.sampled then t.trackPoles else t
      else s
    | none => s)

/-- R105, R106: SUSPECT_EXPIRY: the SUSPECT timer of a pole has reached Tbounce. -/
def execSuspectExpiry (p : Pole) (s : State) : Host.Outcome State Fault Refusal :=
  .next (s.poleTimer ((s.pole p).state == .suspect && decide (s.settings.tbounce ≤ (s.pole p).suspect))
    (if s.inWindowOf p then none else some p) (fun t => t.expireWindow p))

/-- R110, R111: the bounce times of a pole that are 60 000 ms old are removed. -/
def State.expireBounces (s : State) (p : Pole) : State :=
  let r := s.pole p
  let h := r.bounces.filter (fun t => decide (s.osm.uptime < t + 60000))
  let t := s.setPole p { r with bounces := h }
  if h = [] then t.clearCond .bounce (poleCode p) else t

/-- R110: BOUNCE_EXPIRY. -/
def execBounceExpiry (p : Pole) (s : State) : Host.Outcome State Fault Refusal :=
  .next (State.react noCue s (s.expireBounces p))

end Sys2Proof.Machine
end

