-- ==== Sys2Proof/Machine/Port.lean ====
section
/-! DEFINITION. Port.lean: the maintenance port (R201, R202): READ_IMAGE, READ_BUSY, READ_SNAPSHOT, WRITE_PAGE,
PAGE_WRITE_COMPLETE. -/

namespace Sys2Proof.Machine

/-- R201: every operation is answered REFUSED in DORMANT. -/
def State.answer (s : State) (a : PortAnswer) : State :=
  s.withPort (if s.osm.op = .dormant then .refused else a)

/-- R201: READ_IMAGE. -/
def execReadImage (s : State) : Host.Outcome State Fault Refusal :=
  .next (s.answer (if s.cs.write.isSome then .busy else .image s.cs.image.bytes))

/-- R201: READ_BUSY: the busy flag, the outcome of the latest WRITE_PAGE, and the interrupted-write mark. -/
def execReadBusy (s : State) : Host.Outcome State Fault Refusal :=
  .next (s.answer (.busyState s.cs.write.isSome s.cs.outcome s.cs.mark))

/-- R180: what the snapshot returns of the console. -/
def State.consoleView (s : State) : Option ConsoleView :=
  if s.osm.role = .console then
    some ⟨(List.range 9).map s.din, s.cf.special, s.cf.tail, s.cf.heat, s.cf.commandCounter,
      s.out.criticalLamp, s.out.warningLamp, s.out.overflowLamp, s.out.buzzer, s.cf.flashOn⟩
  else none

/-- R19, R58, R62, R66, R68, R93, R132, R154, R163, R180, R196, R201: the snapshot. For a channel that is not MODULATED, for
which R137 defines no r', it shows the request within the cap (DESIGN CHOICE, log entry 77). -/
def State.snapshotData (s : State) : SnapshotData where
  settings := s.settings
  table := s.pvt
  grants := s.ae.grants
  grant := s.ae.grant
  regenGrant := s.ae.regenGrant
  absorption := s.ae.absorption
  usableRegen := s.ae.usableRegen
  sinkTotal := s.ae.sinkTotal
  shares := s.ae.shares
  appliedShare := s.appliedShare
  poles := s.pwu
  pullPos := s.out.pullPos
  pullNeg := s.out.pullNeg
  cuts := s.cc
  channels := channelNumbers.map (fun c => ⟨s.chan c, (s.chan c).effective, s.current c⟩)
  shedList := s.shedList
  spacing := s.lcm.spacing
  reserved := s.reservedCurrent
  slot := s.lcm.slot
  claims := s.lcm.claims
  interlock := s.ia
  alarms := s.au.entries
  overflow := s.au.overflow
  console := s.consoleView

/-- R201: READ_SNAPSHOT. -/
def execReadSnapshot (s : State) : Host.Outcome State Fault Refusal := .next (s.answer (.snapshot s.snapshotData))

/-- R202: a WRITE_PAGE is judged at its arrival, the level of WP before a write under way (DESIGN CHOICE, log entry 75). -/
def ConfigStore.judgeWrite (c : ConfigStore) (maintenance wp : Bool) (page : Fin 16) (bytes : Vector Byte 16) :
    ConfigStore :=
  if maintenance then
    if wp then { c with outcome := .ignoredProtected }
    else if c.write.isSome then { c with outcome := .ignoredBusy }
    else { c with write := some ⟨page, bytes, 0⟩, mark := true }
  else { c with outcome := .ignoredState }

/-- R202: WRITE_PAGE, with the level of the WP input; the status of its answer is a free value outside DORMANT. -/
def execWritePage (page : Fin 16) (bytes : Vector Byte 16) (wp : Bool) (s : State) :
    Host.Outcome State Fault Refusal :=
  .next (((s.withCs (s.cs.judgeWrite (s.osm.op == .maintenance) wp page bytes)).answer
    (.written (Config.freeWriteStatus s.freeCount))).withFreeCount (s.freeCount + 1))

/-- R202: a page write completes: the page, the mark, the busy flag and the outcome. -/
def ConfigStore.finishWrite (c : ConfigStore) (w : PageWrite) : ConfigStore :=
  ⟨c.image.writePage w.page.val w.bytes.toList, none, false, .done⟩

/-- R202: PAGE_WRITE_COMPLETE: the 5 ms of a page write have passed. -/
def execPageWriteComplete (s : State) : Host.Outcome State Fault Refusal :=
  .next (match s.cs.write with
    | some w => if 5 ≤ w.elapsed then s.withCs (s.cs.finishWrite w) else s
    | none => s)

end Sys2Proof.Machine
end

