-- ==== Sys2Proof/Machine/Receive.lean ====
section
/-! DEFINITION. Receive.lean: the frames the line brings (R185): BEACON_RECEIVED, PATTERN_RECEIVED, CUT_RECEIVED,
RELEASE_RECEIVED, COMMAND_RECEIVED. -/

namespace Sys2Proof.Machine

/-- R2, R121, R158: a beacon changes the items of its entry and the cuts of its origin as one change. -/
def State.frameCue (s : State) : Received → Cue
  | .beacon n b => if s.isOwn n then noCue else entryCue (applyCutList s.cc.cuts n b.cuts)
  | _ => noCue

/-- R185, R186: a frame of a row's kind is checked and handed on; one of the own number goes to duplicate detection; in
DORMANT it may wake the station and is not received. -/
def State.receive (s : State) (kind : Nat) (f : Frame) (act : State → Received → State) : State :=
  if s.osm.op = .dormant then s.wakeOnFrame f.priority
  else if s.osm.op.receives ∧ f.kind.toNat = kind then
    match checkFrame f with
    | none => s
    | some r => State.react (s.frameCue r) s (if s.isOwn r.station then s.duplicateFound else act s r)
  else s

/-- R10: PARAM_MISMATCH follows the mismatch causes of an entry. -/
def State.judgeMismatch (s : State) (n : Nat) : State :=
  if (s.entry n).causes.any then s.onset .paramMismatch n else s.clearCond .paramMismatch n

/-- R2, R10, R14, R121, R170, R178, R193: a beacon is taken by entry n. -/
def State.takeBeacon (s : State) (n : Nat) (b : Beacon) : State :=
  let a := (s.setEntry n (s.beaconEntry n b)).judgeMismatch n
  let c := (a.putCuts (applyCutList a.cc.cuts n b.cuts)).mirrorReport n b.alarms
  ((c.stationFound n).checkBeacon n b.pattern).polesReadTable

/-- R4, R178, R193: a PATTERN frame is taken by entry n. -/
def State.takePattern (s : State) (n : Nat) (payload : List Byte) : State :=
  (((s.setEntry n (s.patternEntry n)).stationFound n).checkPattern n payload).polesReadTable

/-- R119: a CUT frame reaches the cut controller. -/
def State.takeCut (s : State) (station origin : Nat) (cause : Option CutCause) (k : Nat) : State :=
  match cause with
  | some c =>
    if origin = station ∧ (s.entry origin).state ≠ .empty then s.putCuts (enterCut s.cc.cuts origin c k) else s
  | none => s

/-- R120: a RELEASE frame reaches the cut controller. -/
def State.takeRelease (s : State) (station origin : Nat) (cause : Option CutCause) (k : Nat) : State :=
  match cause with
  | some c => if origin = station then s.putCuts (removeCut s.cc.cuts origin c k) else s
  | none => s

/-- R2: BEACON_RECEIVED. -/
def execBeaconReceived (f : Frame) (s : State) : Host.Outcome State Fault Refusal :=
  .next (s.receive 0 f (fun t r => match r with
    | .beacon n b => t.takeBeacon n b
    | _ => t))

/-- R4: PATTERN_RECEIVED. -/
def execPatternReceived (f : Frame) (s : State) : Host.Outcome State Fault Refusal :=
  .next (s.receive 4 f (fun t r => match r with
    | .pattern n p => t.takePattern n p
    | _ => t))

/-- R119: CUT_RECEIVED. -/
def execCutReceived (f : Frame) (s : State) : Host.Outcome State Fault Refusal :=
  .next (s.receive 1 f (fun t r => match r with
    | .cut n o c k => t.takeCut n o c k
    | _ => t))

/-- R120: RELEASE_RECEIVED. -/
def execReleaseReceived (f : Frame) (s : State) : Host.Outcome State Fault Refusal :=
  .next (s.receive 2 f (fun t r => match r with
    | .release n o c k => t.takeRelease n o c k
    | _ => t))

/-- R188: COMMAND_RECEIVED. -/
def execCommandReceived (f : Frame) (s : State) : Host.Outcome State Fault Refusal :=
  .next (s.receive 3 f (fun t r => match r with
    | .command n o g k kind => if t.commandTaken n o g kind then t.takeCommand k kind else t
    | _ => t))

end Sys2Proof.Machine
end

