-- ==== Sys2Proof/Machine/Samples.lean ====
section
/-! DEFINITION. Samples.lean: ANALOG_SAMPLE and DIGITAL_INPUT_CHANGE (R65), and what each block judges against them. -/

namespace Sys2Proof.Machine

/-- R65: the readings of a sample. -/
def State.takeReadings (s : State) (x : AnalogSample) : State := s.withSu { s.su with ain := x, valid := true }

/-- R32: the hot state is judged on AIN6, reading less 50 in °C, at each sample. -/
def State.judgeHot (s : State) : State :=
  if !s.ae.hot && decide (s.settings.trip + 50 ≤ s.ain 6) then
    (s.withAe { s.ae with hot := true }).onset .hotDerate 0
  else if s.ae.hot && decide (s.ain 6 ≤ s.settings.release + 50) then
    (s.withAe { s.ae with hot := false }).clearCond .hotDerate 0
  else s

/-- R138: the requesting flag after a pressure sample. -/
def requestingAfter (r : ChannelRecord) (v : Nat) (old : Bool) : Bool :=
  if r.source = .pressure then (if v < r.pon then true else if r.poff ≤ v then false else old) else false

/-- R138: the pressure flags of a channel. -/
def State.samplePressure (s : State) (c : Fin 4) : State :=
  let r := s.record c
  let ch := s.chan c
  match r.pressureInput with
  | some i =>
    if r.present then
      s.setChan c { ch with
        requesting := requestingAfter r (s.ain i) ch.requesting
        critical := decide (s.ain i < r.pcrit) }
    else s
  | none => s

/-- R139: the thermal cap after a temperature sample, a reading less 50 in °C. -/
def capAfter (r : ChannelRecord) (v cap : Nat) : Nat :=
  if cap = 8 ∧ r.trip + 50 ≤ v then 4 else if cap = 4 ∧ v ≤ r.release + 50 then 8 else cap

/-- R139: the thermal cap of a channel; at its setting a duty above 4 becomes 4. -/
def State.sampleThermal (s : State) (c : Fin 4) : State :=
  let r := s.record c
  let ch := s.chan c
  match r.thermalInput with
  | some i =>
    if r.present && r.kind == .modulated then
      let k := capAfter r (s.ain i) ch.cap
      let d := { ch with cap := k }
      s.setChan c (if k = 4 ∧ 4 < ch.duty then d.lowered 4 else d)
    else s
  | none => s

/-- R177: the heat duty the console functions hold. -/
def State.sampleHeat (s : State) : State :=
  if s.osm.role = .console ∧ s.osm.op.receives then s.withCf { s.cf with heat := heatOfReading (s.ain 5) } else s

/-- R47, R64: the regen request, worked out in LISTENING, ACTIVE and PARKED. R159: an inhibit that has ended no longer bars
it and the battery's capacity; one that this sample's own reading ends no longer from this sample on (DESIGN CHOICE, log
entry 70). -/
def State.sampleRegen (s : State) : State :=
  s.withAe { s.ae with
    barred := false
    regenRequest := if s.osm.role = .traction ∧ s.osm.op.serves ∧ s.osm.op ≠ .pattern then s.signedRegen else 0 }

/-- R65: what the blocks take from a sample, before they act on one another. -/
def State.takeSample (s : State) (x : AnalogSample) : State :=
  let a := (s.takeReadings x).judgeHot.samplePoles
  let b := channelNumbers.foldl State.sampleThermal (channelNumbers.foldl State.samplePressure a)
  b.sampleHeat.sampleRegen

/-- R65: the operating states in which analog inputs are sampled. -/
def OpState.samples : OpState → Bool
  | .loading => false
  | .dormant => false
  | _ => true

/-- R87, R88, R89: a sample at Vpresent that takes the line state from GAP or OUT to OPEN takes it there by LIVE, and the source
mode by WIRE. -/
def State.sampleCue (s t : State) : Cue :=
  { noCue with through :=
      if (s.pwu.line = .gap ∨ s.pwu.line = .out) ∧ t.pwu.line = .isOpen ∧ t.settings.vpresent ≤ t.ain 0 then some .wire
      else none }

/-- R65: ANALOG_SAMPLE. -/
def execAnalogSample (x : AnalogSample) (s : State) : Host.Outcome State Fault Refusal :=
  .next (if s.osm.op.samples then State.react (s.sampleCue (s.takeSample x)) s (s.takeSample x) else s)

/-- A filtered input takes a level. -/
def setLevel (d : BitVec 12) (i : Nat) (level : Bool) : BitVec 12 :=
  if level then d ||| BitVec.twoPow 12 i else d &&& ~~~(BitVec.twoPow 12 i)

/-- R140, R151, R153: a rising edge of an input begins the cycle of a TIMED channel that has none pending. -/
def State.edgeChannel (input : Nat) (s : State) (c : Fin 4) : State :=
  let r := s.record c
  let ch := s.chan c
  let live := match s.osm.op with
    | .listening | .active | .dormant => true
    | .parked => r.park
    | _ => false
  if r.present && r.kind == .timed && r.input == input && !ch.cyclePending && live then
    s.setChan c { ch with cyclePending := true, cycle := r.cycle * 1000 }
  else s

/-- R65, R101: the pole watch unit's digital inputs. -/
def State.poleInput (s : State) (input : Nat) : State :=
  match input with
  | 0 => s.ropeChange .pos
  | 1 => s.ropeChange .neg
  | _ => s

/-- R65: what the blocks take from a change of a filtered input, before they act on one another. -/
def State.takeInput (s : State) (input : Nat) (level : Bool) : State :=
  let a := s.withSu { s.su with din := setLevel s.su.din input level }
  let b := if a.osm.role = .console then a.consoleInput input level else a
  let c := b.poleInput input
  if level then channelNumbers.foldl (State.edgeChannel input) c else c

/-- R65: DIGITAL_INPUT_CHANGE; an input that has the level already does not change. -/
def execDigitalInputChange (input : Fin 12) (level : Bool) (s : State) : Host.Outcome State Fault Refusal :=
  .next (if s.din input.val = level then s else State.react noCue s (s.takeInput input.val level))

end Sys2Proof.Machine
end

