-- ==== Sys2Proof/Machine/Transmit.lean ====
section
/-! DEFINITION. Transmit.lean: the transmission of the station's own frames (R182): TRANSMIT_START, ARBITRATION_LOST,
TRANSMIT_ABORT, TRANSMIT_COMPLETE. -/

namespace Sys2Proof.Machine

/-- R182: TRANSMIT_START: the line has been idle for 12 bit times and the station begins to send (R184: not at number 0). -/
def execTransmitStart (s : State) : Host.Outcome State Fault Refusal :=
  .next (if s.osm.op.composes ∧ s.osm.number ≠ 0 then s.beginSending else s)

/-- R182, R183: ARBITRATION_LOST: the frame has been in arbitration to this moment. -/
def execArbitrationLost (s : State) : Host.Outcome State Fault Refusal := .next (s.stopSending BusUnit.loseArbitration)

/-- R182: TRANSMIT_ABORT: the frame in transmission stays waiting. -/
def execTransmitAbort (s : State) : Host.Outcome State Fault Refusal :=
  .next (if s.bus.sending.isSome then (s.stopSending BusUnit.putBack).drawBackoff else s)

/-- R182: TRANSMIT_COMPLETE: the frame has left its slot. -/
def execTransmitComplete (s : State) : Host.Outcome State Fault Refusal :=
  .next (s.withBus { s.bus with sending := none })

end Sys2Proof.Machine
end

