-- ==== Sys2Proof/Machine/Dispatch.lean ====
section
/-! DEFINITION. Dispatch.lean: one arm per command, each a direct call of its meaning. -/

namespace Sys2Proof.Machine

/-- The effect of a command on everything but the queue. -/
def exec (i : Instr) (s : State) : Host.Outcome State Fault Refusal :=
  match i with
  | .coldReset => Sys2Proof.Machine.execColdReset s
  | .loadingEnd straps => Sys2Proof.Machine.execLoadingEnd straps s
  | .analogSample sample => Sys2Proof.Machine.execAnalogSample sample s
  | .digitalInputChange input level => Sys2Proof.Machine.execDigitalInputChange input level s
  | .wakeInput => Sys2Proof.Machine.execWakeInput s
  | .wakeByFrame priority => Sys2Proof.Machine.execWakeByFrame priority s
  | .beaconReceived frame => Sys2Proof.Machine.execBeaconReceived frame s
  | .patternReceived frame => Sys2Proof.Machine.execPatternReceived frame s
  | .patternSilenceTimeout station => Sys2Proof.Machine.execPatternSilenceTimeout station s
  | .cutReceived frame => Sys2Proof.Machine.execCutReceived frame s
  | .releaseReceived frame => Sys2Proof.Machine.execReleaseReceived frame s
  | .restorationOffsetExpiry => Sys2Proof.Machine.execRestorationOffsetExpiry s
  | .commandReceived frame => Sys2Proof.Machine.execCommandReceived frame s
  | .raisePoles number => Sys2Proof.Machine.execRaisePoles number s
  | .lowerPoles number => Sys2Proof.Machine.execLowerPoles number s
  | .clearLockout number pole => Sys2Proof.Machine.execClearLockout number pole s
  | .ackAlarms number records => Sys2Proof.Machine.execAckAlarms number records s
  | .patternOn number => Sys2Proof.Machine.execPatternOn number s
  | .patternOff number => Sys2Proof.Machine.execPatternOff number s
  | .entryStale station => Sys2Proof.Machine.execEntryStale station s
  | .entryPhantom station => Sys2Proof.Machine.execEntryPhantom station s
  | .phantomHoldExpiry station => Sys2Proof.Machine.execPhantomHoldExpiry station s
  | .allotmentEventPeriodic => Sys2Proof.Machine.execAllotmentEventPeriodic s
  | .allotmentComputationEnd => Sys2Proof.Machine.execAllotmentComputationEnd s
  | .poleHookTimeout pole => Sys2Proof.Machine.execPoleHookTimeout pole s
  | .raiseTimeout => Sys2Proof.Machine.execRaiseTimeout s
  | .drainTimeout => Sys2Proof.Machine.execDrainTimeout s
  | .retrieveTimeout pole => Sys2Proof.Machine.execRetrieveTimeout pole s
  | .forgivenessExpiry pole => Sys2Proof.Machine.execForgivenessExpiry pole s
  | .gapTimeout => Sys2Proof.Machine.execGapTimeout s
  | .sourceChangeTimeout => Sys2Proof.Machine.execSourceChangeTimeout s
  | .trackingStep => Sys2Proof.Machine.execTrackingStep s
  | .suspectExpiry pole => Sys2Proof.Machine.execSuspectExpiry pole s
  | .bounceExpiry pole => Sys2Proof.Machine.execBounceExpiry pole s
  | .startSpacingExpiry => Sys2Proof.Machine.execStartSpacingExpiry s
  | .startingComplete channel => Sys2Proof.Machine.execStartingComplete channel s
  | .minOnElapsed channel => Sys2Proof.Machine.execMinOnElapsed channel s
  | .minOffElapsed channel => Sys2Proof.Machine.execMinOffElapsed channel s
  | .cycleComplete channel => Sys2Proof.Machine.execCycleComplete channel s
  | .carrierSlotBoundary => Sys2Proof.Machine.execCarrierSlotBoundary s
  | .specialWorkTailExpiry => Sys2Proof.Machine.execSpecialWorkTailExpiry s
  | .transmitStart => Sys2Proof.Machine.execTransmitStart s
  | .arbitrationLost => Sys2Proof.Machine.execArbitrationLost s
  | .transmitAbort => Sys2Proof.Machine.execTransmitAbort s
  | .transmitComplete => Sys2Proof.Machine.execTransmitComplete s
  | .listenInExpiry => Sys2Proof.Machine.execListenInExpiry s
  | .dormancyExpiry => Sys2Proof.Machine.execDormancyExpiry s
  | .readImage => Sys2Proof.Machine.execReadImage s
  | .readBusy => Sys2Proof.Machine.execReadBusy s
  | .readSnapshot => Sys2Proof.Machine.execReadSnapshot s
  | .writePage page bytes wp => Sys2Proof.Machine.execWritePage page bytes wp s
  | .pageWriteComplete => Sys2Proof.Machine.execPageWriteComplete s
  | .flashClockPhase => Sys2Proof.Machine.execFlashClockPhase s
  | .setpointPulsePeriodStart => Sys2Proof.Machine.execSetpointPulsePeriodStart s

end Sys2Proof.Machine
end

