-- ==== Sys2Proof/Safety.lean ====
section
/-! DEFINITION. Safety.lean: what a safe run keeps, as invariants of the state, and the words the statements are put in. -/

namespace Sys2Proof.Machine

/-- R115, R124, R125: the cut set holds at most 8 entries and at most one for each pair of origin and cause; an entry is
own when its origin is the own number; the set is non-empty exactly in the phase HELD. In LOADING, where the number is not
sampled yet, the set is empty. -/
def State.CutsOk (s : State) : Prop :=
  s.cc.cuts.length ≤ 8 ∧
  s.cc.cuts.Pairwise (fun a b => ¬ (a.origin = b.origin ∧ a.cause = b.cause)) ∧
  (∀ e ∈ s.cc.cuts, e.own = (e.origin == s.osm.number)) ∧
  (s.cc.cuts ≠ [] ↔ s.cc.phase = .held) ∧
  (s.osm.op = .loading → s.cc.cuts = [])

/-- R195 check 4: past LOADING, a station that runs on the image bears the pole station's number only in the role POLE. -/
def State.PlacedOk (s : State) : Prop :=
  (s.osm.op = .listening ∨ s.osm.op = .active ∨ s.osm.op = .pattern ∨ s.osm.op = .parked ∨ s.osm.op = .dormant) →
    s.osm.number = s.settings.poleStation → s.osm.role = .pole

/-- R42, R56, R60: while a forcing condition holds the applied draw, the applied regen and the share are 0. -/
def State.ForcedOk (s : State) : Prop :=
  s.forced = true → s.ae.draw = 0 ∧ s.ae.regen = 0 ∧ s.ae.share = 0

/-- R42, R56: the applied draw is within the own grant, that within the station maximum; the applied regen is within the
regen request. In LOADING, where no image is settled yet, no grant stands and no computation is in progress or pending. -/
def State.DrawOk (s : State) : Prop :=
  s.ae.draw ≤ s.ae.grant ∧ s.ae.grant ≤ s.settings.stationMax ∧ s.ae.regen ≤ s.ae.regenRequest ∧
  (s.osm.op = .loading → s.ae.grant = 0 ∧ s.ae.computing = none ∧ s.ae.waiting = none)

/-- R183: two urgent slots and three command slots, the frame being driven counted in its slot. -/
def State.QueuesOk (s : State) : Prop :=
  s.bus.urgentSlots.length + s.bus.driven .urgent ≤ 2 ∧ s.bus.commandSlots.length + s.bus.driven .command ≤ 3

/-- R164: the alarm table holds at most 16 entries, at most 8 of them own, one for each kind, source and qualifier. It is
empty in LOADING. -/
def State.AlarmsOk (s : State) : Prop :=
  s.au.entries.length ≤ 16 ∧ (s.au.entries.filter s.ownAlarm).length ≤ 8 ∧
  s.au.entries.Pairwise (fun a b => ¬ (a.kind = b.kind ∧ a.source = b.source ∧ a.qualifier = b.qualifier)) ∧
  (s.osm.op = .loading → s.au.entries = [])

/-- R45, R81, R117, R149, R176, R177, R182, R184: the counters and numbers stay in their ranges. -/
def State.RangesOk (s : State) : Prop :=
  s.ae.setpoint ≤ 1023 ∧ s.ae.setpointOut ≤ 1023 ∧ s.bus.sequence < 256 ∧ s.bus.backoff ≤ 15 ∧
  s.cc.counter < 256 ∧ s.cf.commandCounter < 256 ∧ s.cf.heat ≤ 8 ∧ s.lcm.slot < 8 ∧
  s.pwu.pos.count ≤ 15 ∧ s.pwu.neg.count ≤ 15

/-- R91: in LOADING, and until the first elevation sample after it, both poles are LOWERING. -/
def State.PolesWait (s : State) : Prop :=
  s.pwu.loadPending = true ∨ s.osm.op = .loading → s.pwu.pos.state = .lowering ∧ s.pwu.neg.state = .lowering

/-- LISTENING, ACTIVE, PATTERN, PARKED and DORMANT: the states of a station that runs on its image (Table 11-2). -/
def OpState.runs (o : OpState) : Bool := o.serves || o == .dormant

/-- R195 check 4, R198: a station that runs on its image bears the console station's number only in the role CONSOLE, and in
ACTIVE the key is on or the applied draw is above 0: at the first moment at which neither holds it is PARKED. -/
def State.ActiveOk (s : State) : Prop :=
  (s.osm.op.runs = true → s.osm.number = s.settings.consoleStation → s.osm.role = .console) ∧
  (s.osm.op = .active → s.keyOn = true ∨ 0 < s.ae.draw)

/-- R155 to R158, R148: past LOADING, at a station that runs on its image, the signals are those the rules form from the
present state, each term is true where it has a literal and all its literals hold, an output is true where some true term
maps to it, and a present channel is INHIBITED exactly while an output reaches it. The own entry shows the own role, or no
part (R6, R4). -/
def State.InterlockOk (s : State) : Prop :=
  s.osm.op.runs = true →
    (∀ b, s.osm.number ≠ 0 → (s.entry s.osm.number).beacon = some b →
      b.part.role = s.osm.role ∨ b.part = .auxiliary) ∧
    s.ia.signals = s.formSignals ∧
    s.ia.terms = s.settings.terms.toList.map (fun t => !t.literals.isEmpty &&
      t.literals.all (fun l => s.formSignals.getD l.signal false != l.negated)) ∧
    (∀ f ∈ [Inhibits.station, Inhibits.chan0, Inhibits.chan1, Inhibits.chan2, Inhibits.chan3],
      f s.ia.outputs = true ↔ ∃ t ∈ s.settings.terms.toList, f t.map = true ∧ t.literals ≠ [] ∧
        ∀ l ∈ t.literals, s.formSignals.getD l.signal false ≠ l.negated) ∧
    ∀ c, (s.record c).present = true → ((s.chan c).state = .inhibited ↔ s.ia.outputs.reaches c = true)

/-- R66: the pull of a pole is on. -/
def State.PullOn (s : State) (p : Pole) : Prop :=
  (s.osm.role = .pole ∨ s.osm.op = .loading) ∧
    (s.pole p).state ∈ [PoleState.stowed, .dewired, .retrieving, .lowering, .lockedOut]

/-- R149: the output of a channel is on. -/
def State.ChannelOn (s : State) (c : Fin 4) : Prop :=
  (s.record c).present = true ∧ (s.osm.op = .listening ∨ s.osm.op = .active ∨ s.osm.op = .parked) ∧
    ((s.record c).kind = .modulated ∧
        ((s.chan c).state.running = true ∧ inWindow c ((s.chan c).winDuty + (s.chan c).winSink) s.lcm.slot = true ∨
          (s.chan c).state = .off ∧ (s.record c).sink = true ∧ inWindow c (s.chan c).winSink s.lcm.slot = true) ∨
      (s.record c).kind = .converter ∧ ((s.chan c).state.running = true ∨ (s.chan c).state ≠ .inhibited ∧
        (s.osm.role = .traction ∧ 0 < s.ae.regen ∨ s.osm.role = .battery ∧ 0 < s.lcm.batteryPart)) ∨
      (s.record c).kind ≠ .modulated ∧ (s.record c).kind ≠ .converter ∧ (s.chan c).state.running = true)

/-- R174: the lamp of a severity is on: an entry of it is in the table, and with one unacknowledged it follows the flash
clock. -/
def State.LampOn (s : State) (v : Severity) : Prop :=
  s.lampsOn = true ∧ (∃ e ∈ s.au.entries, e.severity = v) ∧
    ((∃ e ∈ s.au.entries, e.severity = v ∧ e.unack = true) → s.cf.flashOn = true)

/-- R44, R62: the draw setpoint. A running CONVERTER channel takes what the other channels' currents leave of the applied draw,
up to its demand; every other converter, and a station without one, takes 0. The battery part is added at the battery station. -/
def State.DrawsSetpoint (s : State) (n : Nat) : Prop :=
  let part := if s.osm.role = .battery then s.lcm.batteryPart else 0
  let others := ((channelNumbers.filter (fun d => (s.record d).kind != .converter)).map s.current).sum
  (∀ c, (s.record c).present = true → (s.record c).kind = .converter →
    (∀ d < c, (s.record d).present = true → (s.record d).kind ≠ .converter) →
      n = part + if (s.chan c).state.running = true then min (s.ae.draw - others) (s.chan c).request else 0) ∧
  ((∀ c, (s.record c).present = true → (s.record c).kind ≠ .converter) → n = part)

/-- R66, R149, R174, R200: the pins stand as the state gives them. R44, R45: so does the setpoint output's duty for its next
pulse period. -/
def State.OutOk (s : State) : Prop :=
  (∀ n, s.DrawsSetpoint n → s.ae.setpoint =
    if s.osm.op = .loading ∨ s.osm.op = .maintenance ∨ s.osm.op = .faulted ∨ s.osm.op = .dormant then 512
    else if s.osm.role = .traction ∧ 0 < s.ae.regenRequest then 512 - 512 * s.ae.regen / 400
    else min 1023 (512 + 512 * n / 400)) ∧
  (s.out.pullPos = true ↔ s.PullOn .pos) ∧ (s.out.pullNeg = true ↔ s.PullOn .neg) ∧
  (∀ c : Fin 4, s.out.chan[c] = true ↔ s.ChannelOn c) ∧
  (s.out.criticalLamp = true ↔ s.LampOn .critical) ∧ (s.out.warningLamp = true ↔ s.LampOn .warning) ∧
  (s.out.overflowLamp = true ↔ s.lampsOn = true ∧ s.au.overflow = true) ∧
  (s.out.buzzer = true ↔ s.lampsOn = true ∧
    ∃ e ∈ s.au.entries, e.severity ≠ .advisory ∧ e.state = .activeUnack) ∧
  (s.out.wakeReq = true ↔ (s.osm.op = .parked ∨ s.osm.op = .dormant) ∧
    ((∃ c, (s.record c).present = true ∧ (s.chan c).critical = true) ∨
      ∃ e ∈ s.au.entries, s.ownAlarm e = true ∧ e.severity = .critical ∧ e.state ≠ .clearedUnack))

/-- R130: at the console of a station that runs on its image, the DRIVER cut is held exactly while the emergency current-off
input is active. -/
def State.DriverSettled (s : State) : Prop :=
  s.osm.role = .console → s.osm.op.runs = true → s.din 8 = s.holdsCut .driver

/-- The load channels have nothing to do: no inhibit stands or is due, every request is the one its source gives and every
duty is within it (R137, R146, R148). -/
def State.LoadsSettled (s : State) : Prop :=
  s.evaluated.outputs = noInhibits ∧
  ∀ c : Fin 4, (s.chan c).state ≠ .inhibited ∧ s.wantedRequest c = (s.chan c).request ∧
    ((s.chan c).request ≠ 0 → (s.chan c).duty ≤ (s.chan c).effective)

/-- R137, R146, R150: the currents of the channels other than the converter lie within the applied draw; every request is the
one its source gives; a duty is held by a running MODULATED channel alone, within its request. In LOADING, and where it is
absent, a channel is OFF. -/
def State.LoadsOk (s : State) : Prop :=
  s.load ≤ s.ae.draw ∧
  ∀ c : Fin 4, (s.chan c).request = s.wantedRequest c ∧
    ((s.chan c).request ≠ 0 → (s.chan c).duty ≤ (s.chan c).effective) ∧
    ((s.chan c).state.running = false ∨ (s.record c).kind ≠ .modulated → (s.chan c).duty = 0) ∧
    (s.osm.op = .loading ∨ (s.record c).present = false → (s.chan c).state = .off)

/-- R89, Table 4-6: the source mode of a line state, with the battery station's entry as the state's table has it. -/
def State.modeAt (s : State) (l : LineState) : SourceMode :=
  match l with
  | .live => .wire
  | .gap => .gap
  | .out => if 0 < (batteryRecordOf s.pvt).1 then .battery else .none
  | .isOpen => if 0 < (batteryRecordOf s.pvt).1 then .battery else .none

/-- R90: a change of the source mode from BATTERY to WIRE, or from WIRE or GAP to BATTERY. -/
def SourceCuts (a b : SourceMode) : Prop :=
  (a = .battery ∧ b = .wire) ∨ ((a = .wire ∨ a = .gap) ∧ b = .battery)

/-- R89, R90: from a state to the next the published source mode follows the line state, by way of a mode `m`; a change for which
R90 has a cut starts the source-change timer from 0, no other change touches it, and the SOURCE_CHANGE cut is held while it
runs. -/
def State.SourceFollows (s t : State) (m : SourceMode) : Prop :=
  t.pwu.source = s.modeAt t.pwu.line ∧
  (SourceCuts s.pwu.source m ∨ SourceCuts m t.pwu.source → t.pwu.sourceTimer = some 0) ∧
  (¬ SourceCuts s.pwu.source m → ¬ SourceCuts m t.pwu.source → t.pwu.sourceTimer = s.pwu.sourceTimer) ∧
  t.holdsCut .sourceChange = t.pwu.sourceTimer.isSome

/-- R145: a channel asks to run, its min-off has elapsed, the start-spacing timer allows a start, and it fits the room that the
load leaves under the applied draw. -/
def State.CanStart (s : State) (c : Fin 4) : Prop :=
  (s.record c).present = true ∧ (s.chan c).request ≠ 0 ∧ 1000 * (s.record c).minOff ≤ (s.chan c).minOff ∧
  200 ≤ s.lcm.spacing ∧
    (match (s.record c).kind with
      | .switched => (s.record c).rated
      | .timed => (s.record c).rated
      | .modulated => (s.record c).rated / 8
      | .converter => 1) ≤ s.ae.draw - s.load

/-- R145: from a state to the next a channel enters STARTING, at the largest duty that the room allows if it is MODULATED, and
no other channel changes its state. -/
def State.StartsOne (s t : State) (c : Fin 4) : Prop :=
  (t.chan c).state = .starting ∧ (t.chan c).minOn = 0 ∧ (t.chan c).shedPos = none ∧
  t.lcm.spacing = 0 ∧ t.lcm.spacingRuns = true ∧
  ((s.record c).kind = .modulated → (t.chan c).duty ≤ (s.chan c).effective ∧
    (s.record c).rated * (t.chan c).duty / 8 ≤ s.ae.draw - s.load ∧
    ∀ d ≤ (s.chan c).effective, (s.record c).rated * d / 8 ≤ s.ae.draw - s.load → d ≤ (t.chan c).duty) ∧
  ∀ d, d ≠ c → (t.chan d).state = (s.chan d).state

/-- From a state to the next the phase stays, but that RESTORING ends where no channel of the restoration set is left on the
shed list (R127). -/
def State.phaseStays (s t : State) : Prop :=
  (s.cc.phase ≠ .restoring → t.cc.phase = s.cc.phase) ∧
  (s.cc.phase = .restoring → t.osm.op = s.osm.op →
    t.cc.phase = if s.cc.restSet.any (fun p => t.onList p.channel) then .restoring else .none)

/-- The station works in ACTIVE with the key on and no forcing condition (R42, R198). -/
def State.Working (s : State) : Prop :=
  s.osm.op = .active ∧ s.keyOn = true ∧ s.forced = false

/-- Nothing of the station moves by itself: the load channels have nothing to do, no forcing condition has still to act and
no move of the operating state is due. -/
def State.Calm (s : State) : Prop :=
  s.DriverSettled ∧ s.LoadsSettled ∧ (s.forced = true → s.ae.draw = 0 ∧ s.inForce .sinkShort 0 = false) ∧
  s.autoMove.osm.op = s.osm.op

/-- R168: the own entry that a record of an ACK_ALARMS names, of its kind, qualifier and count. -/
def State.named (s : State) (r : AckRecord) (e : AlarmEntry) : Bool :=
  s.ownAlarm e && alarmKindOfCode r.kind.toNat == some e.kind && e.qualifier == r.qualifier.toNat &&
    e.count == r.count.toNat

/-- R37: the extras of a class among the counted claims. -/
def extrasOf (cs : List CountedClaim) (k : Nat) : Nat := ((cs.filter (fun c => c.claim.cls == k)).map CountedClaim.extra).sum

/-- R37: what the classes above a class leave of the remainder W. -/
def roomOf (u : Nat) (cs : List CountedClaim) (k : Nat) : Nat :=
  u - floorSum cs - ((List.range k).map (extrasOf cs)).sum

/-- 11 Table 11-2: the moves of the operating state a command other than COLD_RESET can make. -/
def opMoves : OpState → List OpState
  | .loading => [.maintenance, .faulted, .listening]
  | .maintenance => []
  | .faulted => []
  | .listening => [.active, .parked]
  | .active => [.parked, .pattern]
  | .pattern => [.listening]
  | .parked => [.listening, .dormant]
  | .dormant => [.listening]

/-- What a receiver reads from a frame a station n sends for a message (R185, R187). -/
def Message.heard (n : Nat) : Message → Received
  | .beacon b => .beacon n b
  | .pattern k => .pattern n (patternBytes k)
  | .cut o c k => .cut n o (some c) k
  | .release o c k => .release n o (some c) k
  | .command t k kind => .command n n t k kind

/-- A beacon whose fields lie in the widths of R187 and whose lists in the bounds of Table 1-2. -/
def Beacon.Sendable (b : Beacon) : Prop :=
  b.sequence < 256 ∧ b.paramSet < 65536 ∧ b.period < 256 ∧ b.draw < 65536 ∧ b.regenRequest < 65536 ∧
  b.regen < 65536 ∧ b.sink < 65536 ∧
  (∀ r, b.lastResult = some r → r.1 < 256 ∧ r.2 < 256) ∧
  b.claims.length ≤ 4 ∧ (∀ c ∈ b.claims, c.cls ≤ 3 ∧ c.demand < 65536 ∧ c.floor < 65536) ∧
  b.cuts.length ≤ 8 ∧ (∀ c ∈ b.cuts, c.number < 256) ∧
  b.alarms.length ≤ 8 ∧ (∀ r ∈ b.alarms, r.qualifier < 256 ∧ r.count < 256) ∧
  (match b.part with
    | .traction v => v < 65536
    | .auxiliary => True
    | .battery d a => d < 65536 ∧ a < 65536
    | .pole p => p.voltage < 65536 ∧ p.posCount < 256 ∧ p.negCount < 256
    | .console c => c.heat < 256)

/-- A message whose fields lie in the widths of R187 and Table 10-3. -/
def Message.Sendable : Message → Prop
  | .beacon b => b.Sendable
  | .pattern _ => True
  | .cut o _ k => o < 256 ∧ k < 256
  | .release o _ k => o < 256 ∧ k < 256
  | .command t k kind => t ≤ 15 ∧ k < 256 ∧
      (match kind with
        | .ackAlarms rs => 1 ≤ rs.length ∧ rs.length ≤ 8
        | _ => True)

/-- The row of a command's kind (Table 10-3). -/
def CommandKind.row (number : Byte) : CommandKind → Instr
  | .raisePoles => .raisePoles number
  | .lowerPoles => .lowerPoles number
  | .clearLockout p => .clearLockout number p
  | .ackAlarms rs => .ackAlarms number rs
  | .patternOn => .patternOn number
  | .patternOff => .patternOff number

/-- A command of a kind is judged by the station: its own row, or a COMMAND frame that passes the checks, bears another
station's number and is taken (R84, R188). -/
def State.takes (s : State) (c : Instr) (kind : CommandKind) : Prop :=
  (∃ k, c = kind.row k) ∨ ∃ f n g k, c = .commandReceived f ∧ f.kind = 3 ∧ checkFrame f = some (.command n n g k kind) ∧
    s.isOwn n = false ∧ (s.isOwn g = true ∨ (g = 0 ∧ (kind.isPole = true → s.osm.role = .pole)))

/-- Two entries agree but for the effective period, which a move into or out of PARKED works out anew (R8). -/
def Entry.agrees (a b : Entry) : Prop :=
  a.state = b.state ∧ a.age = b.age ∧ a.phantom = b.phantom ∧ a.causes = b.causes ∧ a.beacon = b.beacon

end Sys2Proof.Machine
end

