-- ==== Sys2Proof/WellFormed.lean ====
section
/-! DEFINITION. WellFormed.lean: which operands of a command the line, the pins and the timers can bring.
`exec` is total on every operand; this check says which of them stand for an event of the spec. -/

namespace Sys2Proof

/-- R181: a frame whose payload holds as many bytes as its length field says, at most 96. -/
def Frame.wf (f : Frame) : Bool :=
  f.payload.length == f.length.toNat && decide (f.payload.length ≤ 96)

/-- Table 1-1 of 01: a station number 1 to 15. -/
def stationWf (n : Fin 16) : Bool := decide (n ≠ 0)

/-- Which commands stand for an event of the spec: a frame of the row's kind with its length, a station number 1 to 15,
1 to 8 acknowledgement records (R168). -/
def Instr.wf : Instr → Bool
  | .coldReset => true
  | .loadingEnd _ => true
  | .analogSample _ => true
  | .digitalInputChange _ _ => true
  | .wakeInput => true
  | .wakeByFrame p => decide (p.toNat ≤ 1)
  | .beaconReceived f => f.wf && f.kind == 0
  | .patternReceived f => f.wf && f.kind == 4
  | .patternSilenceTimeout n => stationWf n
  | .cutReceived f => f.wf && f.kind == 1
  | .releaseReceived f => f.wf && f.kind == 2
  | .restorationOffsetExpiry => true
  | .commandReceived f => f.wf && f.kind == 3
  | .raisePoles _ => true
  | .lowerPoles _ => true
  | .clearLockout _ _ => true
  | .ackAlarms _ rs => decide (1 ≤ rs.length ∧ rs.length ≤ 8)
  | .patternOn _ => true
  | .patternOff _ => true
  | .entryStale n => stationWf n
  | .entryPhantom n => stationWf n
  | .phantomHoldExpiry n => stationWf n
  | .allotmentEventPeriodic => true
  | .allotmentComputationEnd => true
  | .poleHookTimeout _ => true
  | .raiseTimeout => true
  | .drainTimeout => true
  | .retrieveTimeout _ => true
  | .forgivenessExpiry _ => true
  | .gapTimeout => true
  | .sourceChangeTimeout => true
  | .trackingStep => true
  | .suspectExpiry _ => true
  | .bounceExpiry _ => true
  | .startSpacingExpiry => true
  | .startingComplete _ => true
  | .minOnElapsed _ => true
  | .minOffElapsed _ => true
  | .cycleComplete _ => true
  | .carrierSlotBoundary => true
  | .specialWorkTailExpiry => true
  | .transmitStart => true
  | .arbitrationLost => true
  | .transmitAbort => true
  | .transmitComplete => true
  | .listenInExpiry => true
  | .dormancyExpiry => true
  | .readImage => true
  | .readBusy => true
  | .readSnapshot => true
  | .writePage _ _ _ => true
  | .pageWriteComplete => true
  | .flashClockPhase => true
  | .setpointPulsePeriodStart => true

end Sys2Proof
end

