-- ==== Sys2Proof/Certificates/Slice0/Obligations.lean ====
section
/-! DEFINITION. Obligations.lean: the statements for the provers. -/

open Sys2Proof Sys2Proof.Machine

/-- Each step takes the command at the front of the queue and gives it its effect on the rest of the state (00 section 2,
spec/95: each step is whole). -/
def Obligations.StepTakesFront : Prop :=
  ∀ (c : Instr) (rest : List Instr) (s : State), step (s.withPending (c :: rest)) = exec c (s.withPending rest)

/-- On an empty queue 1 ms passes (the model's choice, log entry 1): the uptime and the ages of the entries that are not
EMPTY count up (R7), and the outputs, the cut set, the draw, the image and the settled values stay. -/
def Obligations.IdleStepIsOneMillisecond : Prop :=
  ∀ s : State, s.pending = [] → ∃ t, step s = .next t ∧ t.pending = [] ∧ t.osm.uptime = s.osm.uptime + 1 ∧
    t.osm.op = s.osm.op ∧ t.out = s.out ∧ t.cc.cuts = s.cc.cuts ∧ t.ae.draw = s.ae.draw ∧
    t.cs.image = s.cs.image ∧ t.settings = s.settings ∧
    t.cs.write = s.cs.write.map (fun w => { w with elapsed := min 5 (w.elapsed + 1) }) ∧
    ∀ n : Nat, 1 ≤ n → n ≤ 15 → (t.entry n).state = (s.entry n).state ∧
      (t.entry n).age = if (s.entry n).state = .empty then (s.entry n).age else min 15001 ((s.entry n).age + 1)

/-- What cold reset leaves (R17, R46, R64, R91, R131, R152, R162, R179, R183, R184, R186, R188): the values the chapters
state for it. -/
def Obligations.ResetValues : Prop :=
  State.reset.osm.op = .loading ∧ (∀ n, (State.reset.entry n).state = .empty ∧ (State.reset.entry n).beacon = none) ∧
  State.reset.ae.draw = 0 ∧ State.reset.ae.grant = 0 ∧ State.reset.ae.grants = [] ∧ State.reset.ae.hot = false ∧
  State.reset.ae.regen = 0 ∧ State.reset.ae.regenRequest = 0 ∧ State.reset.ae.share = 0 ∧
  State.reset.ae.setpoint = 512 ∧ State.reset.ae.setpointOut = 512 ∧
  State.reset.cc.cuts = [] ∧ State.reset.cc.phase = .none ∧ State.reset.cc.counter = 0 ∧
  (∀ c, (State.reset.chan c).state = .off ∧ (State.reset.chan c).minOff = 60000) ∧ State.reset.lcm.spacing = 200 ∧
  State.reset.pwu.pos.state = .lowering ∧ State.reset.pwu.neg.state = .lowering ∧ State.reset.pwu.line = .isOpen ∧
  State.reset.pwu.source = .none ∧ State.reset.out.pullPos = true ∧ State.reset.out.pullNeg = true ∧
  State.reset.ia.outputs = noInhibits ∧ State.reset.ia.heldKey = false ∧
  State.reset.au.entries = [] ∧ State.reset.au.overflow = false ∧ State.reset.au.nextSeq = 0 ∧
  State.reset.cf.commandCounter = 0 ∧ State.reset.cf.special = false ∧
  State.reset.bus.sequence = 0 ∧ State.reset.bus.lastResult = none ∧ State.reset.bus.duplicate = false ∧
  State.reset.bus.beaconSlot = none ∧ State.reset.bus.urgentSlots = [] ∧ State.reset.bus.commandSlots = []

/-- COLD_RESET (R195, R202): every block takes its cold-reset values; the mark stays as stored, the busy flag clears and the
outcome is NONE; the image stays but for the page of a write it interrupts, whose content is open. The role, the number and the
settled values before LOADING's end, and the readings before a first sample, are the model's choice (log entries 4, 5, 10), and so
are the half of the flash clock, the snapshot's other own quantities, Pe of the EMPTY entries and the back-off (log entries 34, 66,
88, 90). -/
def Obligations.ColdResetLeavesOnlyTheImage : Prop :=
  ∀ s : State, ∃ t, exec .coldReset s = .next t ∧
    t.osm = State.reset.osm ∧ t.settings = State.reset.settings ∧ t.su = State.reset.su ∧ t.pvt = State.reset.pvt ∧
    t.ae = State.reset.ae ∧ t.cc = State.reset.cc ∧ t.lcm = State.reset.lcm ∧ t.pwu = State.reset.pwu ∧
    t.ia = State.reset.ia ∧ t.au = State.reset.au ∧ t.cf = State.reset.cf ∧ t.bus = State.reset.bus ∧
    t.out = State.reset.out ∧ t.pending = s.pending ∧
    t.cs.write = none ∧ t.cs.mark = s.cs.mark ∧ t.cs.outcome = .none ∧
    ∀ a, (∀ w, s.cs.write = some w → ¬ (16 * w.page.val ≤ a ∧ a < 16 * w.page.val + 16)) →
      t.cs.image.read a = s.cs.image.read a

/-- Every invariant stated below holds after cold reset. -/
def Obligations.ResetMeetsTheInvariants : Prop :=
  State.reset.cs.image.wf = true ∧ State.reset.CutsOk ∧ State.reset.PlacedOk ∧ State.reset.ForcedOk ∧
  State.reset.DrawOk ∧ State.reset.ActiveOk ∧ State.reset.InterlockOk ∧ State.reset.OutOk ∧ State.reset.QueuesOk ∧
  State.reset.AlarmsOk ∧ State.reset.RangesOk ∧ State.reset.PolesWait ∧ State.reset.DriverSettled ∧
  State.reset.LoadsOk ∧ State.reset.LoadsSettled

/-- Every step keeps the canonical form of the image store (R194: 256 bytes; the form is the model's, INVENTORY). -/
def Obligations.StepKeepsImageForm : Prop :=
  ∀ s t : State, s.cs.image.wf = true → step s = .next t → t.cs.image.wf = true

/-- Every step keeps the cut set within 8 entries, one for each origin and cause, and the phase HELD exactly while it is
non-empty (R115, R124, R125). -/
def Obligations.StepKeepsCutSet : Prop := ∀ s t : State, s.CutsOk → step s = .next t → t.CutsOk

/-- Every step keeps the applied draw, the applied regen and the share at 0 while a forcing condition holds (R42, R56,
R60). -/
def Obligations.StepKeepsForcedZero : Prop :=
  ∀ s t : State, s.PlacedOk → s.ForcedOk → step s = .next t → t.PlacedOk ∧ t.ForcedOk

/-- Every step keeps the applied draw within the own grant and the station maximum, and the applied regen within the regen
request (R39, R42, R56). -/
def Obligations.StepKeepsDrawWithinGrant : Prop := ∀ s t : State, s.DrawOk → step s = .next t → t.DrawOk

/-- Every step keeps the transmit queue within its slots (R183). -/
def Obligations.StepKeepsQueueBounds : Prop := ∀ s t : State, s.QueuesOk → step s = .next t → t.QueuesOk

/-- Every step keeps the alarm table within 16 entries, 8 of them own, one for each kind, source and qualifier (R164,
R166, R170, R172). -/
def Obligations.StepKeepsAlarmTable : Prop := ∀ s t : State, s.AlarmsOk → step s = .next t → t.AlarmsOk

/-- Every step keeps the counters and numbers in their ranges (R45, R81, R117, R149, R176, R177, R182, R184). -/
def Obligations.StepKeepsRanges : Prop := ∀ s t : State, s.RangesOk → step s = .next t → t.RangesOk

/-- Every step keeps both poles LOWERING in LOADING and until the first sample after LOADING (R91). -/
def Obligations.StepKeepsPolesWaiting : Prop := ∀ s t : State, s.PolesWait → step s = .next t → t.PolesWait

/-- R181, R185, R187: a frame a station sends for a message passes every check at a receiver, which reads the message
back from it: no field is dropped. -/
def Obligations.FramesRoundTrip : Prop :=
  ∀ (n : Nat) (m : Message), 1 ≤ n → n ≤ 15 → m.Sendable → checkFrame (encode n m) = some (m.heard n)

/-- R40, R41, R43, R55: the applied draw and the applied regen rise at the end of a periodic computation alone, by at most
the step K. -/
def Obligations.CurrentsRiseOnlyPeriodically : Prop :=
  ∀ (c : Instr) (s t : State), exec c s = .next t → s.ae.draw < t.ae.draw ∨ s.ae.regen < t.ae.regen →
    c = .allotmentComputationEnd ∧ s.ae.computing = some .periodic ∧
      t.ae.draw ≤ s.ae.draw + s.settings.step ∧ t.ae.regen ≤ s.ae.regen + s.settings.step

/-- R190, R195, R197, R198, R199: the operating state moves as Table 11-2 gives; MAINTENANCE and FAULTED are left by cold
reset alone, LOADING by LOADING_END or cold reset, and ACTIVE never into LISTENING. The invariant it rests on is kept: in
ACTIVE the key is on or the applied draw is above 0 (R198), and a station that runs on its image bears the console station's
number only in the role CONSOLE (R195 check 4). -/
def Obligations.OperatingStateMoves : Prop :=
  ∀ (c : Instr) (s t : State), s.ActiveOk → exec c s = .next t →
    t.ActiveOk ∧ (c ≠ .coldReset → t.osm.op ≠ s.osm.op → t.osm.op ∈ opMoves s.osm.op) ∧
    (s.osm.op = .loading → t.osm.op ≠ .loading → ∃ x, c = .loadingEnd x)

/-- R69, R83, R188: a pole leaves LOCKED_OUT only by COLD_RESET or by a CLEAR_LOCKOUT that names it, judged at the pole
station in ACTIVE at standstill, and a pole enters RAISING only by a RAISE_POLES judged there with both poles STOWED; the
command comes as its own row or in a COMMAND frame that carries it and is taken. -/
def Obligations.PolesRiseOnlyByCommand : Prop :=
  ∀ (c : Instr) (s t : State) (p : Pole), s.PolesWait → exec c s = .next t → c ≠ .coldReset →
    ((s.pole p).state = .lockedOut → (t.pole p).state ≠ .lockedOut →
      s.osm.role = .pole ∧ s.osm.op = .active ∧ s.standstill = true ∧
        ∃ a ps, s.takes c (.clearLockout a) ∧ polesNamed a.toNat = some ps ∧ p ∈ ps) ∧
    ((s.pole p).state ≠ .raising → (t.pole p).state = .raising →
      s.osm.role = .pole ∧ s.osm.op = .active ∧ s.pwu.pos.state = .stowed ∧ s.pwu.neg.state = .stowed ∧
        s.takes c .raisePoles)

/-- R194, R195, R196, R202: every command but COLD_RESET and PAGE_WRITE_COMPLETE leaves every byte of the image as it was,
every command but COLD_RESET and LOADING_END leaves the settled values, the role, the number and the uptime, and no command
touches the queue of those that wait. -/
def Obligations.ImageAndSettingsFrame : Prop :=
  ∀ (c : Instr) (s t : State), exec c s = .next t → t.pending = s.pending ∧
    (c ≠ .coldReset → c ≠ .pageWriteComplete → ∀ a, t.cs.image.read a = s.cs.image.read a) ∧
    (c ≠ .coldReset → (∀ x, c ≠ .loadingEnd x) →
      t.settings = s.settings ∧ t.osm.role = s.osm.role ∧ t.osm.number = s.osm.number ∧ t.osm.uptime = s.osm.uptime)

/-- R65, R201: the readings, the filtered inputs and the answer of the maintenance port change by the commands that bring
them alone; an answer is kept until the next transaction (the model's choice, log entry 35). -/
def Obligations.InputAndPortFrame : Prop :=
  ∀ (c : Instr) (s t : State), exec c s = .next t → c ≠ .coldReset →
    ((∀ x, c ≠ .analogSample x) → t.su.ain = s.su.ain) ∧
    ((∀ i l, c ≠ .digitalInputChange i l) → t.su.din = s.su.din) ∧
    (c ≠ .readImage → c ≠ .readBusy → c ≠ .readSnapshot → (∀ p b w, c ≠ .writePage p b w) →
      t.port = s.port ∧ (c ≠ .pageWriteComplete → t.cs = s.cs))

/-- R39, R82, R83, R96, R97, R107, R138, R139, R176, R177, R186, R188: what is held is changed by the commands that change
it alone: the grants, the last command result, the duplicate flag, a pole's wire-height reference and dewire count, a
channel's cap and pressure flags, the heat duty and the command counter. -/
def Obligations.HeldValuesFrame : Prop :=
  ∀ (c : Instr) (s t : State), exec c s = .next t → c ≠ .coldReset →
    (c ≠ .allotmentComputationEnd → c ≠ .dormancyExpiry → t.ae.grants = s.ae.grants ∧ t.ae.grant = s.ae.grant) ∧
    ((∀ f, c ≠ .commandReceived f) → (∀ k, c ≠ .raisePoles k) → (∀ k, c ≠ .lowerPoles k) → (∀ k a, c ≠ .clearLockout k a) →
      (∀ k rs, c ≠ .ackAlarms k rs) → (∀ k, c ≠ .patternOn k) → (∀ k, c ≠ .patternOff k) →
      (∀ i l, c ≠ .digitalInputChange i l) → t.bus.lastResult = s.bus.lastResult) ∧
    (t.bus.duplicate = true → s.bus.duplicate = true ∨ (∃ f, c = .beaconReceived f ∨ c = .patternReceived f ∨
      c = .cutReceived f ∨ c = .releaseReceived f ∨ c = .commandReceived f)) ∧
    (s.bus.duplicate = true → t.bus.duplicate = true) ∧
    (c ≠ .trackingStep → (∀ x, c ≠ .analogSample x) → ∀ p, (t.pole p).height = (s.pole p).height) ∧
    ((∀ p, c ≠ .suspectExpiry p) → (∀ p, c ≠ .forgivenessExpiry p) → (∀ k a, c ≠ .clearLockout k a) →
      (∀ f, c ≠ .commandReceived f) → ∀ p, (t.pole p).count = (s.pole p).count) ∧
    ((∀ x, c ≠ .analogSample x) → t.cf.heat = s.cf.heat ∧
      (c ≠ .dormancyExpiry → ∀ k, (t.chan k).cap = (s.chan k).cap ∧ (t.chan k).requesting = (s.chan k).requesting ∧
        (t.chan k).critical = (s.chan k).critical)) ∧
    ((∀ i l, c ≠ .digitalInputChange i l) → t.cf.commandCounter = s.cf.commandCounter)

/-- R28, R50: the two line envelopes at every voltage, the computations that use them on WIRE, their parameters' defaults,
and that a loaded image settles so that no division is by less than 20. Beside them the usable envelopes of every source mode:
the reads of R24, R25 and R26, Table 2-1 of R27 with the special-work cap of R29 and the reserve of R30, and Table 3-1 of R49 with
the reserve alone. -/
def Obligations.LineEnvelopes : Prop :=
  (∀ (c : Settings) (v : Nat), c.vcutLow < c.vkneeLow →
    (c.vkneeLow ≤ v → lineDraw c v = c.imax) ∧ (v ≤ c.vcutLow → lineDraw c v = 0) ∧
    (c.vcutLow < v → v < c.vkneeLow → lineDraw c v = c.imax * (v - c.vcutLow) / (c.vkneeLow - c.vcutLow)) ∧
    lineDraw c v ≤ c.imax ∧ lineDraw c v ≤ lineDraw c (v + 1) ∧
    (0 < c.imax → lineDraw c (c.vkneeLow - 1) < c.imax)) ∧
  (∀ (c : Settings) (v : Nat), c.vkneeHigh < c.vcutHigh →
    (v ≤ c.vkneeHigh → lineRegen c v = c.iregenMax) ∧ (c.vcutHigh ≤ v → lineRegen c v = 0) ∧
    (c.vkneeHigh < v → v < c.vcutHigh →
      lineRegen c v = c.iregenMax * (c.vcutHigh - v) / (c.vcutHigh - c.vkneeHigh)) ∧
    lineRegen c v ≤ c.iregenMax ∧ lineRegen c (v + 1) ≤ lineRegen c v ∧ (c.iregenMax = 0 → lineRegen c v = 0)) ∧
  (∀ (r : Role) (m : Memory),
    50 ≤ (settle r m).imax ∧ (settle r m).imax ≤ 600 ∧ 300 ≤ (settle r m).vcutLow ∧ (settle r m).vcutLow ≤ 600 ∧
    (settle r m).vcutLow + 20 ≤ (settle r m).vkneeLow ∧ (settle r m).vkneeLow ≤ 1023 ∧
    (settle r m).iregenMax ≤ 400 ∧ 600 ≤ (settle r m).vkneeHigh ∧ (settle r m).vkneeHigh ≤ 1000 ∧
    (settle r m).vkneeHigh + 20 ≤ (settle r m).vcutHigh ∧ (settle r m).vcutHigh ≤ 1023) ∧
  (∀ (s : State) (x : Snapshot), s.sourceUsed x = .wire →
    (s.specialUsed x = false → s.drawEnvelope x = lineDraw s.settings (s.voltageUsed x)) ∧
    s.usableRegenOf x = lineRegen s.settings (s.voltageUsed x) - s.settings.reserve) ∧
  (∀ (s : State) (x : Snapshot),
    let heard : Nat → Option Part := fun n => match (entryOf x.entries n).state with
      | .fresh => (entryOf x.entries n).beacon.map Beacon.part
      | .stale => (entryOf x.entries n).beacon.map Beacon.part
      | .phantom => none
      | .empty => none
    let pole : Option PolePart := match heard s.settings.poleStation with
      | some (.pole p) => some p
      | _ => none
    let mode : SourceMode := if s.osm.role = .pole then x.source else match pole with
      | some p => p.source
      | none => .none
    let volt : Nat := if s.osm.role = .pole then x.voltage else match pole with
      | some p => p.voltage
      | none => 0
    let special : Bool := if s.osm.role = .console then x.special else match heard s.settings.consoleStation with
      | some (.console c) => c.special
      | _ => false
    let record : Nat × Nat := if s.osm.role = .battery then (x.discharge, x.accept) else
      match stationNumbers.find? (fun n => (entryOf x.entries n).beacon.any (fun b => b.part.role == .battery)) with
      | some n => if (entryOf x.entries n).state = .fresh then
          (match heard n with
            | some (.battery d a) => (d, a)
            | _ => (0, 0))
        else (0, 0)
      | none => (0, 0)
    (mode = .wire → s.usableDraw x =
      (if special then min (lineDraw s.settings volt) s.settings.isw else lineDraw s.settings volt) - s.settings.reserve ∧
      s.usableRegenOf x = lineRegen s.settings volt - s.settings.reserve) ∧
    (mode = .battery → s.usableDraw x = (if special then min record.1 s.settings.isw else record.1) - s.settings.reserve ∧
      s.usableRegenOf x = record.2 - s.settings.reserve) ∧
    (mode = .gap ∨ mode = .none → s.usableDraw x = 0 ∧ s.usableRegenOf x = 0)) ∧
  (defaultSettings.imax = 500 ∧ defaultSettings.vcutLow = 480 ∧ defaultSettings.vkneeLow = 560 ∧
    defaultSettings.iregenMax = 300 ∧ defaultSettings.vkneeHigh = 820 ∧ defaultSettings.vcutHigh = 900)

/-- R36: the floors alone. With SF ≥ U each grant is floor(F × U / SF), 0 where SF is 0, and what is left of U is less
than the number of claims with a floor; with SF < U each claim receives its floor at least, and the class stage shares
U − SF. -/
def Obligations.FloorsAlone : Prop :=
  ∀ (u : Nat) (cs : List CountedClaim),
    (u ≤ floorSum cs →
      allot u cs = cs.map (fun c => ⟨c, c.claim.floor * u / floorSum cs⟩) ∧
      (floorSum cs = 0 → ∀ g ∈ allot u cs, g.grant = 0) ∧
      (0 < floorSum cs → u - ((allot u cs).map Granted.grant).sum <
        (cs.filter (fun c => c.claim.floor != 0)).length)) ∧
    (floorSum cs < u →
      allot u cs = classGrants (u - floorSum cs) cs ∧ ∀ g ∈ allot u cs, g.counted.claim.floor ≤ g.grant)

/-- R37, R38, R39: the grants of a computation sum to no more than U, and to U when SF < U and the extras of all claims
together are at least U − SF; no claim is granted more than its demand, and every counted claim has its grant. With SF < U
the classes are served in order: a class whose extras fit what the classes above it leave has them whole, one to which
nothing is left has its floors, and one that is covered in part shares in proportion, the leftover dealt 1 A at a time in
the claims' order. -/
def Obligations.GrantsWithinEnvelope : Prop :=
  ∀ (u : Nat) (cs : List CountedClaim),
    (∀ c ∈ cs, c.claim.cls ≤ 3 ∧ c.claim.floor ≤ c.claim.demand) →
    ((allot u cs).map Granted.grant).sum ≤ u ∧
    (floorSum cs < u → u - floorSum cs ≤ (cs.map CountedClaim.extra).sum → ((allot u cs).map Granted.grant).sum = u) ∧
    (∀ g ∈ allot u cs, g.grant ≤ g.counted.claim.demand) ∧
    (allot u cs).map Granted.counted = cs ∧
    (floorSum cs < u →
      (∀ g ∈ allot u cs, ∀ k, g.counted.claim.cls = k →
        (extrasOf cs k ≤ roomOf u cs k → g.grant = g.counted.claim.demand) ∧
        (roomOf u cs k = 0 → g.grant = g.counted.claim.floor) ∧
        (roomOf u cs k < extrasOf cs k →
          g.grant = g.counted.claim.floor + g.counted.extra * roomOf u cs k / extrasOf cs k ∨
            0 < g.counted.extra ∧
              g.grant = g.counted.claim.floor + g.counted.extra * roomOf u cs k / extrasOf cs k + 1)) ∧
      (allot u cs).Pairwise (fun a b => ∀ k, a.counted.claim.cls = k → b.counted.claim.cls = k → 0 < a.counted.extra →
        roomOf u cs k < extrasOf cs k →
        b.grant = b.counted.claim.floor + b.counted.extra * roomOf u cs k / extrasOf cs k + 1 →
        a.grant = a.counted.claim.floor + a.counted.extra * roomOf u cs k / extrasOf cs k + 1))

/-- R59: the excess, and the sink shares of it: none of an excess of 0 or no capacity, every capacity where the excess
reaches the total, else the proportional share with the leftover dealt 1 A at a time in the stations' order; the shares sum
to the smaller of the excess and the total, and none exceeds its capacity. R61, R62: as a computation ends the own share is
placed on the sink-capable channels in order of priority, each up to the capacity it offers then (log entry 53), its sink duty
the part in eighths, rounded up, within the cap less the duty; what is left goes to the battery up to its capacity. -/
def Obligations.SinkSharesOfExcess : Prop :=
  (∀ (k : CompKind) (s : State), s.ae.computing = some k → s.PlacedOk → ∃ t, exec .allotmentComputationEnd s = .next t ∧
    (t.osm.op = s.osm.op →
      (∀ l c m, t.byPriority = l ++ c :: m →
        (t.chan c).placed = (if t.isSink c then min (t.ae.share - (l.map (fun d => (t.chan d).placed)).sum)
          ((t.record c).rated * t.sinkCap c / 8 - (t.record c).rated * (t.chan c).duty / 8) else 0) ∧
        (t.chan c).sinkDuty = (if t.isSink c then min (((t.chan c).placed * 8 + (t.record c).rated - 1) / (t.record c).rated)
          (t.sinkCap c - (t.chan c).duty) else 0)) ∧
      t.lcm.batteryPart =
        min (t.ae.share - (t.byPriority.map (fun d => (t.chan d).placed)).sum) t.batteryCapacity)) ∧
  (∀ s : State, s.computeShares.ae.excess =
      s.regenUsed s.ae.snapshot - (s.absorptionOf s.ae.snapshot + s.usableRegenOf s.ae.snapshot) ∧
    s.computeShares.ae.shares = sinkShares s.computeShares.ae.excess (s.sinkStations s.ae.snapshot) ∧
    (s.computesZero = false → s.computeShares.ae.share = s.ownShare s.computeShares.ae.shares) ∧
    ∀ k ∈ s.sinkStations s.ae.snapshot, 0 < k.capacity) ∧
  ∀ (x : Nat) (ks : List SinkShare),
    (x = 0 ∨ totalSink ks = 0 → ∀ k ∈ sinkShares x ks, k.share = 0) ∧
    (0 < totalSink ks → totalSink ks ≤ x → ∀ k ∈ sinkShares x ks, k.share = k.capacity) ∧
    (0 < x → x < totalSink ks → (∀ k ∈ ks, 0 < k.capacity) →
      sinkShares x ks = ks.zipIdx.map (fun p => { p.1 with share := x * p.1.capacity / totalSink ks +
        if p.2 < x - (ks.map (fun k => x * k.capacity / totalSink ks)).sum then 1 else 0 }) ∧
      x - (ks.map (fun k => x * k.capacity / totalSink ks)).sum < ks.length ∧
      ∀ k ∈ ks, x * k.capacity / totalSink ks < k.capacity) ∧
    ((sinkShares x ks).map SinkShare.share).sum = min x (totalSink ks) ∧
    (∀ k ∈ sinkShares x ks, k.share ≤ k.capacity) ∧
    (sinkShares x ks).map (fun k => (k.station, k.capacity)) = ks.map (fun k => (k.station, k.capacity))

/-- R45: SETPOINT_PULSE_PERIOD_START puts the duty worked out into effect and changes nothing else; the duty of a
direction and setpoint, its clamp, and 512 after cold reset and in LOADING, MAINTENANCE, FAULTED and DORMANT. R44: the draw
setpoint is what the other channels' currents leave of the applied draw, up to the demand of a running CONVERTER channel, else 0,
with the battery part of R62 at the battery station; the regen direction goes before it at the traction station with Q above 0.
That the duty held follows these at every step is part of StepKeepsInterlockAndOutputs. -/
def Obligations.SetpointPulse : Prop :=
  (∀ s : State, ∃ t, exec .setpointPulsePeriodStart s = .next t ∧ t.ae.setpointOut = s.ae.setpoint ∧
    t = s.withAe { s.ae with setpointOut := s.ae.setpoint }) ∧
  (∀ a, drawDuty a = min 1023 (512 + 512 * a / 400) ∧ drawDuty a ≤ 1023 ∧ regenDuty a = 512 - 512 * a / 400) ∧
  drawDuty 0 = 512 ∧ regenDuty 0 = 512 ∧ drawDuty 400 = 1023 ∧ regenDuty 400 = 0 ∧
  State.reset.ae.setpointOut = 512 ∧ State.reset.ae.setpoint = 512 ∧
  (∀ s : State, s.setpointDuty =
    if s.osm.op = .loading ∨ s.osm.op = .maintenance ∨ s.osm.op = .faulted ∨ s.osm.op = .dormant then 512
    else if s.osm.role = .traction ∧ 0 < s.ae.regenRequest then regenDuty s.ae.regen
    else drawDuty s.drawSetpoint) ∧
  ∀ s : State, s.DrawsSetpoint s.drawSetpoint

/-- R31, R33, R34: an own claim as it is published: the derate halves its extra while HOT, the duplicate flag brings its
demand to its floor; the list is empty in PATTERN and FAULTED. -/
def Obligations.ClaimsPublished : Prop :=
  ∀ s : State,
    (s.osm.op = .pattern ∨ s.osm.op = .faulted → s.publishedClaims = []) ∧
    (s.osm.op = .listening ∨ s.osm.op = .active ∨ s.osm.op = .parked →
      (∀ c ∈ s.lcm.claims, c.floor ≤ c.demand ∧ c.demand ≤ 400) →
      s.publishedClaims = s.lcm.claims.map (fun c => ⟨c.cls,
        if s.bus.duplicate then c.floor else if s.ae.hot then c.floor + (c.demand - c.floor) / 2 else c.demand,
        c.floor⟩))

/-- LOADING_END (R195, R196, R197): the straps give role and number, and the checks in order give MAINTENANCE, FAULTED with
CONFIG_FAULT in force, or LISTENING on the settled image with the listen-in timer at 0. The settled values in MAINTENANCE
are the model's choice (log entry 37). -/
def Obligations.LoadingEnds : Prop :=
  ∀ (x : Straps) (s : State), s.osm.op = .loading → ∃ t, exec (.loadingEnd x) s = .next t ∧
    t.osm.role = strapsRole x ∧ t.osm.number = x.number.toNat ∧
    (if x.cfgEn then t.osm.op = .maintenance ∧ t.settings = defaultSettings
      else if s.cs.image.sumAgrees = false ∨ s.cs.mark = true ∨ x.number = 0 ∨ 5 ≤ x.roleCode.toNat ∨
          rolesDisagree s.cs.image (strapsRole x) x.number.toNat = true then
        t.osm.op = .faulted ∧ t.settings = faultedSettings s.cs.image ∧ t.inForce .configFault 0 = true
      else t.osm.op = .listening ∧ t.settings = settle (strapsRole x) s.cs.image ∧ t.osm.listen = 0)

/-- ANALOG_SAMPLE: the readings are taken (R65), and the hot state (R32), the console's heat duty (R177) and the critical
flags (R138) follow them. At the pole station: a falling pole below Ehook is stowed, or locked out at a count of Nlock (R78);
a stowed pole above Ehook is lowered (R80); the first sample after LOADING places both poles (R91). Where the pole rules run
and no tracking step waits: RAISING passes to SEEKING above Ehook (R71), a raise above Emax is abandoned (R73), two poles
SEEKING make contact at Vpresent and capture their heights (R72, R96), a pole ON_WIRE out of window enters SUSPECT (R102), a
pole in SUSPECT in window with the line at Vsection returns (R104), the line state follows the voltage (R86 to R88), and the
cuts of SUSPECT, SECTION and LOWERING stand with their causes, a DEWIRE cut until both poles are down (R109). The published
source mode follows the line state, by way of the mode of the line state that the voltage gives, and a change of R90 starts the
source-change timer from 0 and holds the SOURCE_CHANGE cut (R89, R90). Where several of
these conditions meet at one sample their order is the model's choice (log entry 16): a raise above Emax before contact, the hook
before contact, contact before the window and the line state. -/
def Obligations.SampleIsTaken : Prop :=
  ∀ (x : AnalogSample) (s w : State), s.osm.op.samples = true → w = s.withSu ⟨x, true, s.su.din⟩ →
    ∃ t, exec (.analogSample x) s = .next t ∧ t.su = w.su ∧
    t.ae.hot = (if s.ae.hot then decide (s.settings.release + 50 < x.ain6.toNat)
      else decide (s.settings.trip + 50 ≤ x.ain6.toNat)) ∧
    (s.osm.role = .console → s.osm.op.receives = true → t.cf.heat = x.ain5.toNat * 9 / 1024) ∧
    (∀ (c : Fin 4) (i : Nat), (s.record c).present = true → (s.record c).pressureInput = some i →
      (t.chan c).critical = decide (readingOf x i < (s.record c).pcrit)) ∧
    (s.osm.role = .pole → s.pwu.loadPending = true → s.PolesWait → ∀ p, (t.pole p).state =
      if w.elevation p < s.settings.ehook then .stowed else .lowering) ∧
    (s.osm.role = .pole → s.pwu.loadPending = false → ∀ p,
      ((s.pole p).state = .retrieving ∨ (s.pole p).state = .lowering → (t.pole p).state =
        if s.settings.ehook ≤ w.elevation p then (s.pole p).state
        else if s.settings.nlock ≤ (s.pole p).count then .lockedOut else .stowed) ∧
      ((s.pole p).state = .stowed → (t.pole p).state =
        if s.settings.ehook < w.elevation p then .lowering else .stowed)) ∧
    (s.polesRun = true → s.pwu.loadPending = false → s.pwu.trackWaits = false →
      (s.pwu.operation = .raise → (∃ q, (s.pole q).state.rising = true ∧ s.settings.emax < w.elevation q) →
        t.pwu.operation = .none ∧ t.inForce .raiseFail 0 = true ∧
          ∀ p, (s.pole p).state.rising = true → (t.pole p).state = .lowering) ∧
      ((∀ q, (s.pole q).state.rising = true → w.elevation q ≤ s.settings.emax) →
        (if (∀ q ∈ bothPoles, (s.pole q).state = .seeking ∨ (s.pole q).state = .raising ∧ s.settings.ehook < w.elevation q) ∧
            s.settings.vpresent ≤ x.ain0.toNat then
          t.pwu.operation = .none ∧ t.pwu.line = (if s.settings.vsection ≤ x.ain0.toNat then .live else .gap) ∧
            ∀ p, (t.pole p).height = w.elevation p ∧
              (t.pole p).state = if w.lateral p ≤ w.lateralLimit ∧ w.ropeTrip p = false then .onWire else .suspect
        else ∀ p, ((s.pole p).state = .raising →
            (t.pole p).state = if s.settings.ehook < w.elevation p then .seeking else .raising) ∧
          ((s.pole p).state = .seeking → (t.pole p).state = .seeking))) ∧
      (∀ p, ((s.pole p).state = .onWire → (t.pole p).state = if w.inWindowOf p then .onWire else .suspect) ∧
        ((s.pole p).state = .suspect →
          if w.inWindowOf p = true ∧ s.settings.vsection ≤ x.ain0.toNat then
            (t.pole p).state = (if s.pwu.operation = .lowerDescent then .lowering else .onWire) ∧
              (t.pole p).bounces.getLast? = some s.osm.uptime
          else (t.pole p).state = .suspect)) ∧
      (s.bothUp = true → t.pwu.line =
        if t.bothUp = false then .isOpen
        else if s.pwu.line = .live ∧ x.ain0.toNat < s.settings.vsection then .gap
        else if (s.pwu.line = .gap ∨ s.pwu.line = .out) ∧ s.settings.vpresent ≤ x.ain0.toNat then .live
        else s.pwu.line) ∧
      t.pwu.source = s.modeAt t.pwu.line ∧ t.holdsCut .sourceChange = t.pwu.sourceTimer.isSome ∧
      (s.bothUp = true → s.SourceFollows t (s.modeAt
        (if s.pwu.line = .live ∧ x.ain0.toNat < s.settings.vsection then .gap
        else if (s.pwu.line = .gap ∨ s.pwu.line = .out) ∧ s.settings.vpresent ≤ x.ain0.toNat then .live
        else s.pwu.line))) ∧
      (s.bothUp = false → s.pwu.line = .isOpen → s.SourceFollows t t.pwu.source) ∧
      t.holdsCut .suspectPos = (t.pwu.pos.state == .suspect) ∧ t.holdsCut .suspectNeg = (t.pwu.neg.state == .suspect) ∧
      t.holdsCut .section_ = (t.pwu.line == .gap) ∧ t.holdsCut .lowering = t.pwu.operation.lowers ∧
      t.holdsCut .dewirePos = (s.holdsCut .dewirePos && !t.bothDown) ∧
      t.holdsCut .dewireNeg = (s.holdsCut .dewireNeg && !t.bothDown))

/-- DIGITAL_INPUT_CHANGE (R65): the one input takes the level; the other inputs and the readings stay. At the console in
LISTENING, ACTIVE, PATTERN and PARKED: the emergency current-off input originates the DRIVER cut, with the first number from
the counter on that no own entry bears, and hands its CUT, and its end releases it (R116, R117, R130); a button's edge takes
the next command number and hands its command to the pole station (R176), the pattern switch's edge is taken by the console
itself. R175: the acknowledge button removes orphans and acknowledges the own entries; at a console that is calm with the
button pressed, no TIMED channel being fed by it, this is what becomes of the alarm table, and an ACK_ALARMS is handed for each
station with an entry to acknowledge, in ascending number, as far as the command slots hold them. R177, in FAULTED too: the
special-work input sets the flag and stops the tail, and its end starts the tail from 0 with the flag still on. -/
def Obligations.InputTakesItsLevel : Prop :=
  (∀ (i : Fin 12) (level : Bool) (s : State), ∃ t, exec (.digitalInputChange i level) s = .next t ∧
    t.su.ain = s.su.ain ∧ (∀ j : Fin 12, t.din j.val = if j = i then level else s.din j.val) ∧
    (s.osm.role = .console → s.osm.op.serves = true ∨ s.osm.op = .faulted → i = 5 → s.din 5 ≠ level →
      (level = true → t.cf.special = true ∧ t.cf.tail = none) ∧
      (level = false → t.cf.special = s.cf.special ∧ t.cf.tail = some 0)) ∧
    (s.osm.role = .console → s.osm.op.serves = true → s.din i.val ≠ level → s.CutsOk → s.RangesOk →
      (i = 8 → level = true → s.holdsCut .driver = false → ∃ d k, d ≤ 8 ∧ k = (s.cc.counter + d) % 256 ∧
        (∀ e ∈ s.cc.cuts, e.own = true → e.number ≠ k) ∧
        (∀ j < d, ∃ e ∈ s.cc.cuts, e.own = true ∧ e.number = (s.cc.counter + j) % 256) ∧
        t.cc.counter = (k + 1) % 256 ∧ t.cc.phase = .held ∧ t.ae.draw = 0 ∧
        t.cc.cuts = (if s.cc.cuts.length < 8 then s.cc.cuts else dropOldestPeer s.cc.cuts) ++
          [⟨s.osm.number, .driver, k, true⟩] ∧
        t.bus.urgentSlots.getLast? = some (.cut s.osm.number .driver k)) ∧
      (i = 8 → level = false → ∀ e, s.ownCut .driver = some e → t.holdsCut .driver = false ∧
        t.cc.cuts = s.cc.cuts.filter (fun a => !(a.own && a.cause == .driver)) ∧
        t.bus.urgentSlots.getLast? = some (.release s.osm.number .driver e.number)) ∧
      (∀ k, (i = 1 ∧ k = CommandKind.raisePoles ∨ i = 2 ∧ k = CommandKind.lowerPoles ∨ i = 3 ∧ k = .clearLockout 2) →
        level = true → t.cf.commandCounter = (s.cf.commandCounter + 1) % 256 ∧
          t.bus.commandSlots = if s.bus.commandSlots.length + s.bus.driven .command < 3
            then s.bus.commandSlots ++ [.command s.settings.poleStation s.cf.commandCounter k]
            else s.bus.commandSlots) ∧
      (i = 4 → t.cf.commandCounter = (s.cf.commandCounter + 1) % 256 ∧
        t.bus.lastResult = some (s.cf.commandCounter, if level then s.patternResult.code else 0) ∧
        t.bus.commandSlots = if s.bus.commandSlots.length + s.bus.driven .command < 3
          then s.bus.commandSlots ++ [.command 0 s.cf.commandCounter (if level then .patternOn else .patternOff)]
          else s.bus.commandSlots))) ∧
  (∀ s w : State, s.osm.role = .console → s.osm.op.serves = true ∨ s.osm.op = .faulted → s.din 0 = false →
    w = s.withSu { s.su with din := s.su.din ||| 1 } → w.Calm → (∀ c, (s.record c).kind = .timed → (s.record c).input ≠ 0) →
    ∃ t, exec (.digitalInputChange 0 true) s = .next t ∧
      t.au.entries =
        (s.au.entries.filter (fun e => !(e.orphan || (s.ownAlarm e && e.state == .clearedUnack)))).map (fun e =>
          if s.ownAlarm e && e.state == .activeUnack then { e with state := .activeAck } else e) ∧
      t.bus.lastResult = s.bus.lastResult ∧
      (s.osm.op = .faulted → t.bus.commandSlots = s.bus.commandSlots) ∧
      (s.osm.op.serves = true → s.RangesOk → t.bus.commandSlots = s.bus.commandSlots ++
        ((stationNumbers.filter (fun n => s.au.entries.any (s.toAck n))).zipIdx.map (fun p =>
          Message.command p.1 ((s.cf.commandCounter + p.2) % 256) (.ackAlarms ((s.au.entries.filter (s.toAck p.1)).map
            (fun e => ⟨byteOf e.kind.code, byteOf e.qualifier, byteOf e.count⟩))))).take
          (3 - (s.bus.commandSlots.length + s.bus.driven .command)))) ∧
  ∀ s : State, s.osm.op.serves = true ∨ s.osm.op = .faulted →
    s.pressAck.au.entries =
      (s.au.entries.filter (fun e => !(e.orphan || (s.ownAlarm e && e.state == .clearedUnack)))).map (fun e =>
        if s.ownAlarm e && e.state == .activeUnack then { e with state := .activeAck } else e) ∧
    (s.osm.op.serves = true → s.RangesOk → s.pressAck.cf.commandCounter = (s.cf.commandCounter +
      (stationNumbers.filter (fun n => s.au.entries.any (s.toAck n))).length) % 256)

/-- WAKE_INPUT and WAKE_BY_FRAME (R185, R199): in DORMANT each wakes the station into LISTENING with the listen-in timer
at 0, and the frame only at priority URGENT or COMMAND; elsewhere and at another priority nothing changes. -/
def Obligations.WakeFromDormant : Prop :=
  (∀ s : State, s.osm.op = .dormant → ∃ t, exec .wakeInput s = .next t ∧ t.osm.op = .listening ∧ t.osm.listen = 0 ∧
    t.ae.draw = 0 ∧ t.lcm.carrierOn = true) ∧
  (∀ (p : BitVec 2) (s : State), s.osm.op = .dormant → p.toNat ≤ 1 → ∃ t, exec (.wakeByFrame p) s = .next t ∧
    t.osm.op = .listening ∧ t.osm.listen = 0 ∧ t.ae.draw = 0 ∧ t.lcm.carrierOn = true) ∧
  (∀ s : State, s.osm.op ≠ .dormant → exec .wakeInput s = .next s) ∧
  (∀ (p : BitVec 2) (s : State), s.osm.op ≠ .dormant ∨ 2 ≤ p.toNat → exec (.wakeByFrame p) s = .next s)

/-- LISTEN_IN_EXPIRY (R198): at 5P the station enters ACTIVE with the key on and PARKED with the key off; before, nothing
changes (the model's choice, log entry 2). DORMANCY_EXPIRY (R18, R46, R131, R153, R179, R183, R199): at 600 000 ms a PARKED
station with the key off enters DORMANT: the table is emptied, the cut set emptied, the draw 0, the hot state COOL, the waiting
frames discarded, a driven one too if it is found to be in arbitration still, and no alarm entry left but own latched ones; the
dewire counts, the pole states, the cut number counter, the beacon sequence number and the last command result stay. The fate
of the driven frame is the model's reading of R182 and R183 (log entries 26 and 27). -/
def Obligations.ListenInAndDormancyEnd : Prop :=
  (∀ s : State,
    (s.osm.op = .listening → 5 * s.settings.period ≤ s.osm.listen → ∃ t, exec .listenInExpiry s = .next t ∧
      t.osm.op = if s.keyOn then .active else .parked) ∧
    (s.osm.op ≠ .listening ∨ s.osm.listen < 5 * s.settings.period → exec .listenInExpiry s = .next s)) ∧
  ∀ s : State, s.osm.op = .parked → 600000 ≤ s.osm.dormancy → s.keyOn = false → s.ia.heldKey = false →
    ∃ t, exec .dormancyExpiry s = .next t ∧ t.osm.op = .dormant ∧
      (∀ n, 1 ≤ n → n ≤ 15 → (t.entry n).state = .empty ∧ (t.entry n).beacon = none) ∧
      t.cc.cuts = [] ∧ t.cc.phase = .none ∧ t.cc.counter = s.cc.counter ∧ t.ae.draw = 0 ∧ t.ae.hot = false ∧
      t.bus.beaconSlot = none ∧ t.bus.urgentSlots = [] ∧ t.bus.commandSlots = [] ∧
      t.bus.sending = s.bus.sending.map (fun x => { x with dropped := true, displaced := none }) ∧
      t.bus.sequence = s.bus.sequence ∧ t.bus.lastResult = s.bus.lastResult ∧
      (∀ e ∈ t.au.entries, t.ownAlarm e = true ∧ e.latched = true) ∧
      t.pwu.pos.state = s.pwu.pos.state ∧ t.pwu.pos.count = s.pwu.pos.count ∧
      t.pwu.neg.state = s.pwu.neg.state ∧ t.pwu.neg.count = s.pwu.neg.count

/-- BEACON_RECEIVED (R2, R3, R5, R10): a beacon that passes the checks is stored by its entry, which becomes FRESH at age
0, every item outside the ranges of Table 1-2 brought within them, and with the mismatch causes it shows, none in FAULTED;
PARAM_MISMATCH of the station is in force exactly with a cause. PATTERN_RECEIVED (R4): the entry becomes FRESH at age 0 and
holds what it held with the currents and the claims at 0 and the operating state PATTERN; one that held nothing takes AUXILIARY,
sequence number 0, the own parameter set and the own P, and the items of which R4 is silent at off, absent and empty (the model's
choice, log entry 50). The effective period is the larger of the own period in force and the sender's (R8). No other peer entry
changes. The
cuts of the beacon's origin are those its cut list names, where the set has room for all, at the pole station beside a
SOURCE_CHANGE of its own (R121, R123), and the mirrored alarms of its station those its report
names, each in the state and with the count of its first record (R170). -/
def Obligations.BeaconAndPatternAreStored : Prop :=
  (∀ (f : Frame) (n : Nat) (p : List Byte) (s : State), s.osm.op.receives = true → f.kind = 4 →
    checkFrame f = some (.pattern n p) → s.isOwn n = false → ∃ t, exec (.patternReceived f) s = .next t ∧
      (t.entry n).state = .fresh ∧ (t.entry n).age = 0 ∧ (t.entry n).phantom = 0 ∧
      (∀ b, (s.entry n).beacon = some b → (t.entry n).beacon = some { b with
        claims := [], draw := 0, regen := 0, regenRequest := 0, sink := 0, op := .pattern, pattern := true }) ∧
      ((s.entry n).beacon = none → (t.entry n).beacon = some {
        part := .auxiliary, sequence := 0, paramSet := s.settings.paramSet, period := s.settings.period, op := .pattern,
        duplicate := false, configFault := false, hot := false, pattern := true, draw := 0, regenRequest := 0, regen := 0,
        sink := 0, lastResult := none, claims := [], cuts := [], alarms := [] }) ∧
      (t.entry n).causes = (s.entry n).causes ∧
      (t.entry n).pe = max
        (if t.osm.op = .parked then 1000 else if t.osm.op = .faulted then 20 else s.settings.period)
        (((s.entry n).beacon.map Beacon.period).getD s.settings.period) ∧
      ∀ m, m ≠ n → s.isOwn m = false → (t.entry m).agrees (s.entry m)) ∧
  ∀ (f : Frame) (n : Nat) (b : Beacon) (s : State), s.osm.op.receives = true → f.kind = 0 →
    checkFrame f = some (.beacon n b) → s.isOwn n = false → ∃ t, exec (.beaconReceived f) s = .next t ∧
      (t.entry n).state = .fresh ∧ (t.entry n).age = 0 ∧ (t.entry n).phantom = 0 ∧
      ((t.entry n).causes.paramSet = true ↔ s.osm.op ≠ .faulted ∧ b.paramSet ≠ s.settings.paramSet) ∧
      ((t.entry n).causes.period = true ↔ s.osm.op ≠ .faulted ∧
        (b.period ≠ s.settings.period ∨ ¬ (b.period = 10 ∨ b.period = 20 ∨ b.period = 50))) ∧
      ((t.entry n).causes.role = true ↔ s.osm.op ≠ .faulted ∧
        (n = s.settings.poleStation ∧ b.part.role ≠ .pole ∨ n = s.settings.consoleStation ∧ b.part.role ≠ .console ∨
          b.part.role = .pole ∧ n ≠ s.settings.poleStation ∨
          b.part.role = .console ∧ n ≠ s.settings.consoleStation)) ∧
      (s.osm.op.alarmsTaken = true →
        (t.inForce .paramMismatch n = true ↔ (t.entry n).causes ≠ ⟨false, false, false⟩)) ∧
      (t.entry n).beacon = some { b with
        part := match b.part with
          | .traction v => .traction (min 1023 v)
          | .auxiliary => .auxiliary
          | .battery d a => .battery d a
          | .pole p => .pole { p with
              voltage := min 1023 p.voltage, posCount := min 15 p.posCount, negCount := min 15 p.negCount }
          | .console c => .console { c with heat := min 8 c.heat }
        period := if b.period = 10 ∨ b.period = 20 ∨ b.period = 50 then b.period else 50
        draw := min 400 b.draw
        regenRequest := min 400 b.regenRequest
        regen := min 400 b.regen
        sink := min 1600 b.sink
        claims := b.claims.map (fun c => ⟨c.cls, min 400 c.demand, min c.floor (min 400 c.demand)⟩) } ∧
      (t.entry n).pe = max
        (if t.osm.op = .parked then 1000 else if t.osm.op = .faulted then 20 else s.settings.period)
        (if b.op = .parked then 1000 else if b.period = 10 ∨ b.period = 20 ∨ b.period = 50 then b.period else 50) ∧
      (∀ m, m ≠ n → s.isOwn m = false → (t.entry m).agrees (s.entry m)) ∧
      (s.CutsOk → ∀ e ∈ t.cc.cuts, e.origin = n → ∃ r ∈ b.cuts, r.cause = e.cause ∧ r.number = e.number) ∧
      (s.CutsOk → s.DriverSettled → b.cuts.Pairwise (fun r q => r.cause ≠ q.cause) →
        (s.osm.role ≠ .pole ∧ s.cc.cuts.length + b.cuts.length ≤ 8 ∨
          s.osm.role = .pole ∧ s.cc.cuts.length + b.cuts.length ≤ 7 ∧
            ∀ c ∈ poleCauses, c ≠ .sourceChange → s.polesHold none c = s.holdsCut c) →
        (∀ r ∈ b.cuts, (⟨n, r.cause, r.number, false⟩ : CutEntry) ∈ t.cc.cuts) ∧
          ∀ e ∈ s.cc.cuts, e.origin ≠ n → (s.osm.role = .pole → e.own = false) → e ∈ t.cc.cuts) ∧
      (∀ e ∈ t.au.entries, e.source = n → e.orphan = false ∧
        ∃ r, b.alarms.find? (fun r => r.kind == e.kind && r.qualifier == e.qualifier) = some r ∧
          e.state = r.state ∧ e.count = max 1 r.count) ∧
      (s.au.entries.length + b.alarms.length ≤ 16 →
        ∀ r ∈ b.alarms, ∃ e ∈ (s.mirrorReport n b.alarms).au.entries,
          e.source = n ∧ e.kind = r.kind ∧ e.qualifier = r.qualifier)

/-- CUT_RECEIVED (R5, R42, R119, R124): a CUT from a peer heard is entered in the cut set by the cases of R119; the applied
draw and regen are 0 while the set is non-empty; no peer entry changes. A CUT whose origin is not the sender's number, whose
cause is unknown, or whose peer entry is EMPTY changes neither the set nor the phase. -/
def Obligations.CutIsEntered : Prop :=
  (∀ (f : Frame) (n o : Nat) (c : Option CutCause) (k : Nat) (s : State), s.osm.op.receives = true → f.kind = 1 →
    checkFrame f = some (.cut n o c k) → s.isOwn n = false → o ≠ n ∨ c = none ∨ (s.entry n).state = .empty →
    s.DriverSettled → ∃ t, exec (.cutReceived f) s = .next t ∧ t.cc.cuts = s.cc.cuts ∧ s.phaseStays t) ∧
  ∀ (f : Frame) (n : Nat) (c : CutCause) (k : Nat) (s : State), s.osm.op.receives = true → f.kind = 1 →
    checkFrame f = some (.cut n n (some c) k) → s.isOwn n = false → (s.entry n).state ≠ .empty →
    s.CutsOk → s.DriverSettled → ∃ t, exec (.cutReceived f) s = .next t ∧
      t.cc.cuts = (if (⟨n, c, k, false⟩ : CutEntry) ∈ s.cc.cuts then s.cc.cuts
        else if ∃ e ∈ s.cc.cuts, e.origin = n ∧ e.cause = c then
          s.cc.cuts.filter (fun e => !(e.origin == n && e.cause == c)) ++ [⟨n, c, k, false⟩]
        else if s.cc.cuts.length < 8 then s.cc.cuts ++ [⟨n, c, k, false⟩]
        else if ∃ e ∈ s.cc.cuts, e.own = false then dropOldestPeer s.cc.cuts ++ [⟨n, c, k, false⟩]
        else s.cc.cuts) ∧
      (t.cc.cuts ≠ [] → t.ae.draw = 0 ∧ t.ae.regen = 0 ∧ t.cc.phase = .held) ∧
      ∀ m, s.isOwn m = false → (t.entry m).agrees (s.entry m)

/-- RELEASE_RECEIVED (R119, R120): a RELEASE removes the entry of its origin, cause and number if the set holds it, and no
other. One whose origin is not the sender's number or whose cause is unknown changes neither the set nor the phase. -/
def Obligations.ReleaseRemovesItsCut : Prop :=
  (∀ (f : Frame) (n o : Nat) (c : Option CutCause) (k : Nat) (s : State), s.osm.op.receives = true → f.kind = 2 →
    checkFrame f = some (.release n o c k) → s.isOwn n = false → o ≠ n ∨ c = none →
    s.DriverSettled → ∃ t, exec (.releaseReceived f) s = .next t ∧ t.cc.cuts = s.cc.cuts ∧ s.phaseStays t) ∧
  ∀ (f : Frame) (n : Nat) (c : CutCause) (k : Nat) (s : State), s.osm.op.receives = true → f.kind = 2 →
    checkFrame f = some (.release n n (some c) k) → s.isOwn n = false → s.CutsOk → s.DriverSettled →
    ∃ t, exec (.releaseReceived f) s = .next t ∧
      t.cc.cuts = s.cc.cuts.filter (fun e => !(e.origin == n && e.cause == c && e.number == k)) ∧
      ((∀ e ∈ s.cc.cuts, ¬ (e.origin = n ∧ e.cause = c ∧ e.number = k)) → t.cc.cuts = s.cc.cuts ∧ s.phaseStays t)

/-- R125, R127: the last RELEASE takes the phase from HELD to OFFSET with the offset timer at 0. RESTORATION_OFFSET_EXPIRY:
at station number × 50 ms the restoration set is the shed list as it stands, and the phase is RESTORING while a channel of
that set is left on the list, else NONE at once; before, nothing changes (the model's choice, log entry 2). R124, R128: a set
that becomes non-empty forces the draw to 0, takes the phase to HELD, ends the restoration, and sheds every channel in
STARTING or ON, one of the restoration record to its former place and the others behind every place taken. That the former place
is given back also to a record channel that has been OFF and was started again is the model's choice (log entry 68). -/
def Obligations.OffsetStartsAndEnds : Prop :=
  (∀ (f : Frame) (n : Nat) (c : CutCause) (k : Nat) (s : State), s.osm.op.receives = true → f.kind = 2 →
    checkFrame f = some (.release n n (some c) k) → s.isOwn n = false → s.DriverSettled →
    s.cc.phase = .held → s.cc.cuts = [⟨n, c, k, false⟩] → ∃ t, exec (.releaseReceived f) s = .next t ∧
      t.cc.cuts = [] ∧ t.cc.phase = .offset ∧ t.cc.offset = 0) ∧
  (∀ s : State,
    (s.cc.phase = .offset → 50 * s.osm.number ≤ s.cc.offset → s.DriverSettled →
      ∃ t, exec .restorationOffsetExpiry s = .next t ∧ t.cc.cuts = s.cc.cuts ∧ t.cc.offset = 0 ∧
        (t.cc.phase = .restoring ∧ t.cc.restSet = s.shedList ∧ t.cc.restSet ≠ [] ∨
          t.cc.phase = .none ∧ t.cc.restSet = []) ∧
        (t.osm.op = s.osm.op → (t.cc.phase = .restoring ↔ ∃ p ∈ s.shedList, t.onList p.channel = true))) ∧
    (s.cc.phase ≠ .offset ∨ s.cc.offset < 50 * s.osm.number → exec .restorationOffsetExpiry s = .next s)) ∧
  ∀ (s : State) (cuts : List CutEntry), s.cc.cuts = [] → cuts ≠ [] →
    (s.putCuts cuts).cc = { s.cc with cuts := cuts, phase := .held, offset := 0, restSet := [], restRecord := [] } ∧
    (s.putCuts cuts).ae.draw = 0 ∧ (s.putCuts cuts).ae.regen = 0 ∧ (s.putCuts cuts).ae.share = 0 ∧
    ∀ c, (s.putCuts cuts).runs c = false ∧
      (s.runs c = true →
        ((s.putCuts cuts).chan c).state = (if (s.record c).kind = .timed then .suspended else .shed) ∧
        (∀ p, s.cc.restRecord.find? (fun p => p.channel == c) = some p →
          ((s.putCuts cuts).chan c).shedPos = some p.position) ∧
        (s.cc.restRecord.find? (fun p => p.channel == c) = none →
          ∃ q, s.lcm.shedCounter < q ∧ ((s.putCuts cuts).chan c).shedPos = some q)) ∧
      (s.onList c = true → (s.chan c).shedPos ≠ none → (s.putCuts cuts).chan c = s.chan c)

/-- R186: a frame of any of the five kinds that passes the checks and bears the own number sets the duplicate flag, with
DUPLICATE_STATION in force, and is stored by no entry: neither a peer's nor the own one, whose pole part at the pole station
is the pole watch unit's (R6); no command of it is taken. -/
def Obligations.DuplicateIsFound : Prop :=
  ∀ (f : Frame) (r : Received) (c : Instr) (s : State), s.osm.op.receives = true → checkFrame f = some r →
    s.isOwn r.station = true →
    (f.kind = 0 ∧ c = .beaconReceived f ∨ f.kind = 1 ∧ c = .cutReceived f ∨ f.kind = 2 ∧ c = .releaseReceived f ∨
      f.kind = 3 ∧ c = .commandReceived f ∨ f.kind = 4 ∧ c = .patternReceived f) →
    ∃ t, exec c s = .next t ∧
      t.bus.duplicate = true ∧ (s.bus.duplicate = false → t.inForce .duplicateStation 0 = true) ∧
      (∀ m, s.isOwn m = false → (t.entry m).agrees (s.entry m)) ∧
      (t.entry s.osm.number).agrees { s.entry s.osm.number with
        beacon := (s.entry s.osm.number).beacon.map (fun b =>
          if s.osm.role = .pole then { b with part := .pole t.polePart } else b) } ∧
      t.bus.lastResult = s.bus.lastResult ∧ (s.DriverSettled → t.cc.cuts = s.cc.cuts)

/-- ENTRY_STALE, ENTRY_PHANTOM, PHANTOM_HOLD_EXPIRY (R7, R9): the entry of a peer passes 2Pe, 5Pe and the end of its
phantom hold; no other peer entry changes. A phantom's mirrored alarms are orphans (R171), which at its end leave every
table but the console's. -/
def Obligations.EntriesAge : Prop :=
  ∀ (n : Fin 16) (s : State), n ≠ 0 → s.isOwn n.val = false →
    ((s.entry n.val).state = .fresh → 2 * (s.entry n.val).pe < (s.entry n.val).age →
      ∃ t, exec (.entryStale n) s = .next t ∧ (t.entry n.val).agrees { s.entry n.val with state := .stale } ∧
        ∀ m, m ≠ n.val → s.isOwn m = false → (t.entry m).agrees (s.entry m)) ∧
    ((s.entry n.val).state = .fresh ∨ (s.entry n.val).state = .stale → 5 * (s.entry n.val).pe < (s.entry n.val).age →
      ∃ t, exec (.entryPhantom n) s = .next t ∧
        (t.entry n.val).agrees { s.entry n.val with state := .phantom, phantom := 10 * (s.entry n.val).pe } ∧
        (∀ e ∈ t.cc.cuts, e.origin ≠ n.val) ∧ (∀ e ∈ t.au.entries, e.source = n.val → e.orphan = true) ∧
        ∀ m, m ≠ n.val → s.isOwn m = false → (t.entry m).agrees (s.entry m)) ∧
    ((s.entry n.val).state = .phantom → (s.entry n.val).phantom = 0 →
      ∃ t, exec (.phantomHoldExpiry n) s = .next t ∧
        (t.entry n.val).agrees ⟨.empty, 0, 0, 0, ⟨false, false, false⟩, none⟩ ∧
        (s.osm.role ≠ .console → ∀ e ∈ t.au.entries, ¬ (e.source = n.val ∧ e.orphan = true)) ∧
        ∀ m, m ≠ n.val → s.isOwn m = false → (t.entry m).agrees (s.entry m))

/-- COMMAND_RECEIVED (R84, R188): a command whose origin is the sender's number, aimed at the own number or at 0, is taken
and does what the row of its kind does; one with another origin, one aimed elsewhere, and a pole command aimed at 0 where the
role is not POLE are not taken: the last command result and the poles stay. -/
def Obligations.CommandIsTaken : Prop :=
  ∀ (f : Frame) (n o g : Nat) (k : Byte) (kind : CommandKind) (s : State), s.osm.op.receives = true → f.kind = 3 →
    checkFrame f = some (.command n o g k.toNat kind) → s.isOwn n = false →
    (o = n → (s.isOwn g = true ∨ (g = 0 ∧ (kind.isPole = true → s.osm.role = .pole))) →
      ∃ t, exec (.commandReceived f) s = .next t ∧ exec (kind.row k) s = .next t) ∧
    (o ≠ n ∨ (s.isOwn g = false ∧ g ≠ 0) ∨ (g = 0 ∧ kind.isPole = true ∧ s.osm.role ≠ .pole) →
      ∃ t, exec (.commandReceived f) s = .next t ∧
        t.bus.lastResult = s.bus.lastResult ∧ t.pwu.pos = s.pwu.pos ∧ t.pwu.neg = s.pwu.neg)

/-- RAISE_POLES (R69, R70, R84, R189): Table 4-4 at the pole station in ACTIVE; REFUSED_STATE elsewhere. -/
def Obligations.RaiseIsJudged : Prop :=
  ∀ (k : Byte) (s : State),
    (s.osm.role = .pole → s.osm.op = .active → ∃ t, exec (.raisePoles k) s = .next t ∧
      (if s.pwu.pos.state = .lockedOut ∨ s.pwu.neg.state = .lockedOut then
          t.bus.lastResult = some (k.toNat, 2) ∧ t.pwu.pos = s.pwu.pos ∧ t.pwu.neg = s.pwu.neg
        else if s.pwu.pos.state.moving = true ∨ s.pwu.neg.state.moving = true ∨ s.pwu.operation = .lowerDrain ∨
            s.pwu.operation = .lowerDescent then
          t.bus.lastResult = some (k.toNat, 3) ∧ t.pwu.pos = s.pwu.pos ∧ t.pwu.neg = s.pwu.neg
        else if s.pwu.pos.state.up = true ∧ s.pwu.neg.state.up = true then
          t.bus.lastResult = some (k.toNat, 0) ∧ t.pwu.pos = s.pwu.pos ∧ t.pwu.neg = s.pwu.neg
        else if s.pwu.pos.state = .stowed ∧ s.pwu.neg.state = .stowed then
          t.bus.lastResult = some (k.toNat, 0) ∧ t.pwu.pos.state = .raising ∧ t.pwu.neg.state = .raising ∧
            t.pwu.pos.timer = 0 ∧ t.pwu.neg.timer = 0 ∧ t.pwu.operation = .raise ∧ t.pwu.raiseTimer = 0 ∧
            t.pwu.line = .isOpen
        else t.bus.lastResult = some (k.toNat, 3) ∧ t.pwu.pos = s.pwu.pos ∧ t.pwu.neg = s.pwu.neg)) ∧
    (s.osm.op.receives = true → s.osm.role ≠ .pole ∨ s.osm.op ≠ .active →
      ∃ t, exec (.raisePoles k) s = .next t ∧ t.bus.lastResult = some (k.toNat, 1) ∧
        t.pwu.pos = s.pwu.pos ∧ t.pwu.neg = s.pwu.neg)

/-- LOWER_POLES (R74, R75, R76, R84, R189): Table 4-5 at the pole station in ACTIVE; REFUSED_STATE elsewhere. -/
def Obligations.LowerIsJudged : Prop :=
  ∀ (k : Byte) (s : State),
    (s.osm.role = .pole → s.osm.op = .active → ∃ t, exec (.lowerPoles k) s = .next t ∧
      t.bus.lastResult = some (k.toNat, 0) ∧
      (if s.pwu.operation = .lowerDrain ∨ s.pwu.operation = .lowerDescent ∨
          s.pwu.pos.state ∈ [.dewired, .retrieving, .lowering] ∨ s.pwu.neg.state ∈ [.dewired, .retrieving, .lowering] then
          t.pwu.pos = s.pwu.pos ∧ t.pwu.neg = s.pwu.neg
        else if s.pwu.operation = .raise then
          t.pwu.operation = .none ∧ ∀ p, (t.pole p).state =
            (if (s.pole p).state = .raising ∨ (s.pole p).state = .seeking then .lowering else (s.pole p).state)
        else if s.pwu.pos.state.up = true ∧ s.pwu.neg.state.up = true then
          t.holdsCut .lowering = true ∧ t.pwu.operation = (if s.drainComplete then .lowerDescent else .lowerDrain) ∧
            ∀ p, (t.pole p).state =
              (if s.drainComplete = true ∧ (s.pole p).state = .onWire then .lowering else (s.pole p).state)
        else t.pwu.pos = s.pwu.pos ∧ t.pwu.neg = s.pwu.neg)) ∧
    (s.osm.op.receives = true → s.osm.role ≠ .pole ∨ s.osm.op ≠ .active →
      ∃ t, exec (.lowerPoles k) s = .next t ∧ t.bus.lastResult = some (k.toNat, 1) ∧
        t.pwu.pos = s.pwu.pos ∧ t.pwu.neg = s.pwu.neg)

/-- CLEAR_LOCKOUT (R83, R84, R189): at the pole station in ACTIVE at standstill each named pole in LOCKED_OUT becomes
STOWED with its count at 0, every other pole stays; an argument that names no pole is REFUSED_STATE, a vehicle that moves
REFUSED_NOT_STANDSTILL; REFUSED_STATE elsewhere. -/
def Obligations.LockoutIsCleared : Prop :=
  ∀ (k a : Byte) (s : State),
    (s.osm.role = .pole → s.osm.op = .active → ∃ t, exec (.clearLockout k a) s = .next t ∧
      (if 3 ≤ a.toNat then t.bus.lastResult = some (k.toNat, 1) ∧ t.pwu.pos = s.pwu.pos ∧ t.pwu.neg = s.pwu.neg
        else if s.standstill = false then
          t.bus.lastResult = some (k.toNat, 4) ∧ t.pwu.pos = s.pwu.pos ∧ t.pwu.neg = s.pwu.neg
        else t.bus.lastResult = some (k.toNat, 0) ∧
          (if s.pwu.pos.state = .lockedOut ∧ a.toNat ≠ 1 then
              t.pwu.pos.state = .stowed ∧ t.pwu.pos.count = 0 ∧ t.pwu.pos.forgive = 0
            else t.pwu.pos.state = s.pwu.pos.state ∧ t.pwu.pos.count = s.pwu.pos.count) ∧
          (if s.pwu.neg.state = .lockedOut ∧ a.toNat ≠ 0 then
              t.pwu.neg.state = .stowed ∧ t.pwu.neg.count = 0 ∧ t.pwu.neg.forgive = 0
            else t.pwu.neg.state = s.pwu.neg.state ∧ t.pwu.neg.count = s.pwu.neg.count))) ∧
    (s.osm.op.receives = true → s.osm.role ≠ .pole ∨ s.osm.op ≠ .active →
      ∃ t, exec (.clearLockout k a) s = .next t ∧ t.bus.lastResult = some (k.toNat, 1) ∧
        t.pwu.pos = s.pwu.pos ∧ t.pwu.neg = s.pwu.neg)

/-- ACK_ALARMS (R168, R188): in the states of Table 10-5 the command is answered IGNORED_STALE if a record was stale and
DONE otherwise; a single record is stale where its entry stands with another count. At a calm station the alarm table is
then what the records in their order make of it: an entry a record names passes from ACTIVE_UNACK to ACTIVE_ACK, leaves in
CLEARED_UNACK, and is otherwise unchanged, as is every entry no record names. -/
def Obligations.AlarmsAreAcknowledged : Prop :=
  ∀ (k : Byte) (rs : List AckRecord) (s : State), s.osm.op.receives = true → ∃ t, exec (.ackAlarms k rs) s = .next t ∧
    t.bus.lastResult = some (k.toNat, if (s.ackAll rs).2 then 5 else 0) ∧
    (∀ r, rs = [r] → t.bus.lastResult = some (k.toNat, if ∃ e ∈ s.au.entries, s.ownAlarm e = true ∧
      alarmKindOfCode r.kind.toNat = some e.kind ∧ e.qualifier = r.qualifier.toNat ∧ e.count ≠ r.count.toNat
        then 5 else 0)) ∧
    (s.Calm → t.au.entries = rs.foldl (fun es r =>
      (es.filter (fun e => !(s.named r e && e.state == .clearedUnack))).map (fun e =>
        if s.named r e && e.state == .activeUnack then { e with state := .activeAck } else e)) s.au.entries)

/-- PATTERN_ON (R188, R189, R190, R191): the result by the order of R190; where it is DONE and the key is on the station
enters PATTERN with its draw 0, and its entry beacon waits: operating state PATTERN, the PATTERN flag set, no claims, the
currents 0, the result stored before it, the next sequence number. The key is not read from the own entry. PATTERN_OFF (R188,
R189, R192): answered DONE; it ends pattern mode, and the station enters LISTENING with the listen-in timer at 0. -/
def Obligations.PatternModeBeginsAndEnds : Prop :=
  (∀ (k : Byte) (s : State), s.osm.op.receives = true → ∃ t, exec (.patternOff k) s = .next t ∧
    t.bus.lastResult = some (k.toNat, 0) ∧ (s.osm.op = .pattern → t.osm.op = .listening ∧ t.osm.listen = 0)) ∧
  ∀ (k : Byte) (s : State), s.osm.op.receives = true → ∃ t, exec (.patternOn k) s = .next t ∧
    t.bus.lastResult = some (k.toNat,
      if s.osm.op ≠ .active then 1
      else if s.ae.draw ≠ 0 ∨ s.cc.cuts ≠ [] ∨
          (s.osm.role = .pole ∧ ¬ (s.pwu.pos.state = .stowed ∧ s.pwu.neg.state = .stowed)) then 1
      else if s.standstill then 0 else 4) ∧
    (s.osm.op = .active → s.ae.draw = 0 → s.cc.cuts = [] →
      (s.osm.role = .pole → s.pwu.pos.state = .stowed ∧ s.pwu.neg.state = .stowed) → s.standstill = true →
      s.keyOn = true → (s.osm.role = .console ∨ s.osm.number ≠ s.settings.consoleStation) →
      t.osm.op = .pattern ∧ t.ae.draw = 0 ∧ t.ae.regen = 0 ∧
      (s.osm.number ≠ 0 → t.bus.sequence = (s.bus.sequence + 1) % 256 ∧ ∃ b, t.bus.beaconSlot = some (.beacon b) ∧
        b.op = .pattern ∧ b.pattern = true ∧ b.claims = [] ∧ b.draw = 0 ∧ b.regenRequest = 0 ∧ b.regen = 0 ∧ b.sink = 0 ∧
        b.sequence = s.bus.sequence ∧ b.lastResult = some (k.toNat, 0) ∧ b.cuts = [] ∧
        b.duplicate = s.bus.duplicate ∧ b.hot = s.ae.hot))

/-- ALLOTMENT_EVENT_PERIODIC (R15, R20, R22, R31): at a due time a computation starts on a snapshot of the live table with
the own claims as published, or joins the pending one, which becomes periodic. -/
def Obligations.PeriodicEventStarts : Prop :=
  ∀ s : State, s.osm.op.composes = true → s.periodInForce ≤ s.ae.due → ∃ t, exec .allotmentEventPeriodic s = .next t ∧
    t.ae.due = s.ae.due - s.periodInForce ∧
    (s.ae.computing = none → t.ae.computing = some .periodic ∧ t.ae.snapshot.entries = s.pvt ∧
      t.ae.snapshot.ownClaims = s.publishedClaims ∧ t.ae.snapshot.op = s.osm.op) ∧
    (s.ae.computing ≠ none → t.ae.computing = s.ae.computing ∧ t.ae.snapshot = s.ae.snapshot ∧
      t.ae.waiting = some .periodic) ∧
    t.pvt = s.pvt ∧ t.ae.draw = s.ae.draw ∧ t.out = s.out

/-- ALLOTMENT_COMPUTATION_END (R23, R36 to R42): the grants of the snapshot's claims and the own grant stand. Counted are, in
the order of station and index, each claim with a demand above 0 of the own list, of a FRESH peer's stored list, and of a STALE
or PHANTOM peer the one claim of class 0 whose demand and floor are its stored applied draw (R12, R31). B is the applied draw of
every station but the traction station (R51), ΣS the own S and that of the FRESH peers, the sink stations those with an S above 0
(R54). The applied draw is 0 under a forcing condition, else it falls to the grant at once, or rises by at most K where the computation is
periodic and the snapshot holds R41's four conditions: ACTIVE or PARKED, the pole station's entry FRESH, no counted entry
STALE or PHANTOM, no restoration offset (nor one now, the model's choice, log entry 19). The regen grant is the smaller of
the request and what the vehicle can dispose of, and the applied regen follows it as the draw does, within the request (R55,
R56). The excess is shared among the sink stations, the shares standing only where the station may draw, the own share no
more than computed (R59, R60, R64). A periodic computation then releases the next beacon, or in PATTERN the PATTERN frame,
into the beacon slot; the beacon is the own entry's contents (R6, R20, R184). At the traction station SINK_SHORT is in force after
a computation exactly where Q of the snapshot is above B + Ureg + ΣS and no forcing condition holds (R57). The model's readings:
the own entry holds the cut list as it stands at composition (log entry 83), the operating state, the alarm report and the other
fields are those after the blocks have taken the results (log entry 43), the PATTERN frame also where the computation fell due
before the entry to PATTERN (log entry 52), and the shares as they stand after R60 and R64 (log entry 64). -/
def Obligations.ComputationEnds : Prop :=
  ∀ (k : CompKind) (s : State), s.ae.computing = some k →
    let entry : Nat → Entry := entryOf s.ae.snapshot.entries
    let traction : Option Nat := if s.osm.role = .traction then some s.osm.number
      else stationNumbers.find? (fun n => (entry n).beacon.any (fun b => b.part.role == .traction))
    let drawn : Nat → Nat := fun n => if s.isOwn n = true ∨ traction = some n then 0
      else match (entry n).state, (entry n).beacon with
        | .empty, _ => 0
        | _, some b => b.draw
        | _, none => 0
    let sunk : Nat → Nat := fun n => if s.isOwn n then s.ae.snapshot.sink
      else match (entry n).state, (entry n).beacon with
        | .fresh, some b => b.sink
        | _, _ => 0
    let ks : List SinkShare := (stationNumbers.filter (fun n => sunk n != 0)).map (fun n => ⟨n, sunk n, 0⟩)
    ∃ t, exec .allotmentComputationEnd s = .next t ∧
    (∃ cs : List CountedClaim, t.ae.grants = allot (s.usableDraw s.ae.snapshot) cs ∧
      cs.Pairwise (fun c d => c.station < d.station ∨ c.station = d.station ∧ c.index < d.index) ∧
      ∀ (n i : Nat) (c : Claim), ⟨n, i, c⟩ ∈ cs ↔ n ∈ stationNumbers ∧ c.demand ≠ 0 ∧
        if s.isOwn n then s.ae.snapshot.ownClaims[i]? = some c
        else match (entry n).state, (entry n).beacon with
          | .fresh, some b => b.claims[i]? = some c
          | .stale, some b => i = 0 ∧ c = ⟨0, b.draw, b.draw⟩
          | .phantom, some b => i = 0 ∧ c = ⟨0, b.draw, b.draw⟩
          | _, _ => False) ∧
    t.ae.grant = min ((t.ae.grants.filter (fun g => s.isOwn g.counted.station)).map Granted.grant).sum
      s.settings.stationMax ∧
    (s.computesZero = true → t.ae.draw = 0) ∧
    (∀ rises : Prop, (rises ↔ k = .periodic ∧
        (s.ae.snapshot.op = .active ∨ s.ae.snapshot.op = .parked) ∧
        (entryOf s.ae.snapshot.entries s.settings.poleStation).state = .fresh ∧
        (∀ n ∈ stationNumbers, s.isOwn n = false → (entryOf s.ae.snapshot.entries n).state = .empty ∨
          (entryOf s.ae.snapshot.entries n).state = .fresh) ∧
        s.ae.snapshot.offsetRunning = false ∧ s.cc.phase ≠ .offset) →
      s.computesZero = false → s.DriverSettled → (s.osm.op = .parked → s.keyOn = false) →
      (t.ae.grant < s.ae.draw → t.ae.draw = t.ae.grant) ∧
      (s.ae.draw ≤ t.ae.grant → rises → t.ae.draw = min t.ae.grant (s.ae.draw + s.settings.step)) ∧
      (s.ae.draw ≤ t.ae.grant → ¬ rises → t.ae.draw = s.ae.draw) ∧
      (s.osm.role = .traction →
        (t.ae.regenGrant < s.ae.regen → t.ae.regen = min t.ae.regenRequest t.ae.regenGrant) ∧
        (s.ae.regen ≤ t.ae.regenGrant → rises →
          t.ae.regen = min t.ae.regenRequest (min t.ae.regenGrant (s.ae.regen + s.settings.step))) ∧
        (s.ae.regen ≤ t.ae.regenGrant → ¬ rises → t.ae.regen = min t.ae.regenRequest s.ae.regen) ∧
        (s.osm.op.alarmsTaken = true → (t.inForce .sinkShort 0 = true ↔
          t.ae.absorption + t.ae.usableRegen + t.ae.sinkTotal < s.ae.snapshot.regenRequest)))) ∧
    (s.forced = true → s.DriverSettled → s.osm.op.alarmsTaken = true → t.inForce .sinkShort 0 = false) ∧
    t.ae.absorption = (stationNumbers.map drawn).sum +
      (if s.osm.role = .traction then 0 else s.ae.snapshot.ownDraw) ∧
    t.ae.usableRegen = s.usableRegenOf s.ae.snapshot ∧ t.ae.sinkTotal = (stationNumbers.map sunk).sum ∧
    t.ae.regenGrant = (if s.osm.role = .traction then
      min s.ae.snapshot.regenRequest (t.ae.absorption + t.ae.usableRegen + t.ae.sinkTotal) else 0) ∧
    t.ae.shares = (sinkShares t.ae.excess ks).map (fun h => { h with
      share := if t.osm.op = .active ∨ t.osm.op = .parked then (if s.isOwn h.station then t.ae.share else h.share)
        else 0 }) ∧
    t.ae.share ≤ s.ownShare (sinkShares t.ae.excess ks) ∧
    (k = .periodic → s.osm.number ≠ 0 → t.osm.op = .pattern →
      t.bus.beaconSlot = some (.pattern s.osm.number) ∧ t.bus.sequence = s.bus.sequence) ∧
    (k = .periodic → s.osm.number ≠ 0 → t.osm.op ≠ .pattern →
      t.bus.sequence = (s.bus.sequence + 1) % 256 ∧ ∃ b, t.bus.beaconSlot = some (.beacon b) ∧
        (1 ≤ s.osm.number → s.osm.number ≤ 15 → (t.entry s.osm.number).beacon = some b ∧
          (t.entry s.osm.number).state = .fresh) ∧
        b.sequence = s.bus.sequence ∧ b.op = t.osm.op.published ∧ b.hot = t.ae.hot ∧ b.duplicate = t.bus.duplicate ∧
        b.part = t.ownPart ∧ b.period = s.settings.period ∧ b.paramSet = s.settings.paramSet ∧
        b.lastResult = s.bus.lastResult ∧ b.cuts = t.ownCuts ∧ b.alarms = t.alarmReport ∧
        (t.osm.op ≠ .faulted → b.claims = s.ae.snapshot.ownClaims ∧ b.draw = t.ae.draw ∧ b.regen = t.ae.regen ∧
          b.regenRequest = t.ae.regenRequest ∧ b.sink = min 1600 s.ae.snapshot.sink) ∧
        (t.osm.op = .faulted → b.claims = [] ∧ b.draw = 0 ∧ b.regen = 0 ∧ b.regenRequest = 0 ∧ b.sink = 0))

/-- PATTERN_SILENCE_TIMEOUT (R193): at 5Pe of silence PATTERN_ERROR of the station is in force and the timer stops. At the
console in LISTENING, ACTIVE, PATTERN and PARKED: a PATTERN frame opens the check record with its timer at 0, and PATTERN_ERROR
is in force then exactly if the frame disagrees; a beacon with the pattern flag opens a closed record, one without it closes it,
as the end of the phantom hold does, and PATTERN_ERROR ends. R178: STATION_LOST is in force once an entry last stored in another
state than PARKED becomes PHANTOM, and no more once a frame has made it FRESH. -/
def Obligations.PatternSilence : Prop :=
  (∀ (f : Frame) (n : Nat) (p : List Byte) (s : State), s.osm.role = .console → s.osm.op.serves = true → f.kind = 4 →
    checkFrame f = some (.pattern n p) → s.isOwn n = false → ∃ t, exec (.patternReceived f) s = .next t ∧
      (t.check n).opened = true ∧ (t.check n).timer = 0 ∧ (t.check n).stopped = false ∧
      t.inForce .patternError n = decide (p ≠ patternBytes n) ∧ t.inForce .stationLost n = false) ∧
  (∀ (f : Frame) (n : Nat) (b : Beacon) (s : State), s.osm.role = .console → s.osm.op.serves = true → f.kind = 0 →
    checkFrame f = some (.beacon n b) → s.isOwn n = false → ∃ t, exec (.beaconReceived f) s = .next t ∧
      t.inForce .stationLost n = false ∧
      (b.pattern = false → (t.check n).opened = false ∧ t.inForce .patternError n = false) ∧
      (b.pattern = true → (t.check n).opened = true ∧ t.inForce .patternError n = s.inForce .patternError n ∧
        ((s.check n).opened = false → (t.check n).timer = 0 ∧ (t.check n).stopped = false))) ∧
  (∀ (n : Fin 16) (s : State), n ≠ 0 → s.isOwn n.val = false → s.osm.role = .console → s.osm.op.serves = true →
    ((s.entry n.val).state = .fresh ∨ (s.entry n.val).state = .stale → 5 * (s.entry n.val).pe < (s.entry n.val).age →
      ∃ t, exec (.entryPhantom n) s = .next t ∧ t.inForce .stationLost n.val =
        (s.inForce .stationLost n.val || decide ((s.entry n.val).beacon.map Beacon.op ≠ some .parked))) ∧
    ((s.entry n.val).state = .phantom → (s.entry n.val).phantom = 0 → ∃ t, exec (.phantomHoldExpiry n) s = .next t ∧
      (t.check n.val).opened = false ∧ t.inForce .patternError n.val = false ∧
      t.inForce .stationLost n.val = s.inForce .stationLost n.val)) ∧
  ∀ (n : Fin 16) (s : State), n ≠ 0 → s.silenceDue n.val = true → ∃ t, exec (.patternSilenceTimeout n) s = .next t ∧
    (t.check n.val).stopped = true ∧ (t.check n.val).opened = true ∧ t.inForce .patternError n.val = true

/-- POLE_HOOK_TIMEOUT and RAISE_TIMEOUT (R71, R73): a raise is abandoned: every pole that rises enters LOWERING, the other
stays, the pole operation is NONE and RAISE_FAIL is in force. -/
def Obligations.RaiseIsAbandoned : Prop :=
  (∀ (q : Pole) (s : State), s.polesRun = true → (s.pole q).state = .raising → 1000 ≤ (s.pole q).timer →
    ∃ t, exec (.poleHookTimeout q) s = .next t ∧ t.pwu.operation = .none ∧ t.inForce .raiseFail 0 = true ∧
      ∀ p, (t.pole p).state = if (s.pole p).state.rising then .lowering else (s.pole p).state) ∧
  (∀ (q : Pole) (s : State), s.polesRun = true → s.pwu.operation = .raise → s.settings.traise ≤ s.pwu.raiseTimer →
    (s.pole q).state.rising = true →
    ∃ t, exec .raiseTimeout s = .next t ∧ t.pwu.operation = .none ∧ t.inForce .raiseFail 0 = true ∧
      ∀ p, (t.pole p).state = if (s.pole p).state.rising then .lowering else (s.pole p).state)

/-- SOURCE_CHANGE_TIMEOUT (R90): 100 ms after the last change the timer stops and the SOURCE_CHANGE cut is released.
DRAIN_TIMEOUT (R75, R76): at 200 ms the lowering passes to DESCENT and every pole ON_WIRE enters LOWERING; a pole in SUSPECT
is left to its window. The first pole lowered makes the line state OPEN, and the published source mode follows it, a change of
R90 with the SOURCE_CHANGE cut and its timer from 0 (R85, R89, R90). -/
def Obligations.DrainAndSourceChangeEnd : Prop :=
  (∀ s : State, s.polesRun = true → s.sourceDue = true → s.sourceMode = s.pwu.source →
    (s.bothUp = true ∨ s.pwu.line = .isOpen) → ∃ t, exec .sourceChangeTimeout s = .next t ∧
      t.pwu.sourceTimer = none ∧ t.holdsCut .sourceChange = false ∧ t.pwu.source = s.pwu.source) ∧
  ∀ s : State, s.polesRun = true → s.pwu.operation = .lowerDrain → 200 ≤ s.pwu.drainTimer → s.bothUp = true →
    ∃ t, exec .drainTimeout s = .next t ∧ t.pwu.operation = .lowerDescent ∧ t.pwu.drainTimer = 0 ∧
      t.pwu.line = (if (s.pole .pos).state = .onWire ∨ (s.pole .neg).state = .onWire then .isOpen else s.pwu.line) ∧
      s.SourceFollows t t.pwu.source ∧
      ∀ p, (t.pole p).state = if (s.pole p).state = .onWire then .lowering else (s.pole p).state

/-- RETRIEVE_TIMEOUT (R79): RETRIEVE_FAIL of the pole is in force and the pole stays in its state. GAP_TIMEOUT (R87): at
Tgap the line state is OUT, the gap timer 0, LINE_LOST in force and the SECTION cut released. The source mode passes to BATTERY
if the battery can supply, else to NONE (R89); from GAP to BATTERY the SOURCE_CHANGE cut is held and its timer starts from 0
(R90). -/
def Obligations.RetrieveFailsAndLineIsLost : Prop :=
  (∀ (p : Pole) (s : State), s.polesRun = true → (s.pole p).state.falling = true →
    s.settings.tretrieve ≤ (s.pole p).timer → ∃ t, exec (.retrieveTimeout p) s = .next t ∧
      t.inForce .retrieveFail (poleCode p) = true ∧ (t.pole p).state = (s.pole p).state ∧
      (t.pole (otherPole p)).state = (s.pole (otherPole p)).state) ∧
  ∀ s : State, s.polesRun = true → s.bothUp = true → s.pwu.line = .gap → s.settings.tgap ≤ s.pwu.gapTimer →
    ∃ t, exec .gapTimeout s = .next t ∧ t.pwu.line = .out ∧ t.pwu.gapTimer = 0 ∧ t.inForce .lineLost 0 = true ∧
      t.holdsCut .section_ = false ∧ s.SourceFollows t t.pwu.source

/-- FORGIVENESS_EXPIRY and BOUNCE_EXPIRY (R82, R110): 600 000 ms on the wire take one from the dewire count and restart the
timer; bounce times 60 000 ms old leave the history. -/
def Obligations.CountsAreForgiven : Prop :=
  ∀ (p : Pole) (s : State),
    (s.polesRun = true → (s.pole p).state = .onWire → 600000 ≤ (s.pole p).forgive →
      ∃ t, exec (.forgivenessExpiry p) s = .next t ∧ (t.pole p).count = (s.pole p).count - 1 ∧
        (t.pole p).forgive = 0 ∧ (t.pole p).state = .onWire ∧
        (t.pole (otherPole p)).count = (s.pole (otherPole p)).count) ∧
    ∃ t, exec (.bounceExpiry p) s = .next t ∧
      (t.pole p).bounces = (s.pole p).bounces.filter (fun b => decide (s.osm.uptime < b + 60000)) ∧
      (t.pole p).count = (s.pole p).count ∧ (t.pole p).state = (s.pole p).state

/-- TRACKING_STEP (R97, R98): at a due time after the sample of its millisecond each pole ON_WIRE moves its wire-height
reference by one unit towards the mean of its 16 samples, a pole in another state keeps it, the next due time lies 16 ms on,
and nothing else changes; before that sample the step waits for it (log entry 49) and is taken on a mean that includes it;
between due times nothing changes (log entry 2). CYCLE_COMPLETE (R140): a cycle with nothing remaining is pending no more,
and a TIMED channel's request is off. START_SPACING_EXPIRY (R145): the start-spacing timer's expiry is taken once; the timer
starts anew exactly where a channel enters STARTING, and in the phase OFFSET none does. -/
def Obligations.TrackingStep : Prop :=
  (∀ (s : State) (c : Nat) (h : Pole → Nat), s.pwu.trackClock = some c → 16 ≤ c →
    (∀ p, h p = if (s.pole p).state = .onWire then
        (if (s.pole p).height < (s.pole p).samples.sum / 16 then (s.pole p).height + 1
          else if (s.pole p).samples.sum / 16 < (s.pole p).height then (s.pole p).height - 1
          else (s.pole p).height)
      else (s.pole p).height) →
    (s.pwu.sampled = true → exec .trackingStep s = .next (s.withPwu { s.pwu with
      pos := { s.pwu.pos with height := h .pos }, neg := { s.pwu.neg with height := h .neg },
      trackClock := some (c - 16), trackWaits := false })) ∧
    (s.pwu.sampled = false → exec .trackingStep s =
      .next (s.withPwu { s.pwu with trackClock := some (c - 16), trackWaits := true }))) ∧
  (∀ (s : State) (p : Pole) (l : List Nat), s.pwu.trackWaits = true → (s.pole p).state = .onWire →
    l = ((s.pole p).samples ++ [s.elevation p]).drop ((s.pole p).samples.length - 15) →
    s.takeElevations.pwu.trackWaits = false ∧ (s.takeElevations.pole p).samples = l ∧
      (s.takeElevations.pole p).height =
        if (s.pole p).height < l.sum / 16 then (s.pole p).height + 1
        else if l.sum / 16 < (s.pole p).height then (s.pole p).height - 1 else (s.pole p).height) ∧
  (∀ s : State, (∀ c, s.pwu.trackClock = some c → c < 16) → exec .trackingStep s = .next s) ∧
  (∀ (c : Fin 4) (s : State), (s.chan c).cyclePending = true → (s.chan c).cycle = 0 →
    ∃ t, exec (.cycleComplete c) s = .next t ∧ (t.chan c).cyclePending = false ∧ (t.chan c).cycle = 0 ∧
      ((s.record c).present = true → (s.record c).kind = .timed → (t.chan c).request = 0)) ∧
  (∀ s : State, s.lcm.spacingRuns = true → 200 ≤ s.lcm.spacing → ∃ t, exec .startSpacingExpiry s = .next t ∧
    (t.lcm.spacingRuns = false ∧ t.lcm.spacing = s.lcm.spacing ∨ t.lcm.spacingRuns = true ∧ t.lcm.spacing = 0) ∧
    (s.CutsOk → s.DriverSettled → t.osm.op = s.osm.op → (t.lcm.spacingRuns = true ↔
      ∃ c, (s.chan c).state ≠ .starting ∧ (t.chan c).state = .starting)) ∧
    (s.cc.phase = .offset → s.DriverSettled → t.lcm.spacingRuns = false))

/-- SUSPECT_EXPIRY (R76, R99, R105 to R108): a pole in window returns to ON_WIRE with its bounce recorded, or is lowered
there in a descent; a pole out of window is dewired: RETRIEVING, its count up by one, POLE_DROP in force, its DEWIRE cut
held and its SUSPECT cut released, and a survivor on the wire lowered. -/
def Obligations.SuspectWindowEnds : Prop :=
  ∀ (p : Pole) (s : State), s.polesRun = true → (s.pole p).state = .suspect →
    s.settings.tbounce ≤ (s.pole p).suspect → ∃ t, exec (.suspectExpiry p) s = .next t ∧
      (if s.inWindowOf p then
          (t.pole p).state = (if s.pwu.operation = .lowerDescent then .lowering else .onWire) ∧
            (t.pole p).count = (s.pole p).count ∧ (t.pole p).bounces.getLast? = some s.osm.uptime ∧
            (t.pole (otherPole p)).state = (s.pole (otherPole p)).state
        else
          (t.pole p).state = .retrieving ∧ (t.pole p).count = min 15 ((s.pole p).count + 1) ∧
            (t.pole p).forgive = 0 ∧ t.inForce .poleDrop (poleCode p) = true ∧
            (t.pole (otherPole p)).state =
              (if (s.pole (otherPole p)).state.up then .lowering else (s.pole (otherPole p)).state) ∧
            t.holdsCut (match p with
              | .pos => .dewirePos
              | .neg => .dewireNeg) = true) ∧
      t.holdsCut (match p with
        | .pos => .suspectPos
        | .neg => .suspectNeg) = false

/-- STARTING_COMPLETE, MIN_ON_ELAPSED, MIN_OFF_ELAPSED (R146, R147): at a working station whose channels are settled a
channel passes from STARTING to ON, a held channel whose request has ended enters WAITING, and a channel in WAITING with no
request enters OFF. R137, R138, R140: in LISTENING and ACTIVE a sample, or an input change that moves no operating state, leaves each
present channel with the request that Table 7-3 gives its source; of a TIMED channel it is said where the step changes neither the
pole watch unit nor the cut set, so that no inhibit begins and ends in it (log entry 61). -/
def Obligations.ChannelTimers : Prop :=
  (∀ (x : AnalogSample) (c : Fin 4) (s w : State), s.osm.op = .listening ∨ s.osm.op = .active →
    w = s.withSu ⟨x, true, s.su.din⟩ → (s.record c).present = true → ∃ t, exec (.analogSample x) s = .next t ∧
      (t.osm.op = .listening ∨ t.osm.op = .active →
        (∀ i, (s.record c).kind = .switched → (s.record c).source = .pressure → (s.record c).pressureInput = some i →
          (t.chan c).request = if readingOf x i < (s.record c).pon then 1
            else if (s.record c).poff ≤ readingOf x i then 0 else if (s.chan c).requesting then 1 else 0) ∧
        ((s.record c).kind = .modulated → (s.record c).source = .heatDuty → s.osm.role = .console →
          (t.chan c).request = x.ain5.toNat * 9 / 1024) ∧
        ((s.record c).kind = .converter → (s.record c).source = .demand → (t.chan c).request = min (s.record c).rated
          (if s.osm.role = .traction ∧ (s.record c).demandInput = 1 then w.signedDraw
            else readingOf x (s.record c).demandInput)))) ∧
  (∀ (i : Fin 12) (level : Bool) (c : Fin 4) (s : State), s.osm.op = .listening ∨ s.osm.op = .active → s.din i.val ≠ level →
    (s.record c).present = true → (s.record c).input = i.val → (s.record c).source = .din →
    ∃ t, exec (.digitalInputChange i level) s = .next t ∧ (t.osm.op = s.osm.op →
      ((s.record c).kind = .switched → (t.chan c).request = if level then 1 else 0) ∧
      ((s.record c).kind = .modulated → (t.chan c).request = if level then 8 else 0) ∧
      ((s.record c).kind = .timed → (t.chan c).state ≠ .inhibited → t.pwu = s.pwu → t.cc.cuts = s.cc.cuts → level = true →
        (t.chan c).request = 1 ∧
        (t.chan c).cycle = if (s.chan c).cyclePending then (s.chan c).cycle else 1000 * (s.record c).cycle))) ∧
  ∀ (c : Fin 4) (s : State), s.Working → s.DriverSettled → s.LoadsSettled → (s.record c).present = true →
    ((s.chan c).state = .starting → 200 ≤ (s.chan c).minOn → ∃ t, exec (.startingComplete c) s = .next t ∧
      (t.chan c).state = .on ∧ ∀ d, d ≠ c → (t.chan d).state = (s.chan d).state) ∧
    ((s.chan c).state = .on → (s.chan c).request = 0 → (s.record c).minOnMs ≤ (s.chan c).minOn →
      ∃ t, exec (.minOnElapsed c) s = .next t ∧ (t.chan c).state = .waiting ∧ (t.chan c).minOff = 0 ∧
        ∀ d, d ≠ c → (t.chan d).state = (s.chan d).state) ∧
    ((s.chan c).state = .waiting → (s.chan c).request = 0 → (s.record c).minOffMs ≤ (s.chan c).minOff →
      ∃ t, exec (.minOffElapsed c) s = .next t ∧ (t.chan c).state = .off)

/-- Every step keeps the interlock array as the rules form it from the present state (R155 to R158), with a channel INHIBITED
exactly while an output reaches it (R148), and the output pins as the state gives them: the pulls (R66), the channel outputs
(R149), the lamps and the buzzer (R174) and WAKE_REQ (R200). The setpoint output's duty is kept as R44 and R45 work it out. -/
def Obligations.StepKeepsInterlockAndOutputs : Prop :=
  ∀ s t : State, s.PlacedOk → s.ActiveOk → s.InterlockOk → s.OutOk → step s = .next t → t.InterlockOk ∧ t.OutOk

/-- CARRIER_SLOT_BOUNDARY, FLASH_CLOCK_PHASE and SPECIAL_WORK_TAIL_EXPIRY (R149, R174, R177): the next slot begins and
each channel's window takes its duties; the flash clock passes to its other half; the special-work flag goes off, in FAULTED
too, where the console functions act. -/
def Obligations.ClockPhases : Prop :=
  (∀ s : State, s.lcm.carrierOn = true → 125 ≤ s.lcm.slotClock → ∃ t, exec .carrierSlotBoundary s = .next t ∧
    t.lcm.slot = (s.lcm.slot + 1) % 8 ∧ t.lcm.slotClock = s.lcm.slotClock - 125 ∧
    (∀ c, t.chan c = { s.chan c with winDuty := (s.chan c).duty, winSink := (s.chan c).sinkDuty }) ∧
    t.ae = s.ae ∧ t.cc = s.cc ∧ t.au = s.au) ∧
  (∀ s : State, s.cf.flashRuns = true → 500 ≤ s.cf.flashClock → ∃ t, exec .flashClockPhase s = .next t ∧
    t.cf = { s.cf with flashOn := !s.cf.flashOn, flashClock := s.cf.flashClock - 500 } ∧ t.au = s.au ∧ t.ae = s.ae) ∧
  (∀ (k : Nat) (s : State), s.osm.op.serves = true ∨ s.osm.op = .faulted → s.cf.tail = some k → 2000 ≤ k →
    ∃ t, exec .specialWorkTailExpiry s = .next t ∧ t.cf.special = false ∧ t.cf.tail = none)

/-- TRANSMIT_START (R118, R182, R183): the urgent frame that has waited longest is sent, else the command that has, else the
beacon slot's, a beacon with the cut list as it stands; it leaves its waiting place. ARBITRATION_LOST: the frame waits again
at the front of its slot, in the beacon slot unless a newer one waits there; one that has lost its place while it was driven
is gone, and the urgent frame it displaced stays (the model's reading of R183 and R192, log entry 26). TRANSMIT_ABORT: the
frame stays waiting behind a back-off of 0 to 15 bit times. In DORMANT, where no frame waits, either leaves the frame discarded
(the model's reading of R182 and R183, log entry 27). TRANSMIT_COMPLETE: the frame has left
its slot. A third urgent frame takes the place of the oldest. Where no frame is driven, ARBITRATION_LOST, TRANSMIT_ABORT and
TRANSMIT_COMPLETE are no events of the line and change nothing (the model's choice, log entry 2), and a TRANSMIT_START sets the
back-off to 0 (the model's choice, log entry 90). -/
def Obligations.FramesAreSent : Prop :=
  (∀ (m n : Message) (l : List Message) (s : State), s.osm.op.composes = true → s.osm.number ≠ 0 → s.bus.sending = none →
    (∀ b, m = .beacon b → n = .beacon { b with cuts := s.ownCuts }) → ((∀ b, m ≠ .beacon b) → n = m) →
    (s.bus.urgentSlots = m :: l → exec .transmitStart s = .next (s.withBus { s.bus with
      urgentSlots := l, sending := some ⟨.urgent, n, encode s.osm.number n, false, none⟩, backoff := 0 })) ∧
    (s.bus.urgentSlots = [] → s.bus.commandSlots = m :: l → exec .transmitStart s = .next (s.withBus { s.bus with
      commandSlots := l, sending := some ⟨.command, n, encode s.osm.number n, false, none⟩, backoff := 0 })) ∧
    (s.bus.urgentSlots = [] → s.bus.commandSlots = [] → s.bus.beaconSlot = some m →
      exec .transmitStart s = .next (s.withBus { s.bus with
        beaconSlot := none, sending := some ⟨.beacon, n, encode s.osm.number n, false, none⟩, backoff := 0 }))) ∧
  (∀ (x : Sending) (s : State), s.bus.sending = some x →
    (s.osm.op = .dormant → exec .arbitrationLost s = .next (s.withBus { s.bus with sending := none })) ∧
    (s.osm.op ≠ .dormant → exec .arbitrationLost s = .next (s.withBus
      (match x.slot, x.dropped with
        | .urgent, false => { s.bus with sending := none, urgentSlots := x.message :: s.bus.urgentSlots }
        | .command, false => { s.bus with sending := none, commandSlots := x.message :: s.bus.commandSlots }
        | .beacon, false => { s.bus with sending := none, beaconSlot := some (s.bus.beaconSlot.getD x.message) }
        | .urgent, true => { s.bus with sending := none, urgentSlots := x.displaced.toList ++ s.bus.urgentSlots }
        | .command, true => { s.bus with sending := none }
        | .beacon, true => { s.bus with sending := none }))) ∧
    ∃ n, n ≤ 15 ∧ exec .transmitAbort s = .next ((s.withBus
      (match s.osm.op, x.slot with
        | .dormant, _ => { s.bus with sending := none, backoff := n }
        | _, .urgent => { s.bus with sending := none, backoff := n, urgentSlots := x.message :: s.bus.urgentSlots }
        | _, .command => { s.bus with sending := none, backoff := n, commandSlots := x.message :: s.bus.commandSlots }
        | _, .beacon => { s.bus with sending := none, backoff := n,
                                     beaconSlot := some (s.bus.beaconSlot.getD x.message) })).withFreeCount
      (s.freeCount + 1))) ∧
  (∀ s : State, exec .transmitComplete s = .next (s.withBus { s.bus with sending := none })) ∧
  (∀ s : State, s.bus.sending = none → exec .arbitrationLost s = .next s ∧ exec .transmitAbort s = .next s) ∧
  ∀ (m : Message) (s : State), s.QueuesOk → (s.pushUrgent m).QueuesOk ∧
    (s.pushUrgent m).bus.urgentSlots.getLast? = some m ∧
    (s.bus.urgentSlots.length + s.bus.driven .urgent < 2 → (s.pushUrgent m).bus.urgentSlots = s.bus.urgentSlots ++ [m]) ∧
    (s.bus.urgentSlots.length = 2 → (s.pushUrgent m).bus.urgentSlots = s.bus.urgentSlots.drop 1 ++ [m])

/-- READ_IMAGE, READ_BUSY, READ_SNAPSHOT (R201): the answers outside DORMANT, BUSY for the image during a page write, and
REFUSED to every operation in DORMANT; a read changes nothing else. The snapshot shows, at the moment of the read: the settled
values with the channel records, the terms and the key source (R196), the table and the counted claims with their grants (R19),
G_reg, B, Ureg and ΣS (R58), the computed shares and the applied sink share (R62), the pulls (R66) and the pole watch unit (R67,
R68, R93), the cut controller (R132), each channel's state with r' and its current, the shed list in order with the positions,
the start spacing, the reserved current, the slot and the claims (R154), the interlock array (R163), the alarm table and, at the
console, the console functions (R180). The model's reading: r' of a channel that is not MODULATED (log entry 77). -/
def Obligations.PortIsRead : Prop :=
  ∀ s : State,
    (s.osm.op ≠ .dormant →
      exec .readImage s = .next (s.withPort
        (if s.cs.write = none then .image ((List.range 256).map (fun a => s.cs.image.read a)) else .busy)) ∧
      exec .readBusy s = .next (s.withPort (.busyState s.cs.write.isSome s.cs.outcome s.cs.mark)) ∧
      ∃ d, exec .readSnapshot s = .next (s.withPort (.snapshot d)) ∧
        d.settings = s.settings ∧ d.table = s.pvt ∧ d.grants = s.ae.grants ∧ d.grant = s.ae.grant ∧
        d.regenGrant = s.ae.regenGrant ∧ d.absorption = s.ae.absorption ∧ d.usableRegen = s.ae.usableRegen ∧
        d.sinkTotal = s.ae.sinkTotal ∧ d.shares = s.ae.shares ∧
        d.appliedShare = (channelNumbers.map (fun c => if s.isSink c then
          (s.record c).rated * ((s.chan c).duty + (s.chan c).sinkDuty) / 8 - (s.record c).rated * (s.chan c).duty / 8
          else 0)).sum + s.lcm.batteryPart ∧
        d.pullPos = s.out.pullPos ∧ d.pullNeg = s.out.pullNeg ∧ d.poles = s.pwu ∧ d.cuts = s.cc ∧
        d.channels.length = 4 ∧ (∀ (c : Fin 4) (v : ChannelView), d.channels[c.val]? = some v → v.run = s.chan c ∧
          v.effective = min (s.chan c).request (s.chan c).cap ∧ v.current = s.current c) ∧
        d.shedList.Pairwise (fun a b => a.position ≤ b.position ∧ a.channel ≠ b.channel) ∧
        (∀ a : Placed, a ∈ d.shedList ↔ s.onList a.channel = true ∧ a.position = (s.chan a.channel).position) ∧
        d.spacing = s.lcm.spacing ∧ d.reserved = s.reservedCurrent ∧ d.slot = s.lcm.slot ∧ d.claims = s.lcm.claims ∧
        d.interlock = s.ia ∧ d.alarms = s.au.entries ∧ d.overflow = s.au.overflow ∧
        (s.osm.role ≠ .console → d.console = none) ∧
        (s.osm.role = .console → d.console = some {
          inputs := [s.din 0, s.din 1, s.din 2, s.din 3, s.din 4, s.din 5, s.din 6, s.din 7, s.din 8],
          special := s.cf.special, tail := s.cf.tail, heat := s.cf.heat, commandCounter := s.cf.commandCounter,
          criticalLamp := s.out.criticalLamp, warningLamp := s.out.warningLamp, overflowLamp := s.out.overflowLamp,
          buzzer := s.out.buzzer, flashOn := s.cf.flashOn })) ∧
    (s.osm.op = .dormant →
      exec .readImage s = .next (s.withPort .refused) ∧ exec .readBusy s = .next (s.withPort .refused) ∧
      exec .readSnapshot s = .next (s.withPort .refused) ∧
      ∀ p b w, ∃ t, exec (.writePage p b w) s = .next t ∧ t.port = .refused ∧ t.osm = s.osm)

/-- WRITE_PAGE, PAGE_WRITE_COMPLETE and COLD_RESET upon a page write (R202): a write is judged by the state, WP and the write
under way, sets the busy flag and the mark where it begins, and 5 ms later leaves its 16 bytes in the page, the mark and the
busy flag clear and the outcome DONE; every other byte of the image, in its canonical form, stays; a cold reset keeps the
mark, and a set mark sends LOADING into FAULTED. The model's choices: the outcome unchanged where a write begins (log entry 42),
IGNORED_STATE in DORMANT (log entry 40), no effect before 5 ms (log entry 2), WP judged before a write under way (log entry
75). -/
def Obligations.PageIsWritten : Prop :=
  (∀ (p : Fin 16) (b : Vector Byte 16) (w : Bool) (s : State), ∃ t, exec (.writePage p b w) s = .next t ∧
    t = ((s.withCs t.cs).withPort t.port).withFreeCount t.freeCount ∧
    (s.osm.op ≠ .maintenance → t.cs = { s.cs with outcome := .ignoredState }) ∧
    (s.osm.op = .maintenance → w = true → t.cs = { s.cs with outcome := .ignoredProtected }) ∧
    (s.osm.op = .maintenance → w = false → s.cs.write ≠ none → t.cs = { s.cs with outcome := .ignoredBusy }) ∧
    (s.osm.op = .maintenance → w = false → s.cs.write = none →
      t.cs = { s.cs with write := some ⟨p, b, 0⟩, mark := true })) ∧
  (∀ (x : PageWrite) (s : State), s.cs.write = some x → 5 ≤ x.elapsed → s.cs.image.wf = true →
    ∃ t, exec .pageWriteComplete s = .next t ∧
    t = s.withCs t.cs ∧ t.cs.write = none ∧ t.cs.mark = false ∧ t.cs.outcome = .done ∧
    (∀ i : Fin 16, t.cs.image.read (16 * x.page.val + i.val) = x.bytes[i]) ∧
    (∀ a, ¬ (16 * x.page.val ≤ a ∧ a < 16 * x.page.val + 16) → t.cs.image.read a = s.cs.image.read a)) ∧
  (∀ (x : PageWrite) (s : State), s.cs.write = some x → x.elapsed < 5 → exec .pageWriteComplete s = .next s) ∧
  (∀ s : State, ∃ t, exec .coldReset s = .next t ∧ t.cs.write = none ∧ t.cs.mark = s.cs.mark ∧ t.cs.outcome = .none) ∧
  (∀ (x : Straps) (s : State), s.osm.op = .loading → s.cs.mark = true → x.cfgEn = false →
    ∃ t, exec (.loadingEnd x) s = .next t ∧ t.osm.op = .faulted)

/-- R142, R143, R145: an admission event leaves the current of the channels other than the converter within the applied draw,
and no channel in STARTING or ON where the applied draw is 0. One that finds the currents within an applied draw above 0 stops
no channel and lowers no duty, and starts one channel at most: while the phase and the start spacing allow a start, the first
on the shed list that can start, else the first in order of priority that is OFF and can start. One that sheds starts nothing
and raises no duty. R147: a channel shed within its min-on by an applied draw above 0 has SHORT_CYCLE in force; one shed with its
min-on reached has it cleared, and of every other channel the condition stands. R130, R137, R150: every step keeps the DRIVER cut with its input, the currents within the applied draw and
every request as its source gives it; with no inhibit the channels are settled. The model's readings: a channel on the shed list
that asks for nothing is passed over (log entry 22); the request is held as 0 in PATTERN, and in PARKED for a channel not
park-allowed (log entry 57), and a converter's before a first sample (log entry 31); a duty is held in STARTING and ON alone, and
is 0 in every other state (log entry 23). -/
def Obligations.AdmissionFits : Prop :=
  (∀ s : State, s.admission.load ≤ s.admission.ae.draw ∧ s.admission.ae.draw = s.ae.draw ∧
    (s.ae.draw = 0 → ∀ c, s.admission.runs c = false) ∧
    ((∃ c, s.runs c = true ∧ s.admission.runs c = false) → ∀ c, s.admission.runs c = true →
      s.runs c = true ∧ (s.admission.chan c).duty ≤ (s.chan c).duty) ∧
    (s.osm.op.alarmsTaken = true → ∀ c, s.admission.inForce .shortCycle c.val =
      if s.runs c = true ∧ s.admission.runs c = false then
        (if 1000 * (s.record c).minOn ≤ (s.chan c).minOn then false
        else if s.ae.draw = 0 then s.inForce .shortCycle c.val else true)
      else s.inForce .shortCycle c.val)) ∧
  (∀ s : State, s.load ≤ s.ae.draw → 0 < s.ae.draw →
    (∀ c, s.runs c = true → (s.admission.chan c).state = (s.chan c).state ∧ (s.chan c).duty ≤ (s.admission.chan c).duty) ∧
    (s.cc.phase = .held ∨ s.cc.phase = .offset ∨ (∀ c, s.onList c = true ∨ (s.chan c).state = .off → ¬ s.CanStart c) →
      ∀ c, (s.admission.chan c).state = (s.chan c).state) ∧
    (s.cc.phase ≠ .held → s.cc.phase ≠ .offset →
      (∀ l c m, s.shedOrder = l ++ c :: m → (∀ d ∈ l, ¬ s.CanStart d) → s.CanStart c → s.StartsOne s.admission c) ∧
      ((∀ d, s.onList d = true → ¬ s.CanStart d) → ∀ l c m, s.byPriority = l ++ c :: m →
        (∀ d ∈ l, (s.chan d).state = .off → ¬ s.CanStart d) → (s.chan c).state = .off → s.CanStart c →
        s.StartsOne s.admission c))) ∧
  ∀ s t : State, s.PlacedOk → s.ForcedOk → s.ActiveOk → s.InterlockOk → s.CutsOk → s.LoadsOk →
    (s.osm.op.serves = true → s.DriverSettled) → step s = .next t →
    t.LoadsOk ∧ (t.osm.op.serves = true → t.DriverSettled) ∧
      (t.osm.op.runs = true → t.evaluated.outputs = noInhibits → t.LoadsSettled)

/-- R166: a raise of an own entry that exists counts it up to 255 and makes it ACTIVE_UNACK; one that does not exist is created
at count 1, after the removal that R166 makes for room, or not at all with the overflow flag set. R167: a
clear removes an entry in ACTIVE_ACK, makes one in ACTIVE_UNACK CLEARED_UNACK, and changes nothing else; a removal that leaves
12 entries or fewer clears the overflow flag (R172). A dewirement raises the POLE_DROP of its pole so, and anew at count 1 where
R168 has removed the entry (the model's choice beside R112, log entry 56). R172: in a full table a mirrored entry takes the
place of the oldest mirrored one of lower severity, or is not created and the flag is set. The model's own: the time of an entry
saturates (log entry 46), entries stand in the order of their creation (log entry 47), and the source is 0 where the straps read
0 (log entry 72). -/
def Obligations.AlarmRaiseAndClear : Prop :=
  ∀ (k : AlarmKind) (q : Nat) (s : State),
    ((∃ e ∈ s.au.entries, s.isOwnKey k q e = true) → (s.raiseOwn k q).au.entries = s.au.entries.map (fun e =>
      if s.isOwnKey k q e then { e with count := min 255 (e.count + 1), state := .activeUnack } else e)) ∧
    (∀ new : AlarmEntry, new = ⟨k, s.osm.number, q, s.severityOf k q, latchedKind k, .activeUnack, 1,
        min 4294967295 (s.osm.uptime / 1000), false, s.au.nextSeq⟩ → (∀ e ∈ s.au.entries, s.isOwnKey k q e = false) →
      ((s.au.entries.filter s.ownAlarm).length < 8 → s.au.entries.length < 16 →
        (s.raiseOwn k q).au.entries = s.au.entries ++ [new]) ∧
      ((s.au.entries.filter s.ownAlarm).length < 8 → 16 ≤ s.au.entries.length →
        ∃ x, s.au.entries.find? (fun e => !s.ownAlarm e) = some x ∧
          (s.raiseOwn k q).au.entries = s.au.entries.filter (fun e => e != x) ++ [new]) ∧
      (8 ≤ (s.au.entries.filter s.ownAlarm).length →
        match s.au.entries.find? (fun e => s.ownAlarm e && !e.latched && e.state == .clearedUnack) with
        | some x => (s.raiseOwn k q).au.entries = s.au.entries.filter (fun e => e != x) ++ [new]
        | none => match s.au.entries.find? (fun e => s.ownAlarm e && !e.latched && e.state == .activeAck) with
          | some x => (s.raiseOwn k q).au.entries = s.au.entries.filter (fun e => e != x) ++ [new]
          | none => (s.raiseOwn k q).au.entries = s.au.entries ∧ (s.raiseOwn k q).au.overflow = true)) ∧
    (s.clearOwn k q).au.entries =
      (s.au.entries.filter (fun e => !(s.isOwnKey k q e && e.state == .activeAck))).map (fun e =>
        if s.isOwnKey k q e && e.state == .activeUnack then { e with state := .clearedUnack } else e) ∧
    ((s.clearOwn k q).au.overflow = true ↔ s.au.overflow = true ∧
      ((∃ e ∈ s.au.entries, s.isOwnKey k q e = true ∧ e.state = .activeAck) → 12 < (s.clearOwn k q).au.entries.length)) ∧
    (∀ p : Pole, s.AlarmsOk → s.osm.op.alarmsTaken = true →
      (s.raiseDrop p).inForce .poleDrop (poleCode p) = true ∧
      ∀ e ∈ (s.raiseDrop p).au.entries, (s.raiseDrop p).isOwnKey .poleDrop (poleCode p) e = true →
        e.state = .activeUnack ∧
        ((∀ x ∈ s.au.entries, s.isOwnKey .poleDrop (poleCode p) x = false) → e.count = 1) ∧
        ∀ x ∈ s.au.entries, s.isOwnKey .poleDrop (poleCode p) x = true → e.count = min 255 (x.count + 1)) ∧
    ∀ new : AlarmEntry,
      (s.au.entries.length < 16 → (s.createMirror new).au.entries = s.au.entries ++ [{ new with sequence := s.au.nextSeq }]) ∧
      (16 ≤ s.au.entries.length →
        match s.au.entries.find? (fun x => !s.ownAlarm x && decide (x.severity.rank < new.severity.rank)) with
        | some x => (s.createMirror new).au.entries =
            s.au.entries.filter (fun e => e != x) ++ [{ new with sequence := s.au.nextSeq }]
        | none => (s.createMirror new).au.entries = s.au.entries ∧ (s.createMirror new).au.overflow = true)
end

