-- ==== Sys2Proof/Laws/State.lean ====
section
/-! SUPPORT. State.lean: one lemma per field per update of the state, so that no later proof unfolds a record update. -/

namespace Sys2Proof.Machine

@[simp] theorem State.withSettings_settings (s : State) (x : Settings) : (s.withSettings x).settings = x := rfl
@[simp] theorem State.withSettings_osm (s : State) (x : Settings) : (s.withSettings x).osm = s.osm := rfl
@[simp] theorem State.withSettings_su (s : State) (x : Settings) : (s.withSettings x).su = s.su := rfl
@[simp] theorem State.withSettings_pvt (s : State) (x : Settings) : (s.withSettings x).pvt = s.pvt := rfl
@[simp] theorem State.withSettings_ae (s : State) (x : Settings) : (s.withSettings x).ae = s.ae := rfl
@[simp] theorem State.withSettings_cc (s : State) (x : Settings) : (s.withSettings x).cc = s.cc := rfl
@[simp] theorem State.withSettings_lcm (s : State) (x : Settings) : (s.withSettings x).lcm = s.lcm := rfl
@[simp] theorem State.withSettings_pwu (s : State) (x : Settings) : (s.withSettings x).pwu = s.pwu := rfl
@[simp] theorem State.withSettings_ia (s : State) (x : Settings) : (s.withSettings x).ia = s.ia := rfl
@[simp] theorem State.withSettings_au (s : State) (x : Settings) : (s.withSettings x).au = s.au := rfl
@[simp] theorem State.withSettings_cf (s : State) (x : Settings) : (s.withSettings x).cf = s.cf := rfl
@[simp] theorem State.withSettings_bif (s : State) (x : Settings) : (s.withSettings x).bus = s.bus := rfl
@[simp] theorem State.withSettings_cs (s : State) (x : Settings) : (s.withSettings x).cs = s.cs := rfl
@[simp] theorem State.withSettings_port (s : State) (x : Settings) : (s.withSettings x).port = s.port := rfl
@[simp] theorem State.withSettings_out (s : State) (x : Settings) : (s.withSettings x).out = s.out := rfl
@[simp] theorem State.withSettings_freeCount (s : State) (x : Settings) : (s.withSettings x).freeCount = s.freeCount := rfl
@[simp] theorem State.withSettings_pending (s : State) (x : Settings) : (s.withSettings x).pending = s.pending := rfl
@[simp] theorem State.withOsm_settings (s : State) (x : OpMachine) : (s.withOsm x).settings = s.settings := rfl
@[simp] theorem State.withOsm_osm (s : State) (x : OpMachine) : (s.withOsm x).osm = x := rfl
@[simp] theorem State.withOsm_su (s : State) (x : OpMachine) : (s.withOsm x).su = s.su := rfl
@[simp] theorem State.withOsm_pvt (s : State) (x : OpMachine) : (s.withOsm x).pvt = s.pvt := rfl
@[simp] theorem State.withOsm_ae (s : State) (x : OpMachine) : (s.withOsm x).ae = s.ae := rfl
@[simp] theorem State.withOsm_cc (s : State) (x : OpMachine) : (s.withOsm x).cc = s.cc := rfl
@[simp] theorem State.withOsm_lcm (s : State) (x : OpMachine) : (s.withOsm x).lcm = s.lcm := rfl
@[simp] theorem State.withOsm_pwu (s : State) (x : OpMachine) : (s.withOsm x).pwu = s.pwu := rfl
@[simp] theorem State.withOsm_ia (s : State) (x : OpMachine) : (s.withOsm x).ia = s.ia := rfl
@[simp] theorem State.withOsm_au (s : State) (x : OpMachine) : (s.withOsm x).au = s.au := rfl
@[simp] theorem State.withOsm_cf (s : State) (x : OpMachine) : (s.withOsm x).cf = s.cf := rfl
@[simp] theorem State.withOsm_bif (s : State) (x : OpMachine) : (s.withOsm x).bus = s.bus := rfl
@[simp] theorem State.withOsm_cs (s : State) (x : OpMachine) : (s.withOsm x).cs = s.cs := rfl
@[simp] theorem State.withOsm_port (s : State) (x : OpMachine) : (s.withOsm x).port = s.port := rfl
@[simp] theorem State.withOsm_out (s : State) (x : OpMachine) : (s.withOsm x).out = s.out := rfl
@[simp] theorem State.withOsm_freeCount (s : State) (x : OpMachine) : (s.withOsm x).freeCount = s.freeCount := rfl
@[simp] theorem State.withOsm_pending (s : State) (x : OpMachine) : (s.withOsm x).pending = s.pending := rfl
@[simp] theorem State.withSu_settings (s : State) (x : SampleUnit) : (s.withSu x).settings = s.settings := rfl
@[simp] theorem State.withSu_osm (s : State) (x : SampleUnit) : (s.withSu x).osm = s.osm := rfl
@[simp] theorem State.withSu_su (s : State) (x : SampleUnit) : (s.withSu x).su = x := rfl
@[simp] theorem State.withSu_pvt (s : State) (x : SampleUnit) : (s.withSu x).pvt = s.pvt := rfl
@[simp] theorem State.withSu_ae (s : State) (x : SampleUnit) : (s.withSu x).ae = s.ae := rfl
@[simp] theorem State.withSu_cc (s : State) (x : SampleUnit) : (s.withSu x).cc = s.cc := rfl
@[simp] theorem State.withSu_lcm (s : State) (x : SampleUnit) : (s.withSu x).lcm = s.lcm := rfl
@[simp] theorem State.withSu_pwu (s : State) (x : SampleUnit) : (s.withSu x).pwu = s.pwu := rfl
@[simp] theorem State.withSu_ia (s : State) (x : SampleUnit) : (s.withSu x).ia = s.ia := rfl
@[simp] theorem State.withSu_au (s : State) (x : SampleUnit) : (s.withSu x).au = s.au := rfl
@[simp] theorem State.withSu_cf (s : State) (x : SampleUnit) : (s.withSu x).cf = s.cf := rfl
@[simp] theorem State.withSu_bif (s : State) (x : SampleUnit) : (s.withSu x).bus = s.bus := rfl
@[simp] theorem State.withSu_cs (s : State) (x : SampleUnit) : (s.withSu x).cs = s.cs := rfl
@[simp] theorem State.withSu_port (s : State) (x : SampleUnit) : (s.withSu x).port = s.port := rfl
@[simp] theorem State.withSu_out (s : State) (x : SampleUnit) : (s.withSu x).out = s.out := rfl
@[simp] theorem State.withSu_freeCount (s : State) (x : SampleUnit) : (s.withSu x).freeCount = s.freeCount := rfl
@[simp] theorem State.withSu_pending (s : State) (x : SampleUnit) : (s.withSu x).pending = s.pending := rfl
@[simp] theorem State.withPvt_settings (s : State) (x : PeerTable) : (s.withPvt x).settings = s.settings := rfl
@[simp] theorem State.withPvt_osm (s : State) (x : PeerTable) : (s.withPvt x).osm = s.osm := rfl
@[simp] theorem State.withPvt_su (s : State) (x : PeerTable) : (s.withPvt x).su = s.su := rfl
@[simp] theorem State.withPvt_pvt (s : State) (x : PeerTable) : (s.withPvt x).pvt = x := rfl
@[simp] theorem State.withPvt_ae (s : State) (x : PeerTable) : (s.withPvt x).ae = s.ae := rfl
@[simp] theorem State.withPvt_cc (s : State) (x : PeerTable) : (s.withPvt x).cc = s.cc := rfl
@[simp] theorem State.withPvt_lcm (s : State) (x : PeerTable) : (s.withPvt x).lcm = s.lcm := rfl
@[simp] theorem State.withPvt_pwu (s : State) (x : PeerTable) : (s.withPvt x).pwu = s.pwu := rfl
@[simp] theorem State.withPvt_ia (s : State) (x : PeerTable) : (s.withPvt x).ia = s.ia := rfl
@[simp] theorem State.withPvt_au (s : State) (x : PeerTable) : (s.withPvt x).au = s.au := rfl
@[simp] theorem State.withPvt_cf (s : State) (x : PeerTable) : (s.withPvt x).cf = s.cf := rfl
@[simp] theorem State.withPvt_bif (s : State) (x : PeerTable) : (s.withPvt x).bus = s.bus := rfl
@[simp] theorem State.withPvt_cs (s : State) (x : PeerTable) : (s.withPvt x).cs = s.cs := rfl
@[simp] theorem State.withPvt_port (s : State) (x : PeerTable) : (s.withPvt x).port = s.port := rfl
@[simp] theorem State.withPvt_out (s : State) (x : PeerTable) : (s.withPvt x).out = s.out := rfl
@[simp] theorem State.withPvt_freeCount (s : State) (x : PeerTable) : (s.withPvt x).freeCount = s.freeCount := rfl
@[simp] theorem State.withPvt_pending (s : State) (x : PeerTable) : (s.withPvt x).pending = s.pending := rfl
@[simp] theorem State.withAe_settings (s : State) (x : Allotment) : (s.withAe x).settings = s.settings := rfl
@[simp] theorem State.withAe_osm (s : State) (x : Allotment) : (s.withAe x).osm = s.osm := rfl
@[simp] theorem State.withAe_su (s : State) (x : Allotment) : (s.withAe x).su = s.su := rfl
@[simp] theorem State.withAe_pvt (s : State) (x : Allotment) : (s.withAe x).pvt = s.pvt := rfl
@[simp] theorem State.withAe_ae (s : State) (x : Allotment) : (s.withAe x).ae = x := rfl
@[simp] theorem State.withAe_cc (s : State) (x : Allotment) : (s.withAe x).cc = s.cc := rfl
@[simp] theorem State.withAe_lcm (s : State) (x : Allotment) : (s.withAe x).lcm = s.lcm := rfl
@[simp] theorem State.withAe_pwu (s : State) (x : Allotment) : (s.withAe x).pwu = s.pwu := rfl
@[simp] theorem State.withAe_ia (s : State) (x : Allotment) : (s.withAe x).ia = s.ia := rfl
@[simp] theorem State.withAe_au (s : State) (x : Allotment) : (s.withAe x).au = s.au := rfl
@[simp] theorem State.withAe_cf (s : State) (x : Allotment) : (s.withAe x).cf = s.cf := rfl
@[simp] theorem State.withAe_bif (s : State) (x : Allotment) : (s.withAe x).bus = s.bus := rfl
@[simp] theorem State.withAe_cs (s : State) (x : Allotment) : (s.withAe x).cs = s.cs := rfl
@[simp] theorem State.withAe_port (s : State) (x : Allotment) : (s.withAe x).port = s.port := rfl
@[simp] theorem State.withAe_out (s : State) (x : Allotment) : (s.withAe x).out = s.out := rfl
@[simp] theorem State.withAe_freeCount (s : State) (x : Allotment) : (s.withAe x).freeCount = s.freeCount := rfl
@[simp] theorem State.withAe_pending (s : State) (x : Allotment) : (s.withAe x).pending = s.pending := rfl
@[simp] theorem State.withCc_settings (s : State) (x : CutUnit) : (s.withCc x).settings = s.settings := rfl
@[simp] theorem State.withCc_osm (s : State) (x : CutUnit) : (s.withCc x).osm = s.osm := rfl
@[simp] theorem State.withCc_su (s : State) (x : CutUnit) : (s.withCc x).su = s.su := rfl
@[simp] theorem State.withCc_pvt (s : State) (x : CutUnit) : (s.withCc x).pvt = s.pvt := rfl
@[simp] theorem State.withCc_ae (s : State) (x : CutUnit) : (s.withCc x).ae = s.ae := rfl
@[simp] theorem State.withCc_cc (s : State) (x : CutUnit) : (s.withCc x).cc = x := rfl
@[simp] theorem State.withCc_lcm (s : State) (x : CutUnit) : (s.withCc x).lcm = s.lcm := rfl
@[simp] theorem State.withCc_pwu (s : State) (x : CutUnit) : (s.withCc x).pwu = s.pwu := rfl
@[simp] theorem State.withCc_ia (s : State) (x : CutUnit) : (s.withCc x).ia = s.ia := rfl
@[simp] theorem State.withCc_au (s : State) (x : CutUnit) : (s.withCc x).au = s.au := rfl
@[simp] theorem State.withCc_cf (s : State) (x : CutUnit) : (s.withCc x).cf = s.cf := rfl
@[simp] theorem State.withCc_bif (s : State) (x : CutUnit) : (s.withCc x).bus = s.bus := rfl
@[simp] theorem State.withCc_cs (s : State) (x : CutUnit) : (s.withCc x).cs = s.cs := rfl
@[simp] theorem State.withCc_port (s : State) (x : CutUnit) : (s.withCc x).port = s.port := rfl
@[simp] theorem State.withCc_out (s : State) (x : CutUnit) : (s.withCc x).out = s.out := rfl
@[simp] theorem State.withCc_freeCount (s : State) (x : CutUnit) : (s.withCc x).freeCount = s.freeCount := rfl
@[simp] theorem State.withCc_pending (s : State) (x : CutUnit) : (s.withCc x).pending = s.pending := rfl
@[simp] theorem State.withLcm_settings (s : State) (x : LoadUnit) : (s.withLcm x).settings = s.settings := rfl
@[simp] theorem State.withLcm_osm (s : State) (x : LoadUnit) : (s.withLcm x).osm = s.osm := rfl
@[simp] theorem State.withLcm_su (s : State) (x : LoadUnit) : (s.withLcm x).su = s.su := rfl
@[simp] theorem State.withLcm_pvt (s : State) (x : LoadUnit) : (s.withLcm x).pvt = s.pvt := rfl
@[simp] theorem State.withLcm_ae (s : State) (x : LoadUnit) : (s.withLcm x).ae = s.ae := rfl
@[simp] theorem State.withLcm_cc (s : State) (x : LoadUnit) : (s.withLcm x).cc = s.cc := rfl
@[simp] theorem State.withLcm_lcm (s : State) (x : LoadUnit) : (s.withLcm x).lcm = x := rfl
@[simp] theorem State.withLcm_pwu (s : State) (x : LoadUnit) : (s.withLcm x).pwu = s.pwu := rfl
@[simp] theorem State.withLcm_ia (s : State) (x : LoadUnit) : (s.withLcm x).ia = s.ia := rfl
@[simp] theorem State.withLcm_au (s : State) (x : LoadUnit) : (s.withLcm x).au = s.au := rfl
@[simp] theorem State.withLcm_cf (s : State) (x : LoadUnit) : (s.withLcm x).cf = s.cf := rfl
@[simp] theorem State.withLcm_bif (s : State) (x : LoadUnit) : (s.withLcm x).bus = s.bus := rfl
@[simp] theorem State.withLcm_cs (s : State) (x : LoadUnit) : (s.withLcm x).cs = s.cs := rfl
@[simp] theorem State.withLcm_port (s : State) (x : LoadUnit) : (s.withLcm x).port = s.port := rfl
@[simp] theorem State.withLcm_out (s : State) (x : LoadUnit) : (s.withLcm x).out = s.out := rfl
@[simp] theorem State.withLcm_freeCount (s : State) (x : LoadUnit) : (s.withLcm x).freeCount = s.freeCount := rfl
@[simp] theorem State.withLcm_pending (s : State) (x : LoadUnit) : (s.withLcm x).pending = s.pending := rfl
@[simp] theorem State.withPwu_settings (s : State) (x : PoleUnit) : (s.withPwu x).settings = s.settings := rfl
@[simp] theorem State.withPwu_osm (s : State) (x : PoleUnit) : (s.withPwu x).osm = s.osm := rfl
@[simp] theorem State.withPwu_su (s : State) (x : PoleUnit) : (s.withPwu x).su = s.su := rfl
@[simp] theorem State.withPwu_pvt (s : State) (x : PoleUnit) : (s.withPwu x).pvt = s.pvt := rfl
@[simp] theorem State.withPwu_ae (s : State) (x : PoleUnit) : (s.withPwu x).ae = s.ae := rfl
@[simp] theorem State.withPwu_cc (s : State) (x : PoleUnit) : (s.withPwu x).cc = s.cc := rfl
@[simp] theorem State.withPwu_lcm (s : State) (x : PoleUnit) : (s.withPwu x).lcm = s.lcm := rfl
@[simp] theorem State.withPwu_pwu (s : State) (x : PoleUnit) : (s.withPwu x).pwu = x := rfl
@[simp] theorem State.withPwu_ia (s : State) (x : PoleUnit) : (s.withPwu x).ia = s.ia := rfl
@[simp] theorem State.withPwu_au (s : State) (x : PoleUnit) : (s.withPwu x).au = s.au := rfl
@[simp] theorem State.withPwu_cf (s : State) (x : PoleUnit) : (s.withPwu x).cf = s.cf := rfl
@[simp] theorem State.withPwu_bif (s : State) (x : PoleUnit) : (s.withPwu x).bus = s.bus := rfl
@[simp] theorem State.withPwu_cs (s : State) (x : PoleUnit) : (s.withPwu x).cs = s.cs := rfl
@[simp] theorem State.withPwu_port (s : State) (x : PoleUnit) : (s.withPwu x).port = s.port := rfl
@[simp] theorem State.withPwu_out (s : State) (x : PoleUnit) : (s.withPwu x).out = s.out := rfl
@[simp] theorem State.withPwu_freeCount (s : State) (x : PoleUnit) : (s.withPwu x).freeCount = s.freeCount := rfl
@[simp] theorem State.withPwu_pending (s : State) (x : PoleUnit) : (s.withPwu x).pending = s.pending := rfl
@[simp] theorem State.withIa_settings (s : State) (x : Interlock) : (s.withIa x).settings = s.settings := rfl
@[simp] theorem State.withIa_osm (s : State) (x : Interlock) : (s.withIa x).osm = s.osm := rfl
@[simp] theorem State.withIa_su (s : State) (x : Interlock) : (s.withIa x).su = s.su := rfl
@[simp] theorem State.withIa_pvt (s : State) (x : Interlock) : (s.withIa x).pvt = s.pvt := rfl
@[simp] theorem State.withIa_ae (s : State) (x : Interlock) : (s.withIa x).ae = s.ae := rfl
@[simp] theorem State.withIa_cc (s : State) (x : Interlock) : (s.withIa x).cc = s.cc := rfl
@[simp] theorem State.withIa_lcm (s : State) (x : Interlock) : (s.withIa x).lcm = s.lcm := rfl
@[simp] theorem State.withIa_pwu (s : State) (x : Interlock) : (s.withIa x).pwu = s.pwu := rfl
@[simp] theorem State.withIa_ia (s : State) (x : Interlock) : (s.withIa x).ia = x := rfl
@[simp] theorem State.withIa_au (s : State) (x : Interlock) : (s.withIa x).au = s.au := rfl
@[simp] theorem State.withIa_cf (s : State) (x : Interlock) : (s.withIa x).cf = s.cf := rfl
@[simp] theorem State.withIa_bif (s : State) (x : Interlock) : (s.withIa x).bus = s.bus := rfl
@[simp] theorem State.withIa_cs (s : State) (x : Interlock) : (s.withIa x).cs = s.cs := rfl
@[simp] theorem State.withIa_port (s : State) (x : Interlock) : (s.withIa x).port = s.port := rfl
@[simp] theorem State.withIa_out (s : State) (x : Interlock) : (s.withIa x).out = s.out := rfl
@[simp] theorem State.withIa_freeCount (s : State) (x : Interlock) : (s.withIa x).freeCount = s.freeCount := rfl
@[simp] theorem State.withIa_pending (s : State) (x : Interlock) : (s.withIa x).pending = s.pending := rfl
@[simp] theorem State.withAu_settings (s : State) (x : AlarmUnit) : (s.withAu x).settings = s.settings := rfl
@[simp] theorem State.withAu_osm (s : State) (x : AlarmUnit) : (s.withAu x).osm = s.osm := rfl
@[simp] theorem State.withAu_su (s : State) (x : AlarmUnit) : (s.withAu x).su = s.su := rfl
@[simp] theorem State.withAu_pvt (s : State) (x : AlarmUnit) : (s.withAu x).pvt = s.pvt := rfl
@[simp] theorem State.withAu_ae (s : State) (x : AlarmUnit) : (s.withAu x).ae = s.ae := rfl
@[simp] theorem State.withAu_cc (s : State) (x : AlarmUnit) : (s.withAu x).cc = s.cc := rfl
@[simp] theorem State.withAu_lcm (s : State) (x : AlarmUnit) : (s.withAu x).lcm = s.lcm := rfl
@[simp] theorem State.withAu_pwu (s : State) (x : AlarmUnit) : (s.withAu x).pwu = s.pwu := rfl
@[simp] theorem State.withAu_ia (s : State) (x : AlarmUnit) : (s.withAu x).ia = s.ia := rfl
@[simp] theorem State.withAu_au (s : State) (x : AlarmUnit) : (s.withAu x).au = x := rfl
@[simp] theorem State.withAu_cf (s : State) (x : AlarmUnit) : (s.withAu x).cf = s.cf := rfl
@[simp] theorem State.withAu_bif (s : State) (x : AlarmUnit) : (s.withAu x).bus = s.bus := rfl
@[simp] theorem State.withAu_cs (s : State) (x : AlarmUnit) : (s.withAu x).cs = s.cs := rfl
@[simp] theorem State.withAu_port (s : State) (x : AlarmUnit) : (s.withAu x).port = s.port := rfl
@[simp] theorem State.withAu_out (s : State) (x : AlarmUnit) : (s.withAu x).out = s.out := rfl
@[simp] theorem State.withAu_freeCount (s : State) (x : AlarmUnit) : (s.withAu x).freeCount = s.freeCount := rfl
@[simp] theorem State.withAu_pending (s : State) (x : AlarmUnit) : (s.withAu x).pending = s.pending := rfl
@[simp] theorem State.withCf_settings (s : State) (x : ConsoleUnit) : (s.withCf x).settings = s.settings := rfl
@[simp] theorem State.withCf_osm (s : State) (x : ConsoleUnit) : (s.withCf x).osm = s.osm := rfl
@[simp] theorem State.withCf_su (s : State) (x : ConsoleUnit) : (s.withCf x).su = s.su := rfl
@[simp] theorem State.withCf_pvt (s : State) (x : ConsoleUnit) : (s.withCf x).pvt = s.pvt := rfl
@[simp] theorem State.withCf_ae (s : State) (x : ConsoleUnit) : (s.withCf x).ae = s.ae := rfl
@[simp] theorem State.withCf_cc (s : State) (x : ConsoleUnit) : (s.withCf x).cc = s.cc := rfl
@[simp] theorem State.withCf_lcm (s : State) (x : ConsoleUnit) : (s.withCf x).lcm = s.lcm := rfl
@[simp] theorem State.withCf_pwu (s : State) (x : ConsoleUnit) : (s.withCf x).pwu = s.pwu := rfl
@[simp] theorem State.withCf_ia (s : State) (x : ConsoleUnit) : (s.withCf x).ia = s.ia := rfl
@[simp] theorem State.withCf_au (s : State) (x : ConsoleUnit) : (s.withCf x).au = s.au := rfl
@[simp] theorem State.withCf_cf (s : State) (x : ConsoleUnit) : (s.withCf x).cf = x := rfl
@[simp] theorem State.withCf_bif (s : State) (x : ConsoleUnit) : (s.withCf x).bus = s.bus := rfl
@[simp] theorem State.withCf_cs (s : State) (x : ConsoleUnit) : (s.withCf x).cs = s.cs := rfl
@[simp] theorem State.withCf_port (s : State) (x : ConsoleUnit) : (s.withCf x).port = s.port := rfl
@[simp] theorem State.withCf_out (s : State) (x : ConsoleUnit) : (s.withCf x).out = s.out := rfl
@[simp] theorem State.withCf_freeCount (s : State) (x : ConsoleUnit) : (s.withCf x).freeCount = s.freeCount := rfl
@[simp] theorem State.withCf_pending (s : State) (x : ConsoleUnit) : (s.withCf x).pending = s.pending := rfl
@[simp] theorem State.withBus_settings (s : State) (x : BusUnit) : (s.withBus x).settings = s.settings := rfl
@[simp] theorem State.withBus_osm (s : State) (x : BusUnit) : (s.withBus x).osm = s.osm := rfl
@[simp] theorem State.withBus_su (s : State) (x : BusUnit) : (s.withBus x).su = s.su := rfl
@[simp] theorem State.withBus_pvt (s : State) (x : BusUnit) : (s.withBus x).pvt = s.pvt := rfl
@[simp] theorem State.withBus_ae (s : State) (x : BusUnit) : (s.withBus x).ae = s.ae := rfl
@[simp] theorem State.withBus_cc (s : State) (x : BusUnit) : (s.withBus x).cc = s.cc := rfl
@[simp] theorem State.withBus_lcm (s : State) (x : BusUnit) : (s.withBus x).lcm = s.lcm := rfl
@[simp] theorem State.withBus_pwu (s : State) (x : BusUnit) : (s.withBus x).pwu = s.pwu := rfl
@[simp] theorem State.withBus_ia (s : State) (x : BusUnit) : (s.withBus x).ia = s.ia := rfl
@[simp] theorem State.withBus_au (s : State) (x : BusUnit) : (s.withBus x).au = s.au := rfl
@[simp] theorem State.withBus_cf (s : State) (x : BusUnit) : (s.withBus x).cf = s.cf := rfl
@[simp] theorem State.withBus_bif (s : State) (x : BusUnit) : (s.withBus x).bus = x := rfl
@[simp] theorem State.withBus_cs (s : State) (x : BusUnit) : (s.withBus x).cs = s.cs := rfl
@[simp] theorem State.withBus_port (s : State) (x : BusUnit) : (s.withBus x).port = s.port := rfl
@[simp] theorem State.withBus_out (s : State) (x : BusUnit) : (s.withBus x).out = s.out := rfl
@[simp] theorem State.withBus_freeCount (s : State) (x : BusUnit) : (s.withBus x).freeCount = s.freeCount := rfl
@[simp] theorem State.withBus_pending (s : State) (x : BusUnit) : (s.withBus x).pending = s.pending := rfl
@[simp] theorem State.withCs_settings (s : State) (x : ConfigStore) : (s.withCs x).settings = s.settings := rfl
@[simp] theorem State.withCs_osm (s : State) (x : ConfigStore) : (s.withCs x).osm = s.osm := rfl
@[simp] theorem State.withCs_su (s : State) (x : ConfigStore) : (s.withCs x).su = s.su := rfl
@[simp] theorem State.withCs_pvt (s : State) (x : ConfigStore) : (s.withCs x).pvt = s.pvt := rfl
@[simp] theorem State.withCs_ae (s : State) (x : ConfigStore) : (s.withCs x).ae = s.ae := rfl
@[simp] theorem State.withCs_cc (s : State) (x : ConfigStore) : (s.withCs x).cc = s.cc := rfl
@[simp] theorem State.withCs_lcm (s : State) (x : ConfigStore) : (s.withCs x).lcm = s.lcm := rfl
@[simp] theorem State.withCs_pwu (s : State) (x : ConfigStore) : (s.withCs x).pwu = s.pwu := rfl
@[simp] theorem State.withCs_ia (s : State) (x : ConfigStore) : (s.withCs x).ia = s.ia := rfl
@[simp] theorem State.withCs_au (s : State) (x : ConfigStore) : (s.withCs x).au = s.au := rfl
@[simp] theorem State.withCs_cf (s : State) (x : ConfigStore) : (s.withCs x).cf = s.cf := rfl
@[simp] theorem State.withCs_bif (s : State) (x : ConfigStore) : (s.withCs x).bus = s.bus := rfl
@[simp] theorem State.withCs_cs (s : State) (x : ConfigStore) : (s.withCs x).cs = x := rfl
@[simp] theorem State.withCs_port (s : State) (x : ConfigStore) : (s.withCs x).port = s.port := rfl
@[simp] theorem State.withCs_out (s : State) (x : ConfigStore) : (s.withCs x).out = s.out := rfl
@[simp] theorem State.withCs_freeCount (s : State) (x : ConfigStore) : (s.withCs x).freeCount = s.freeCount := rfl
@[simp] theorem State.withCs_pending (s : State) (x : ConfigStore) : (s.withCs x).pending = s.pending := rfl
@[simp] theorem State.withPort_settings (s : State) (x : PortAnswer) : (s.withPort x).settings = s.settings := rfl
@[simp] theorem State.withPort_osm (s : State) (x : PortAnswer) : (s.withPort x).osm = s.osm := rfl
@[simp] theorem State.withPort_su (s : State) (x : PortAnswer) : (s.withPort x).su = s.su := rfl
@[simp] theorem State.withPort_pvt (s : State) (x : PortAnswer) : (s.withPort x).pvt = s.pvt := rfl
@[simp] theorem State.withPort_ae (s : State) (x : PortAnswer) : (s.withPort x).ae = s.ae := rfl
@[simp] theorem State.withPort_cc (s : State) (x : PortAnswer) : (s.withPort x).cc = s.cc := rfl
@[simp] theorem State.withPort_lcm (s : State) (x : PortAnswer) : (s.withPort x).lcm = s.lcm := rfl
@[simp] theorem State.withPort_pwu (s : State) (x : PortAnswer) : (s.withPort x).pwu = s.pwu := rfl
@[simp] theorem State.withPort_ia (s : State) (x : PortAnswer) : (s.withPort x).ia = s.ia := rfl
@[simp] theorem State.withPort_au (s : State) (x : PortAnswer) : (s.withPort x).au = s.au := rfl
@[simp] theorem State.withPort_cf (s : State) (x : PortAnswer) : (s.withPort x).cf = s.cf := rfl
@[simp] theorem State.withPort_bif (s : State) (x : PortAnswer) : (s.withPort x).bus = s.bus := rfl
@[simp] theorem State.withPort_cs (s : State) (x : PortAnswer) : (s.withPort x).cs = s.cs := rfl
@[simp] theorem State.withPort_port (s : State) (x : PortAnswer) : (s.withPort x).port = x := rfl
@[simp] theorem State.withPort_out (s : State) (x : PortAnswer) : (s.withPort x).out = s.out := rfl
@[simp] theorem State.withPort_freeCount (s : State) (x : PortAnswer) : (s.withPort x).freeCount = s.freeCount := rfl
@[simp] theorem State.withPort_pending (s : State) (x : PortAnswer) : (s.withPort x).pending = s.pending := rfl
@[simp] theorem State.withOut_settings (s : State) (x : Outputs) : (s.withOut x).settings = s.settings := rfl
@[simp] theorem State.withOut_osm (s : State) (x : Outputs) : (s.withOut x).osm = s.osm := rfl
@[simp] theorem State.withOut_su (s : State) (x : Outputs) : (s.withOut x).su = s.su := rfl
@[simp] theorem State.withOut_pvt (s : State) (x : Outputs) : (s.withOut x).pvt = s.pvt := rfl
@[simp] theorem State.withOut_ae (s : State) (x : Outputs) : (s.withOut x).ae = s.ae := rfl
@[simp] theorem State.withOut_cc (s : State) (x : Outputs) : (s.withOut x).cc = s.cc := rfl
@[simp] theorem State.withOut_lcm (s : State) (x : Outputs) : (s.withOut x).lcm = s.lcm := rfl
@[simp] theorem State.withOut_pwu (s : State) (x : Outputs) : (s.withOut x).pwu = s.pwu := rfl
@[simp] theorem State.withOut_ia (s : State) (x : Outputs) : (s.withOut x).ia = s.ia := rfl
@[simp] theorem State.withOut_au (s : State) (x : Outputs) : (s.withOut x).au = s.au := rfl
@[simp] theorem State.withOut_cf (s : State) (x : Outputs) : (s.withOut x).cf = s.cf := rfl
@[simp] theorem State.withOut_bif (s : State) (x : Outputs) : (s.withOut x).bus = s.bus := rfl
@[simp] theorem State.withOut_cs (s : State) (x : Outputs) : (s.withOut x).cs = s.cs := rfl
@[simp] theorem State.withOut_port (s : State) (x : Outputs) : (s.withOut x).port = s.port := rfl
@[simp] theorem State.withOut_out (s : State) (x : Outputs) : (s.withOut x).out = x := rfl
@[simp] theorem State.withOut_freeCount (s : State) (x : Outputs) : (s.withOut x).freeCount = s.freeCount := rfl
@[simp] theorem State.withOut_pending (s : State) (x : Outputs) : (s.withOut x).pending = s.pending := rfl
@[simp] theorem State.withFreeCount_settings (s : State) (x : Nat) : (s.withFreeCount x).settings = s.settings := rfl
@[simp] theorem State.withFreeCount_osm (s : State) (x : Nat) : (s.withFreeCount x).osm = s.osm := rfl
@[simp] theorem State.withFreeCount_su (s : State) (x : Nat) : (s.withFreeCount x).su = s.su := rfl
@[simp] theorem State.withFreeCount_pvt (s : State) (x : Nat) : (s.withFreeCount x).pvt = s.pvt := rfl
@[simp] theorem State.withFreeCount_ae (s : State) (x : Nat) : (s.withFreeCount x).ae = s.ae := rfl
@[simp] theorem State.withFreeCount_cc (s : State) (x : Nat) : (s.withFreeCount x).cc = s.cc := rfl
@[simp] theorem State.withFreeCount_lcm (s : State) (x : Nat) : (s.withFreeCount x).lcm = s.lcm := rfl
@[simp] theorem State.withFreeCount_pwu (s : State) (x : Nat) : (s.withFreeCount x).pwu = s.pwu := rfl
@[simp] theorem State.withFreeCount_ia (s : State) (x : Nat) : (s.withFreeCount x).ia = s.ia := rfl
@[simp] theorem State.withFreeCount_au (s : State) (x : Nat) : (s.withFreeCount x).au = s.au := rfl
@[simp] theorem State.withFreeCount_cf (s : State) (x : Nat) : (s.withFreeCount x).cf = s.cf := rfl
@[simp] theorem State.withFreeCount_bif (s : State) (x : Nat) : (s.withFreeCount x).bus = s.bus := rfl
@[simp] theorem State.withFreeCount_cs (s : State) (x : Nat) : (s.withFreeCount x).cs = s.cs := rfl
@[simp] theorem State.withFreeCount_port (s : State) (x : Nat) : (s.withFreeCount x).port = s.port := rfl
@[simp] theorem State.withFreeCount_out (s : State) (x : Nat) : (s.withFreeCount x).out = s.out := rfl
@[simp] theorem State.withFreeCount_freeCount (s : State) (x : Nat) : (s.withFreeCount x).freeCount = x := rfl
@[simp] theorem State.withFreeCount_pending (s : State) (x : Nat) : (s.withFreeCount x).pending = s.pending := rfl
@[simp] theorem State.withPending_settings (s : State) (x : List Instr) : (s.withPending x).settings = s.settings := rfl
@[simp] theorem State.withPending_osm (s : State) (x : List Instr) : (s.withPending x).osm = s.osm := rfl
@[simp] theorem State.withPending_su (s : State) (x : List Instr) : (s.withPending x).su = s.su := rfl
@[simp] theorem State.withPending_pvt (s : State) (x : List Instr) : (s.withPending x).pvt = s.pvt := rfl
@[simp] theorem State.withPending_ae (s : State) (x : List Instr) : (s.withPending x).ae = s.ae := rfl
@[simp] theorem State.withPending_cc (s : State) (x : List Instr) : (s.withPending x).cc = s.cc := rfl
@[simp] theorem State.withPending_lcm (s : State) (x : List Instr) : (s.withPending x).lcm = s.lcm := rfl
@[simp] theorem State.withPending_pwu (s : State) (x : List Instr) : (s.withPending x).pwu = s.pwu := rfl
@[simp] theorem State.withPending_ia (s : State) (x : List Instr) : (s.withPending x).ia = s.ia := rfl
@[simp] theorem State.withPending_au (s : State) (x : List Instr) : (s.withPending x).au = s.au := rfl
@[simp] theorem State.withPending_cf (s : State) (x : List Instr) : (s.withPending x).cf = s.cf := rfl
@[simp] theorem State.withPending_bif (s : State) (x : List Instr) : (s.withPending x).bus = s.bus := rfl
@[simp] theorem State.withPending_cs (s : State) (x : List Instr) : (s.withPending x).cs = s.cs := rfl
@[simp] theorem State.withPending_port (s : State) (x : List Instr) : (s.withPending x).port = s.port := rfl
@[simp] theorem State.withPending_out (s : State) (x : List Instr) : (s.withPending x).out = s.out := rfl
@[simp] theorem State.withPending_freeCount (s : State) (x : List Instr) : (s.withPending x).freeCount = s.freeCount := rfl
@[simp] theorem State.withPending_pending (s : State) (x : List Instr) : (s.withPending x).pending = x := rfl

end Sys2Proof.Machine
end

