-- ==== Sys2Proof/Laws/Kept.lean ====
section
/-! SUPPORT. Kept.lean: what one pass over the blocks (`State.settleBlocks`) leaves as it was: one lemma per shared
operation it is built of. -/

namespace Sys2Proof.Machine

/-- What of the allotment engine one pass over the blocks keeps: all but the currents forced or clamped at once. -/
def Allotment.steady (a : Allotment) : Allotment :=
  { a with draw := 0, regen := 0, share := 0, shareBase := 0, regenRequest := 0, published := [], barred := false }

/-- What of a driven frame one pass over the blocks keeps: all but what an urgent frame handed over makes of its place. -/
def Sending.steady (x : Sending) : Slot × Message × Frame := (x.slot, x.message, x.frame)

/-- What of the bus interface one pass over the blocks keeps: all but the urgent slots and the driven frame's place. -/
def BusUnit.steady (b : BusUnit) : BusUnit × Option (Slot × Message × Frame) :=
  ({ b with urgentSlots := [], sending := none }, b.sending.map Sending.steady)

/-- What of a channel one pass over the blocks keeps: its cap and its pressure flags. -/
def Channel.steady (c : Channel) : Nat × Bool × Bool := (c.cap, c.requesting, c.critical)

/-- A condition that one pass over the blocks may begin or end. -/
def blockCondition (p : AlarmKind × Nat) : Bool := p.1 == .sinkShort || p.1 == .shortCycle

/-- The conditions in force that one pass over the blocks keeps. -/
def AlarmUnit.steady (a : AlarmUnit) : List (AlarmKind × Nat) := a.inForce.filter (fun p => !blockCondition p)

/-- What one pass over the blocks leaves as it was. -/
structure Kept (s t : State) : Prop where
  settings : t.settings = s.settings
  osm : t.osm = s.osm
  su : t.su = s.su
  pvt : t.pvt = s.pvt
  pwu : t.pwu = s.pwu
  cf : t.cf = s.cf
  cs : t.cs = s.cs
  port : t.port = s.port
  out : t.out = s.out
  freeCount : t.freeCount = s.freeCount
  pending : t.pending = s.pending
  ae : t.ae.steady = s.ae.steady
  bus : t.bus.steady = s.bus.steady
  carrier : (t.lcm.carrierOn, t.lcm.slot, t.lcm.slotClock) = (s.lcm.carrierOn, s.lcm.slot, s.lcm.slotClock)
  chan : ∀ c, (t.chan c).steady = (s.chan c).steady
  inForce : t.au.steady = s.au.steady

theorem Kept.refl (s : State) : Kept s s :=
  ⟨rfl, rfl, rfl, rfl, rfl, rfl, rfl, rfl, rfl, rfl, rfl, rfl, rfl, rfl, fun _ => rfl, rfl⟩

theorem Kept.trans {s t u : State} (h : Kept s t) (k : Kept t u) : Kept s u :=
  ⟨k.settings.trans h.settings, k.osm.trans h.osm, k.su.trans h.su, k.pvt.trans h.pvt, k.pwu.trans h.pwu,
    k.cf.trans h.cf, k.cs.trans h.cs, k.port.trans h.port, k.out.trans h.out, k.freeCount.trans h.freeCount,
    k.pending.trans h.pending, k.ae.trans h.ae, k.bus.trans h.bus, k.carrier.trans h.carrier,
    fun c => (k.chan c).trans (h.chan c), k.inForce.trans h.inForce⟩

theorem Kept.foldl {α : Type} {f : State → α → State} (h : ∀ s a, Kept s (f s a)) (l : List α) (s : State) :
    Kept s (l.foldl f s) := by
  induction l generalizing s with
  | nil => exact Kept.refl s
  | cons a l ih => exact (h s a).trans (ih _)

theorem Kept.ite {p : Prop} [Decidable p] {s t u : State} (h : Kept s t) (k : Kept s u) :
    Kept s (if p then t else u) := by split <;> assumption

/-- An update of the own fields of the cut controller. -/
theorem Kept.withCc (s : State) (x : CutUnit) : Kept s (s.withCc x) := by
  constructor <;> first | rfl | (intro _; rfl)

/-- An update of the interlock array. -/
theorem Kept.withIa (s : State) (x : Interlock) : Kept s (s.withIa x) := by
  constructor <;> first | rfl | (intro _; rfl)

/-- An update of the allotment engine that keeps its steady part. -/
theorem Kept.withAe (s : State) (x : Allotment) (h : x.steady = s.ae.steady) : Kept s (s.withAe x) := by
  constructor <;> first | rfl | (intro _; rfl) | exact h

/-- An update of the bus interface that keeps its steady part. -/
theorem Kept.withBus (s : State) (x : BusUnit) (h : x.steady = s.bus.steady) : Kept s (s.withBus x) := by
  constructor <;> first | rfl | (intro _; rfl) | exact h

/-- An update of the alarm unit that keeps its steady part. -/
theorem Kept.withAu (s : State) (x : AlarmUnit) (h : x.steady = s.au.steady) : Kept s (s.withAu x) := by
  constructor <;> first | rfl | (intro _; rfl) | exact h

/-- An update of the load channel manager that keeps the carrier clock and the channels. -/
theorem Kept.withLcm (s : State) (x : LoadUnit) (h : x.chans = s.lcm.chans)
    (hc : (x.carrierOn, x.slot, x.slotClock) = (s.lcm.carrierOn, s.lcm.slot, s.lcm.slotClock)) :
    Kept s (s.withLcm x) := by
  constructor <;> first | rfl | exact hc | (intro c; simp only [State.chan, State.withLcm_lcm, h])

/-- A channel's fields after another channel's are replaced. -/
theorem State.chan_setChan (s : State) (c d : Fin 4) (ch : Channel) :
    (s.setChan c ch).chan d = if c = d then ch else s.chan d := by
  simp only [State.setChan, State.chan, State.withLcm_lcm, Fin.getElem_fin, Vector.getElem_set, Fin.ext_iff]

@[simp] theorem State.record_setChan (s : State) (c d : Fin 4) (ch : Channel) :
    (s.setChan c ch).record d = s.record d := rfl

/-- The fields of a channel replaced, its cap and flags kept. -/
theorem Kept.setChan (s : State) (c : Fin 4) (ch : Channel) (h : ch.steady = (s.chan c).steady) :
    Kept s (s.setChan c ch) := by
  constructor <;> first | rfl | skip
  intro d
  rw [State.chan_setChan]
  split
  · rename_i hd; rw [← hd, h]
  · rfl

@[simp] theorem Channel.leave_steady (ch : Channel) (st : ChannelState) : (ch.leave st).steady = ch.steady := rfl
@[simp] theorem Channel.leave_cap (ch : Channel) (st : ChannelState) : (ch.leave st).cap = ch.cap := rfl

/-- Own alarm entries raised or cleared leave the conditions in force as they are. -/
theorem AlarmUnit.remove_inForce (a : AlarmUnit) (p : AlarmEntry → Bool) : (a.remove p).inForce = a.inForce := by
  unfold AlarmUnit.remove
  dsimp only
  split <;> rfl

@[simp] theorem AlarmUnit.create_inForce (a : AlarmUnit) (e : AlarmEntry) : (a.create e).inForce = a.inForce := rfl

/-- The state with only its alarm unit changed, the conditions in force kept. -/
def AlarmOnly (s t : State) : Prop := ∃ a : AlarmUnit, t = s.withAu a ∧ a.inForce = s.au.inForce

theorem State.createOwn_only (s : State) (k : AlarmKind) (q : Nat) : AlarmOnly s (s.createOwn k q) := by
  unfold State.createOwn
  dsimp only
  split
  · split
    · exact ⟨_, rfl, by simp [AlarmUnit.remove_inForce]⟩
    · split
      · exact ⟨_, rfl, by simp [AlarmUnit.remove_inForce]⟩
      · exact ⟨_, rfl, rfl⟩
  · split
    · split
      · exact ⟨_, rfl, by simp [AlarmUnit.remove_inForce]⟩
      · exact ⟨_, rfl, rfl⟩
    · exact ⟨_, rfl, rfl⟩

theorem State.raiseOwn_only (s : State) (k : AlarmKind) (q : Nat) : AlarmOnly s (s.raiseOwn k q) := by
  unfold State.raiseOwn
  split
  · exact ⟨_, rfl, rfl⟩
  · exact s.createOwn_only k q

theorem State.clearOwn_only (s : State) (k : AlarmKind) (q : Nat) : AlarmOnly s (s.clearOwn k q) :=
  ⟨_, rfl, AlarmUnit.remove_inForce _ _⟩

/-- An onset changes the alarm unit alone; the condition joins those in force where raises are taken. -/
theorem State.onset_only (s : State) (k : AlarmKind) (q : Nat) :
    ∃ a : AlarmUnit, s.onset k q = s.withAu a ∧
      a.inForce = if s.osm.op.alarmsTaken && !s.inForce k q then s.au.inForce ++ [(k, q)] else s.au.inForce := by
  unfold State.onset
  split
  · obtain ⟨a, ha, hi⟩ := State.raiseOwn_only (s.withAu { s.au with inForce := s.au.inForce ++ [(k, q)] }) k q
    exact ⟨a, by rw [ha]; rfl, by rw [hi]; rfl⟩
  · exact ⟨s.au, rfl, rfl⟩

/-- An end of a condition changes the alarm unit alone; the condition leaves those in force. -/
theorem State.clearCond_only (s : State) (k : AlarmKind) (q : Nat) :
    ∃ a : AlarmUnit, s.clearCond k q = s.withAu a ∧
      a.inForce = if s.osm.op.alarmsTaken && s.inForce k q then s.au.inForce.filter (fun p => p != (k, q))
        else s.au.inForce := by
  unfold State.clearCond
  split
  · obtain ⟨a, ha, hi⟩ := State.clearOwn_only
      (s.withAu { s.au with inForce := s.au.inForce.filter (fun p => p != (k, q)) }) k q
    exact ⟨a, by rw [ha]; rfl, by rw [hi]; rfl⟩
  · exact ⟨s.au, rfl, rfl⟩

theorem Kept.onset (s : State) (k : AlarmKind) (q : Nat) (h : blockCondition (k, q) = true) :
    Kept s (s.onset k q) := by
  obtain ⟨a, ha, hi⟩ := s.onset_only k q
  rw [ha]
  refine Kept.withAu s a ?_
  unfold AlarmUnit.steady
  rw [hi]
  split
  · simp [List.filter_append, h]
  · rfl

theorem Kept.clearCond (s : State) (k : AlarmKind) (q : Nat) (h : blockCondition (k, q) = true) :
    Kept s (s.clearCond k q) := by
  obtain ⟨a, ha, hi⟩ := s.clearCond_only k q
  rw [ha]
  refine Kept.withAu s a ?_
  unfold AlarmUnit.steady
  rw [hi]
  split
  · rw [List.filter_filter]
    refine List.filter_congr fun p _ => ?_
    by_cases hp : p = (k, q)
    · subst hp; simp [h]
    · simp [hp]
  · rfl

theorem Kept.zeroDraw (s : State) : Kept s s.zeroDraw :=
  (Kept.withAe s _ (by rfl)).trans (Kept.clearCond _ _ _ (by rfl))

theorem Kept.forceZero (s : State) : Kept s s.forceZero := Kept.ite (Kept.zeroDraw s) (Kept.refl s)

theorem Kept.clearShort (s : State) (c : Fin 4) : Kept s (s.clearShort c) := Kept.clearCond _ _ _ (by rfl)

theorem Kept.leaveList (s : State) (c : Fin 4) : Kept s (s.leaveList c) :=
  (Kept.setChan s c _ (by rfl)).trans (Kept.clearShort _ c)

theorem Kept.placeShed (s : State) : Kept s s.placeShed :=
  Kept.foldl (fun t _ => Kept.ite ((Kept.setChan t _ _ (by rfl)).trans (Kept.withLcm _ _ (by rfl) (by rfl))) (Kept.refl t)) _ s

theorem Kept.resetCounter (s : State) : Kept s s.resetCounter := Kept.ite (Kept.refl s) (Kept.withLcm s _ (by rfl) (by rfl))

theorem Kept.dropRecord (s0 s : State) : Kept s (State.dropRecord s0 s) := Kept.withCc s _

theorem Kept.finishShed (s : State) : Kept s s.finishShed := (Kept.placeShed s).trans (Kept.resetCounter _)

theorem Kept.stop (s : State) (c : Fin 4) : Kept s (s.stop c) :=
  Kept.ite ((Kept.setChan s c _ (by rfl)).trans (Kept.clearShort _ c)) (Kept.setChan s c _ (by rfl))

theorem Kept.stopAll (s : State) : Kept s s.stopAll :=
  Kept.foldl (fun t c => Kept.ite (Kept.stop t c) (Kept.refl t)) _ s

theorem Kept.returnShed (s : State) (p : Placed) : Kept s (s.returnShed p) :=
  Kept.ite (((Kept.stop s _).trans (Kept.setChan _ _ _ (by rfl))).trans (Kept.withLcm _ _ (by rfl) (by rfl))) (Kept.refl s)

theorem Kept.beginHeld (s : State) : Kept s s.beginHeld :=
  ((((Kept.zeroDraw s).trans (Kept.withCc _ _)).trans (Kept.foldl Kept.returnShed _ _)).trans
    ((Kept.stopAll _).trans (Kept.finishShed _))).trans (Kept.withCc _ _)

theorem Kept.putCuts (s : State) (cuts : List CutEntry) : Kept s (s.putCuts cuts) :=
  Kept.ite ((Kept.withCc s _).trans (Kept.beginHeld _))
    (Kept.ite ((Kept.withCc s _).trans (Kept.withCc _ _)) (Kept.withCc s _))

theorem BusUnit.putUrgent_steady (b : BusUnit) (m : Message) : (b.putUrgent m).steady = b.steady := by
  unfold BusUnit.putUrgent
  split
  · rfl
  · simp only [BusUnit.steady, Option.map_map, Prod.mk.injEq, true_and]
    refine congrArg (fun f => Option.map f b.sending) (funext fun x => ?_)
    simp only [Function.comp]
    split <;> rfl

theorem Kept.pushUrgent (s : State) (m : Message) : Kept s (s.pushUrgent m) :=
  Kept.withBus s _ (BusUnit.putUrgent_steady _ _)

theorem Kept.originate (s : State) (c : CutCause) : Kept s (s.originate c) :=
  Kept.ite (Kept.refl s) (((Kept.withCc s _).trans (Kept.putCuts _ _)).trans (Kept.pushUrgent _ _))

theorem Kept.releaseOwn (s : State) (c : CutCause) : Kept s (s.releaseOwn c) := by
  unfold State.releaseOwn
  split
  · exact Kept.refl s
  · exact (Kept.putCuts s _).trans (Kept.pushUrgent _ _)

theorem Kept.driverCut (s : State) : Kept s s.driverCut :=
  Kept.ite (Kept.ite (Kept.originate s _) (Kept.releaseOwn s _)) (Kept.refl s)

theorem Kept.inhibitOne (o : Inhibits) (s : State) (c : Fin 4) : Kept s (State.inhibitOne o s c) := by
  unfold State.inhibitOne
  dsimp only
  split
  · exact Kept.ite (Kept.refl s)
      (Kept.ite ((Kept.setChan s c _ (by rfl)).trans (Kept.clearShort _ c)) (Kept.setChan s c _ (by rfl)))
  · exact Kept.ite (Kept.setChan s c _ (by rfl)) (Kept.refl s)

theorem Kept.applyInhibits (s : State) (o : Inhibits) : Kept s (s.applyInhibits o) :=
  (Kept.foldl (Kept.inhibitOne o) _ s).trans (Kept.resetCounter _)

theorem Kept.evaluate (os : List Inhibits) (s : State) : Kept s (s.evaluate os) :=
  Kept.ite ((Kept.withIa s _).trans (Kept.foldl Kept.applyInhibits _ _)) (Kept.refl s)

theorem Kept.endRequest (s : State) (c : Fin 4) : Kept s (s.endRequest c) :=
  Kept.ite (Kept.ite ((Kept.setChan s c _ (by rfl)).trans (Kept.clearShort _ c)) (Kept.refl s))
    (Kept.ite (Kept.leaveList s c) (Kept.refl s))

theorem Kept.fitDuty (s : State) (c : Fin 4) : Kept s (s.fitDuty c) :=
  Kept.ite (Kept.setChan s c _ (by rfl)) (Kept.refl s)

theorem Kept.refreshOne (s : State) (c : Fin 4) : Kept s (s.refreshOne c) := by
  unfold State.refreshOne
  dsimp only
  exact Kept.ite (Kept.fitDuty s c)
    (Kept.ite ((Kept.setChan s c _ (by rfl)).trans (Kept.endRequest _ c)) ((Kept.setChan s c _ (by rfl)).trans (Kept.fitDuty _ c)))

theorem Kept.refreshRequests (s : State) : Kept s s.refreshRequests :=
  (Kept.foldl Kept.refreshOne _ s).trans (Kept.resetCounter _)

theorem Kept.clampRegen (os : List Inhibits) (s : State) : Kept s (s.clampRegen os) := (Kept.withAe s _ (by rfl)).trans (Kept.withAe _ _ (by rfl))

theorem Kept.lowerDuty (s : State) (c : Fin 4) : Kept s (s.lowerDuty c) :=
  Kept.ite (Kept.setChan s c _ (by rfl)) (Kept.refl s)

theorem Kept.shedStep (pick : State → Fin 4 → Bool) (short : Bool) (s : State) (c : Fin 4) :
    Kept s (State.shedStep pick short s c) :=
  Kept.ite (Kept.ite ((Kept.stop s c).trans (Kept.onset _ _ _ (by rfl))) (Kept.stop s c)) (Kept.refl s)

theorem Kept.reduce (s : State) : Kept s s.reduce :=
  (((Kept.foldl Kept.lowerDuty _ s).trans (Kept.foldl (Kept.shedStep _ _) _ _)).trans
    (Kept.foldl (Kept.shedStep _ _) _ _)).trans (Kept.foldl (Kept.shedStep _ _) _ _)

theorem Kept.recordRestart (s : State) (c : Fin 4) : Kept s (s.recordRestart c) :=
  Kept.ite (Kept.withCc s _) (Kept.refl s)

theorem Kept.start (s : State) (c : Fin 4) : Kept s (s.start c) :=
  ((Kept.recordRestart s c).trans (Kept.setChan _ _ _ (by rfl))).trans (Kept.withLcm _ _ (by rfl) (by rfl))

theorem Kept.raiseDuty (reserved : Nat) (s : State) (c : Fin 4) : Kept s (State.raiseDuty reserved s c) :=
  Kept.ite (Kept.setChan s c _ (by rfl)) (Kept.refl s)

theorem Kept.restore (s : State) : Kept s s.restore := by
  unfold State.restore
  split
  · dsimp only
    refine Kept.trans ?_ ((Kept.foldl (Kept.raiseDuty _) _ _).trans (Kept.withLcm _ _ (by rfl) (by rfl)))
    split
    · exact Kept.start s _
    · split
      · exact Kept.start s _
      · exact Kept.refl s
  · exact Kept.refl s

theorem Kept.admission (s : State) : Kept s s.admission :=
  Kept.ite (Kept.ite (((Kept.stopAll s).trans (Kept.dropRecord _ _)).trans (Kept.finishShed _)) (Kept.refl s))
    (Kept.ite (((Kept.reduce s).trans (Kept.dropRecord _ _)).trans (Kept.finishShed _))
      (((Kept.reduce s).trans (Kept.restore _)).trans (Kept.resetCounter _)))

theorem Kept.admissions (cue : Cue) (os : List Inhibits) (s0 s : State) : Kept s (State.admissions cue os s0 s) := by
  unfold State.admissions
  dsimp only
  have h : Kept s (if s.ae.draw = s0.ae.draw then s else s.admission) := Kept.ite (Kept.refl s) (Kept.admission s)
  exact Kept.ite (h.trans (Kept.admission _)) h

theorem Kept.settleRestoring (s : State) : Kept s s.settleRestoring := Kept.ite (Kept.withCc s _) (Kept.refl s)

theorem Kept.rebuildClaims (s : State) : Kept s s.rebuildClaims :=
  (Kept.withLcm s _ (by rfl) (by rfl)).trans (Kept.withAe _ _ (by rfl))

theorem Kept.placeOn (s : State) (c : Fin 4) (p : Nat) : Kept s (s.placeOn c p) :=
  Kept.ite (Kept.setChan s c _ (by rfl)) (Kept.setChan s c _ (by rfl))

theorem Kept.spread (limit : State → Fin 4 → Nat) (l : List (Fin 4)) (s : State) (left : Nat) :
    Kept s (State.spread limit s left l).1 := by
  induction l generalizing s left with
  | nil => exact Kept.refl s
  | cons c l ih => exact (Kept.placeOn s c _).trans (ih _ _)

theorem Kept.placeShare (s : State) : Kept s s.placeShare := (Kept.spread _ _ s _).trans (Kept.withLcm _ _ (by rfl) (by rfl))

theorem Kept.trimShare (s : State) : Kept s s.trimShare := (Kept.spread _ _ s _).trans (Kept.withLcm _ _ (by rfl) (by rfl))

theorem Kept.settleShare (cue : Cue) (s : State) : Kept s (s.settleShare cue) :=
  Kept.ite (Kept.placeShare s) (Kept.trimShare s)

/-- What one pass over the blocks leaves as it was. -/
theorem Kept.settleBlocks (cue : Cue) (s0 s : State) : Kept s (State.settleBlocks cue s0 s) :=
  ((((((((Kept.driverCut s).trans (Kept.forceZero _)).trans (Kept.evaluate _ _)).trans (Kept.refreshRequests _)).trans
    (Kept.clampRegen _ _)).trans (Kept.admissions cue _ s0 _)).trans (Kept.settleRestoring _)).trans
      (Kept.rebuildClaims _)).trans (Kept.settleShare cue _)

end Sys2Proof.Machine
end

