-- ==== Sys2Proof/Laws/Carried.lean ====
section
/-! SUPPORT. Carried.lean: what the blocks' whole reaction to a command (`State.react`) leaves as the command's own effect
made it, and when the operating state stays. -/

namespace Sys2Proof.Machine

/-- A table of fifteen after an element is put, read anywhere. -/
theorem stationGet_stationPut {α : Type} (d : α) (t : Vector α 15) (n m : Nat) (a : α) :
    stationGet d (stationPut t n a) m = if n = m ∧ 1 ≤ n ∧ n ≤ 15 then a else stationGet d t m := by
  unfold stationGet stationPut
  by_cases hn : 1 ≤ n ∧ n ≤ 15
  · by_cases hm : 1 ≤ m ∧ m ≤ 15
    · simp only [hn, hm, dite_true, and_self, and_true, Vector.getElem_set]
      have : (n - 1 = m - 1) ↔ n = m := by omega
      simp only [this]
    · have : n ≠ m := by rintro rfl; exact hm hn
      simp only [hm, dite_false, this, false_and, if_false]
  · simp only [hn, dite_false, and_false, if_false]

/-- The entries of the table after one is replaced. -/
theorem State.entry_setEntry (s : State) (n m : Nat) (e : Entry) :
    (s.setEntry n e).entry m = if n = m ∧ 1 ≤ n ∧ n ≤ 15 then e else s.entry m :=
  stationGet_stationPut _ _ _ _ _

/-- What of the allotment engine the reaction carries through. -/
def Allotment.carried (a : Allotment) : Allotment :=
  { a.steady with snapshot := emptySnapshot, computing := none, waiting := none, due := 0, sinkOffered := 0, setpoint := 0,
                  shares := [] }

/-- What of the bus interface the reaction carries through. -/
def BusUnit.carried (b : BusUnit) : BusUnit × Option (Slot × Message × Frame) :=
  ({ b.steady.1 with beaconSlot := none, sequence := 0 }, b.steady.2)

/-- What of the console functions the reaction carries through. -/
def ConsoleUnit.carried (c : ConsoleUnit) : ConsoleUnit :=
  { c with special := false, tail := none, flashRuns := false, flashOn := false, flashClock := 0 }

/-- What of the pole watch unit the reaction carries through. -/
def PoleUnit.carried (u : PoleUnit) : PoleUnit := { u with trackClock := none }

/-- What of a peer entry the reaction carries through: all but its effective period. -/
def Entry.carried (e : Entry) : Entry := { e with pe := 0 }

/-- What of the operating-state machine the reaction carries through: the role, the number and the uptime. -/
def OpMachine.carried (o : OpMachine) : Role × Nat × Nat := (o.role, o.number, o.uptime)

/-- What the blocks' reaction to a command leaves as it was. -/
structure Carried (s t : State) : Prop where
  settings : t.settings = s.settings
  osm : t.osm.carried = s.osm.carried
  su : t.su = s.su
  pwu : t.pwu.carried = s.pwu.carried
  cf : t.cf.carried = s.cf.carried
  cs : t.cs = s.cs
  port : t.port = s.port
  freeCount : t.freeCount = s.freeCount
  pending : t.pending = s.pending
  ae : t.ae.carried = s.ae.carried
  bus : t.bus.carried = s.bus.carried
  chan : ∀ c, (t.chan c).steady = (s.chan c).steady
  inForce : t.au.steady = s.au.steady
  peers : ∀ n, s.isOwn n = false → (t.entry n).carried = (s.entry n).carried

theorem Carried.refl (s : State) : Carried s s :=
  ⟨rfl, rfl, rfl, rfl, rfl, rfl, rfl, rfl, rfl, rfl, rfl, fun _ => rfl, rfl, fun _ _ => rfl⟩

theorem Carried.role {s t : State} (h : Carried s t) : t.osm.role = s.osm.role := congrArg Prod.fst h.osm
theorem Carried.number {s t : State} (h : Carried s t) : t.osm.number = s.osm.number :=
  congrArg (fun p => p.2.1) h.osm
theorem Carried.uptime {s t : State} (h : Carried s t) : t.osm.uptime = s.osm.uptime :=
  congrArg (fun p => p.2.2) h.osm

theorem Carried.isOwn {s t : State} (h : Carried s t) (n : Nat) : t.isOwn n = s.isOwn n := by
  unfold State.isOwn; rw [h.number]

theorem Carried.trans {s t u : State} (h : Carried s t) (k : Carried t u) : Carried s u :=
  ⟨k.settings.trans h.settings, k.osm.trans h.osm, k.su.trans h.su, k.pwu.trans h.pwu,
    k.cf.trans h.cf, k.cs.trans h.cs, k.port.trans h.port, k.freeCount.trans h.freeCount,
    k.pending.trans h.pending, k.ae.trans h.ae, k.bus.trans h.bus,
    fun c => (k.chan c).trans (h.chan c), k.inForce.trans h.inForce,
    fun n hn => (k.peers n (by rw [h.isOwn, hn])).trans (h.peers n hn)⟩

theorem Carried.ite {p : Prop} [Decidable p] {s t u : State} (h : Carried s t) (k : Carried s u) :
    Carried s (if p then t else u) := by split <;> assumption

theorem Carried.foldl {α : Type} {f : State → α → State} (h : ∀ s a, Carried s (f s a)) (l : List α) (s : State) :
    Carried s (l.foldl f s) := by
  induction l generalizing s with
  | nil => exact Carried.refl s
  | cons a l ih => exact (h s a).trans (ih _)

/-- What one pass over the blocks keeps is carried. -/
theorem Kept.carried {s t : State} (h : Kept s t) : Carried s t :=
  ⟨h.settings, by rw [h.osm], h.su, by rw [h.pwu], by rw [h.cf], h.cs, h.port, h.freeCount, h.pending,
    by unfold Allotment.carried; rw [h.ae], by unfold BusUnit.carried; rw [h.bus], h.chan, h.inForce,
    fun n _ => by unfold State.entry; rw [h.pvt]⟩

theorem Carried.withOsm (s : State) (x : OpMachine) (h : x.carried = s.osm.carried) : Carried s (s.withOsm x) := by
  constructor <;> first | rfl | exact h | (intros; rfl)

theorem Carried.withAe (s : State) (x : Allotment) (h : x.carried = s.ae.carried) : Carried s (s.withAe x) := by
  constructor <;> first | rfl | exact h | (intros; rfl)

theorem Carried.withBus (s : State) (x : BusUnit) (h : x.carried = s.bus.carried) : Carried s (s.withBus x) := by
  constructor <;> first | rfl | exact h | (intros; rfl)

theorem Carried.withPwu (s : State) (x : PoleUnit) (h : x.carried = s.pwu.carried) : Carried s (s.withPwu x) := by
  constructor <;> first | rfl | exact h | (intros; rfl)

theorem Carried.withCf (s : State) (x : ConsoleUnit) (h : x.carried = s.cf.carried) : Carried s (s.withCf x) := by
  constructor <;> first | rfl | exact h | (intros; rfl)

theorem Carried.withCc (s : State) (x : CutUnit) : Carried s (s.withCc x) := (Kept.withCc s x).carried

theorem Carried.withOut (s : State) (x : Outputs) : Carried s (s.withOut x) := by
  constructor <;> first | rfl | (intros; rfl)

theorem Carried.withLcm (s : State) (x : LoadUnit) (h : x.chans = s.lcm.chans) : Carried s (s.withLcm x) := by
  constructor <;> first | rfl | (intros; rfl) | (intro c; simp only [State.chan, State.withLcm_lcm, h])

theorem Carried.setChan (s : State) (c : Fin 4) (ch : Channel) (h : ch.steady = (s.chan c).steady) :
    Carried s (s.setChan c ch) := (Kept.setChan s c ch h).carried

theorem Carried.clearShort (s : State) (c : Fin 4) : Carried s (s.clearShort c) := (Kept.clearShort s c).carried

/-- An entry replaced: the own one by anything, another by one that differs in its period alone. -/
theorem Carried.setEntry (s : State) (n : Nat) (e : Entry)
    (h : s.isOwn n = true ∨ e.carried = (s.entry n).carried) : Carried s (s.setEntry n e) := by
  constructor <;> first | rfl | (intros; rfl) | skip
  intro m hm
  rw [State.entry_setEntry]
  split
  · rename_i hnm
    obtain ⟨rfl, -, -⟩ := hnm
    rcases h with h | h
    · rw [h] at hm; cases hm
    · exact h
  · rfl

theorem State.isOwn_number (s : State) (h : s.osm.number ≠ 0) : s.isOwn s.osm.number = true := by
  simp [State.isOwn, h]

theorem State.reperiod_carried (s : State) (n : Nat) : (s.reperiod n).carried = (s.entry n).carried := by
  unfold State.reperiod
  dsimp only
  split <;> rfl

theorem Carried.reperiodAll (s : State) : Carried s s.reperiodAll :=
  Carried.foldl (fun t n => Carried.setEntry t n _ (.inr (t.reperiod_carried n))) _ s

theorem Carried.enterOp (s : State) (o : OpState) : Carried s (s.enterOp o) := Carried.withOsm s _ rfl

theorem Carried.restartDue (s : State) : Carried s s.restartDue := Carried.withAe s _ rfl

theorem Carried.startCarrier (s : State) : Carried s s.startCarrier := Carried.withLcm s _ rfl

theorem Carried.startTracking (s : State) : Carried s s.startTracking :=
  Carried.ite (Carried.withPwu s _ (by rfl)) (Carried.refl s)

theorem Carried.startFlash (s : State) : Carried s s.startFlash :=
  Carried.ite (Carried.withCf s _ (by rfl)) (Carried.refl s)

theorem Carried.readSpecial (s : State) : Carried s s.readSpecial :=
  Carried.ite (Carried.withCf s _ (by rfl)) (Carried.refl s)

theorem Carried.wake (s : State) : Carried s s.wake :=
  (((((Carried.enterOp s _).trans (Carried.restartDue _)).trans (Carried.startCarrier _)).trans
    (Carried.startTracking _)).trans (Carried.startFlash _)).trans (Carried.readSpecial _)

theorem Carried.leaveParked (s : State) : Carried s s.leaveParked :=
  ((Carried.enterOp s _).trans (Carried.restartDue _)).trans (Carried.reperiodAll _)

theorem Carried.parkChannel (s : State) (c : Fin 4) : Carried s (s.parkChannel c) := by
  unfold State.parkChannel
  refine Carried.ite ?_ (Carried.refl s)
  refine (Carried.setChan s c _ ?_).trans (Carried.clearShort _ c)
  generalize (if (s.chan c).state.running = true then ChannelState.waiting
    else if (s.chan c).state.listed = true then if s.minOffElapsed c = true then .off else .waiting
    else (s.chan c).state) = st
  split <;> rfl

theorem Carried.enterParked (s : State) : Carried s s.enterParked :=
  (((((Carried.enterOp s _).trans (Carried.restartDue _)).trans (Carried.reperiodAll _)).trans
    (Carried.foldl Carried.parkChannel _ _))).trans (Kept.resetCounter _).carried

theorem BusUnit.dropPattern_carried (b : BusUnit) : b.dropPattern.carried = b.carried := by
  simp only [BusUnit.carried, BusUnit.steady, BusUnit.dropPattern, Option.map_map, Prod.mk.injEq, true_and]
  refine congrArg (fun f => Option.map f b.sending) (funext fun x => ?_)
  simp only [Function.comp]
  split <;> rfl

theorem Carried.endPattern (s : State) : Carried s s.endPattern :=
  ((Carried.enterOp s _).trans (Carried.startCarrier _)).trans
    (Carried.withBus _ _ (BusUnit.dropPattern_carried _))

theorem Carried.autoMove (s : State) : Carried s s.autoMove := by
  unfold State.autoMove
  split
  · exact Carried.ite (Carried.enterParked s) (Carried.refl s)
  · exact Carried.ite (Carried.leaveParked s) (Carried.refl s)
  · exact Carried.ite (Carried.refl s) (Carried.endPattern s)
  · exact Carried.ite (Carried.wake s) (Carried.refl s)
  · exact Carried.refl s

theorem Carried.settleMove (s : State) : Carried s s.settleMove := by
  unfold State.settleMove
  dsimp only
  exact Carried.ite (Carried.refl s) ((Carried.autoMove s).trans (Kept.settleBlocks _ _ _).carried)

theorem Carried.fillOwn (s : State) (b : Beacon) : Carried s (s.fillOwn b) := by
  unfold State.fillOwn
  split
  · exact Carried.refl s
  · rename_i h; exact Carried.setEntry s _ _ (.inl (s.isOwn_number h))

theorem Carried.fillAtEntry (s0 s : State) : Carried s (State.fillAtEntry s0 s) :=
  Carried.ite (Carried.fillOwn s _) (Carried.refl s)

theorem Carried.pushBeacon (s : State) (m : Message) : Carried s (s.pushBeacon m) := Carried.withBus s _ rfl

theorem Carried.composeBeacon (s : State) (b : Beacon) : Carried s (s.composeBeacon b) :=
  ((Carried.fillOwn s b).trans (Carried.pushBeacon _ _)).trans (Carried.withBus _ _ (by rfl))

theorem Carried.compose (s : State) : Carried s s.compose := by
  unfold State.compose
  split
  · exact Carried.refl s
  · rename_i h
    exact Carried.ite ((Carried.setEntry s _ _ (.inl (s.isOwn_number h))).trans (Carried.pushBeacon _ _))
      (Carried.composeBeacon s _)

theorem Carried.composeIf (cue : Cue) (s : State) : Carried s (State.composeIf cue s) :=
  Carried.ite (Carried.compose s) (Carried.refl s)

theorem Carried.startComputation (s : State) (k : CompKind) : Carried s (s.startComputation k) :=
  Carried.withAe s _ rfl

theorem Carried.startWaiting (s : State) : Carried s s.startWaiting := by
  unfold State.startWaiting
  split
  · exact (Carried.withAe s _ (by rfl)).trans (Carried.startComputation _ _)
  · exact Carried.refl s

theorem Carried.allotmentEvent (s : State) (k : CompKind) : Carried s (s.allotmentEvent k) :=
  (Carried.withAe s _ (by rfl)).trans (Carried.startWaiting _)

theorem Carried.settleEvents (cue : Cue) (s0 s : State) : Carried s (State.settleEvents cue s0 s) :=
  (Carried.ite (Carried.allotmentEvent s _) (Carried.refl s)).trans (Carried.startWaiting _)

theorem Carried.followPoles (s : State) : Carried s s.followPoles := by
  unfold State.followPoles
  dsimp only
  split
  · split
    · rename_i h; exact Carried.setEntry s _ _ (.inl (s.isOwn_number h.2))
    · exact Carried.refl s
  · exact Carried.refl s

theorem Carried.settleOutputs (s : State) : Carried s s.settleOutputs :=
  ((((Carried.followPoles s).trans (Carried.withAe _ _ (by rfl))).trans (Carried.withAe _ _ (by rfl))).trans
    (Carried.ite (Carried.refl _) (Carried.withOsm _ _ (by rfl)))).trans (Carried.withOut _ _)

/-- What the blocks' reaction to a command leaves as the command's own effect made it. -/
theorem Carried.react (cue : Cue) (s0 s : State) : Carried s (State.react cue s0 s) :=
  (((((Kept.settleBlocks cue s0 s).carried.trans (Carried.settleMove _)).trans (Carried.fillAtEntry s0 _)).trans
    (Carried.composeIf cue _)).trans (Carried.settleEvents cue s0 _)).trans (Carried.settleOutputs _)

end Sys2Proof.Machine
end

