-- ==== Sys2Proof/Laws/LoadOnly.lean ====
section
/-! SUPPORT. LoadOnly.lean: the operations of the load channel manager change its own fields, the alarm unit and the
restoration record, and nothing else of the state. -/

namespace Sys2Proof.Machine

/-- The state with only the load channel manager, the alarm unit and the restoration record changed. -/
def LoadOnly (s t : State) : Prop :=
  ∃ l a r, t = ((s.withLcm l).withAu a).withCc { s.cc with restRecord := r }

theorem LoadOnly.refl (s : State) : LoadOnly s s := ⟨s.lcm, s.au, s.cc.restRecord, rfl⟩

theorem LoadOnly.trans {s t u : State} (h : LoadOnly s t) (k : LoadOnly t u) : LoadOnly s u := by
  obtain ⟨l, a, r, rfl⟩ := h
  obtain ⟨l', a', r', rfl⟩ := k
  exact ⟨l', a', r', rfl⟩

theorem LoadOnly.ite {p : Prop} [Decidable p] {s t u : State} (h : LoadOnly s t) (k : LoadOnly s u) :
    LoadOnly s (if p then t else u) := by split <;> assumption

theorem LoadOnly.foldl {α : Type} {f : State → α → State} (h : ∀ s a, LoadOnly s (f s a)) (l : List α) (s : State) :
    LoadOnly s (l.foldl f s) := by
  induction l generalizing s with
  | nil => exact LoadOnly.refl s
  | cons a l ih => exact (h s a).trans (ih _)

theorem LoadOnly.withLcm (s : State) (x : LoadUnit) : LoadOnly s (s.withLcm x) := ⟨x, s.au, s.cc.restRecord, rfl⟩

theorem LoadOnly.setChan (s : State) (c : Fin 4) (ch : Channel) : LoadOnly s (s.setChan c ch) := LoadOnly.withLcm s _

theorem LoadOnly.record (s : State) (r : List Placed) : LoadOnly s (s.withCc { s.cc with restRecord := r }) :=
  ⟨s.lcm, s.au, r, rfl⟩

theorem LoadOnly.onset (s : State) (k : AlarmKind) (q : Nat) : LoadOnly s (s.onset k q) := by
  obtain ⟨a, ha, -⟩ := s.onset_only k q
  exact ⟨s.lcm, a, s.cc.restRecord, by rw [ha]; rfl⟩

theorem LoadOnly.clearCond (s : State) (k : AlarmKind) (q : Nat) : LoadOnly s (s.clearCond k q) := by
  obtain ⟨a, ha, -⟩ := s.clearCond_only k q
  exact ⟨s.lcm, a, s.cc.restRecord, by rw [ha]; rfl⟩

theorem LoadOnly.clearShort (s : State) (c : Fin 4) : LoadOnly s (s.clearShort c) := LoadOnly.clearCond _ _ _

theorem LoadOnly.leaveList (s : State) (c : Fin 4) : LoadOnly s (s.leaveList c) :=
  (LoadOnly.setChan s c _).trans (LoadOnly.clearShort _ c)

theorem LoadOnly.placeShed (s : State) : LoadOnly s s.placeShed :=
  LoadOnly.foldl (fun t _ => LoadOnly.ite ((LoadOnly.setChan t _ _).trans (LoadOnly.withLcm _ _)) (LoadOnly.refl t)) _ s

theorem LoadOnly.resetCounter (s : State) : LoadOnly s s.resetCounter :=
  LoadOnly.ite (LoadOnly.refl s) (LoadOnly.withLcm s _)

theorem LoadOnly.finishShed (s : State) : LoadOnly s s.finishShed :=
  (LoadOnly.placeShed s).trans (LoadOnly.resetCounter _)

theorem LoadOnly.dropRecord (s0 s : State) : LoadOnly s (State.dropRecord s0 s) := LoadOnly.record s _

theorem LoadOnly.stop (s : State) (c : Fin 4) : LoadOnly s (s.stop c) :=
  LoadOnly.ite ((LoadOnly.setChan s c _).trans (LoadOnly.clearShort _ c)) (LoadOnly.setChan s c _)

theorem LoadOnly.stopAll (s : State) : LoadOnly s s.stopAll :=
  LoadOnly.foldl (fun t c => LoadOnly.ite (LoadOnly.stop t c) (LoadOnly.refl t)) _ s

theorem LoadOnly.returnShed (s : State) (p : Placed) : LoadOnly s (s.returnShed p) :=
  LoadOnly.ite (((LoadOnly.stop s _).trans (LoadOnly.setChan _ _ _)).trans (LoadOnly.withLcm _ _)) (LoadOnly.refl s)

theorem LoadOnly.inhibitOne (o : Inhibits) (s : State) (c : Fin 4) : LoadOnly s (State.inhibitOne o s c) := by
  unfold State.inhibitOne
  dsimp only
  split
  · exact LoadOnly.ite (LoadOnly.refl s)
      (LoadOnly.ite ((LoadOnly.setChan s c _).trans (LoadOnly.clearShort _ c)) (LoadOnly.setChan s c _))
  · exact LoadOnly.ite (LoadOnly.setChan s c _) (LoadOnly.refl s)

theorem LoadOnly.applyInhibits (s : State) (o : Inhibits) : LoadOnly s (s.applyInhibits o) :=
  (LoadOnly.foldl (LoadOnly.inhibitOne o) _ s).trans (LoadOnly.resetCounter _)

theorem LoadOnly.endRequest (s : State) (c : Fin 4) : LoadOnly s (s.endRequest c) :=
  LoadOnly.ite (LoadOnly.ite ((LoadOnly.setChan s c _).trans (LoadOnly.clearShort _ c)) (LoadOnly.refl s))
    (LoadOnly.ite (LoadOnly.leaveList s c) (LoadOnly.refl s))

theorem LoadOnly.fitDuty (s : State) (c : Fin 4) : LoadOnly s (s.fitDuty c) :=
  LoadOnly.ite (LoadOnly.setChan s c _) (LoadOnly.refl s)

theorem LoadOnly.refreshOne (s : State) (c : Fin 4) : LoadOnly s (s.refreshOne c) := by
  unfold State.refreshOne
  dsimp only
  exact LoadOnly.ite (LoadOnly.fitDuty s c)
    (LoadOnly.ite ((LoadOnly.setChan s c _).trans (LoadOnly.endRequest _ c))
      ((LoadOnly.setChan s c _).trans (LoadOnly.fitDuty _ c)))

theorem LoadOnly.refreshRequests (s : State) : LoadOnly s s.refreshRequests :=
  (LoadOnly.foldl LoadOnly.refreshOne _ s).trans (LoadOnly.resetCounter _)

theorem LoadOnly.lowerDuty (s : State) (c : Fin 4) : LoadOnly s (s.lowerDuty c) :=
  LoadOnly.ite (LoadOnly.setChan s c _) (LoadOnly.refl s)

theorem LoadOnly.shedStep (pick : State → Fin 4 → Bool) (short : Bool) (s : State) (c : Fin 4) :
    LoadOnly s (State.shedStep pick short s c) :=
  LoadOnly.ite (LoadOnly.ite ((LoadOnly.stop s c).trans (LoadOnly.onset _ _ _)) (LoadOnly.stop s c)) (LoadOnly.refl s)

theorem LoadOnly.reduce (s : State) : LoadOnly s s.reduce :=
  (((LoadOnly.foldl LoadOnly.lowerDuty _ s).trans (LoadOnly.foldl (LoadOnly.shedStep _ _) _ _)).trans
    (LoadOnly.foldl (LoadOnly.shedStep _ _) _ _)).trans (LoadOnly.foldl (LoadOnly.shedStep _ _) _ _)

theorem LoadOnly.recordRestart (s : State) (c : Fin 4) : LoadOnly s (s.recordRestart c) :=
  LoadOnly.ite (LoadOnly.record s _) (LoadOnly.refl s)

theorem LoadOnly.start (s : State) (c : Fin 4) : LoadOnly s (s.start c) :=
  ((LoadOnly.recordRestart s c).trans (LoadOnly.setChan _ _ _)).trans (LoadOnly.withLcm _ _)

theorem LoadOnly.raiseDuty (reserved : Nat) (s : State) (c : Fin 4) : LoadOnly s (State.raiseDuty reserved s c) :=
  LoadOnly.ite (LoadOnly.setChan s c _) (LoadOnly.refl s)

theorem LoadOnly.restore (s : State) : LoadOnly s s.restore := by
  unfold State.restore
  split
  · dsimp only
    refine LoadOnly.trans ?_ ((LoadOnly.foldl (LoadOnly.raiseDuty _) _ _).trans (LoadOnly.withLcm _ _))
    split
    · exact LoadOnly.start s _
    · split
      · exact LoadOnly.start s _
      · exact LoadOnly.refl s
  · exact LoadOnly.refl s

theorem LoadOnly.admission (s : State) : LoadOnly s s.admission :=
  LoadOnly.ite
    (LoadOnly.ite (((LoadOnly.stopAll s).trans (LoadOnly.dropRecord _ _)).trans (LoadOnly.finishShed _)) (LoadOnly.refl s))
    (LoadOnly.ite (((LoadOnly.reduce s).trans (LoadOnly.dropRecord _ _)).trans (LoadOnly.finishShed _))
      (((LoadOnly.reduce s).trans (LoadOnly.restore _)).trans (LoadOnly.resetCounter _)))

theorem LoadOnly.admissions (cue : Cue) (os : List Inhibits) (s0 s : State) :
    LoadOnly s (State.admissions cue os s0 s) := by
  unfold State.admissions
  dsimp only
  have h : LoadOnly s (if s.ae.draw = s0.ae.draw then s else s.admission) :=
    LoadOnly.ite (LoadOnly.refl s) (LoadOnly.admission s)
  exact LoadOnly.ite (h.trans (LoadOnly.admission _)) h

theorem LoadOnly.placeOn (s : State) (c : Fin 4) (p : Nat) : LoadOnly s (s.placeOn c p) :=
  LoadOnly.ite (LoadOnly.setChan s c _) (LoadOnly.setChan s c _)

theorem LoadOnly.spread (limit : State → Fin 4 → Nat) (l : List (Fin 4)) (s : State) (left : Nat) :
    LoadOnly s (State.spread limit s left l).1 := by
  induction l generalizing s left with
  | nil => exact LoadOnly.refl s
  | cons c l ih => exact (LoadOnly.placeOn s c _).trans (ih _ _)

theorem LoadOnly.settleShare (cue : Cue) (s : State) : LoadOnly s (s.settleShare cue) :=
  LoadOnly.ite ((LoadOnly.spread _ _ s _).trans (LoadOnly.withLcm _ _))
    ((LoadOnly.spread _ _ s _).trans (LoadOnly.withLcm _ _))

theorem LoadOnly.parkChannel (s : State) (c : Fin 4) : LoadOnly s (s.parkChannel c) := by
  unfold State.parkChannel
  exact LoadOnly.ite ((LoadOnly.setChan s c _).trans (LoadOnly.clearShort _ c)) (LoadOnly.refl s)

end Sys2Proof.Machine
end

