-- ==== Sys2Proof/Laws/Memory.lean ====
section
/-! SUPPORT. Memory.lean: the image store: every operation keeps the canonical form, a byte written is read back, and every
other byte reads as before. -/

namespace Sys2Proof.Machine

theorem Memory.wfFrom_mono {lo hi : Nat} {m : Memory} (h : Memory.wfFrom hi m = true) (le : lo ≤ hi) :
    Memory.wfFrom lo m = true := by
  cases m with
  | nil => rfl
  | cons c m =>
    obtain ⟨a, b⟩ := c
    simp only [Memory.wfFrom, Bool.and_eq_true, decide_eq_true_eq] at h ⊢
    exact ⟨⟨⟨by omega, h.1.1.2⟩, h.1.2⟩, h.2⟩

theorem Memory.wfFrom_cons {lo a : Nat} {b : Byte} {m : Memory} : Memory.wfFrom lo ((a, b) :: m) = true ↔
    (lo ≤ a ∧ a < 256) ∧ b ≠ deliveredByte a ∧ Memory.wfFrom (a + 1) m = true := by
  simp [Memory.wfFrom, and_assoc]

/-- Removing a cell keeps the form. -/
theorem Memory.erase_wfFrom {lo : Nat} {m : Memory} (h : Memory.wfFrom lo m = true) (a : Nat) :
    Memory.wfFrom lo (m.erase a) = true := by
  induction m generalizing lo with
  | nil => rfl
  | cons c m ih =>
    obtain ⟨k, b⟩ := c
    rw [Memory.wfFrom_cons] at h
    unfold Memory.erase
    split
    · exact Memory.wfFrom_mono h.2.2 (by omega)
    · exact Memory.wfFrom_cons.mpr ⟨h.1, h.2.1, ih h.2.2⟩

/-- Listing a byte that differs from the delivered one keeps the form. -/
theorem Memory.insert_wfFrom {lo : Nat} {m : Memory} (h : Memory.wfFrom lo m = true) {a : Nat} {v : Byte} (hlo : lo ≤ a)
    (ha : a < 256) (hv : v ≠ deliveredByte a) : Memory.wfFrom lo (m.insert a v) = true := by
  induction m generalizing lo with
  | nil => exact Memory.wfFrom_cons.mpr ⟨⟨hlo, ha⟩, hv, rfl⟩
  | cons c m ih =>
    obtain ⟨k, b⟩ := c
    have h' := Memory.wfFrom_cons.mp h
    unfold Memory.insert
    split
    · rename_i e; subst e; exact Memory.wfFrom_cons.mpr ⟨⟨hlo, ha⟩, hv, h'.2.2⟩
    · split
      · exact Memory.wfFrom_cons.mpr ⟨⟨hlo, ha⟩, hv, Memory.wfFrom_cons.mpr ⟨⟨by omega, h'.1.2⟩, h'.2.1, h'.2.2⟩⟩
      · exact Memory.wfFrom_cons.mpr ⟨h'.1, h'.2.1, ih h'.2.2 (by omega)⟩

theorem Memory.write_wf {m : Memory} (h : m.wf = true) (a : Nat) (v : Byte) : (m.write a v).wf = true := by
  unfold Memory.write
  split
  · split
    · exact Memory.erase_wfFrom h a
    · exact Memory.insert_wfFrom h (Nat.zero_le a) ‹_› ‹_›
  · exact h

theorem Memory.writeAll_wf {m : Memory} (h : m.wf = true) (a : Nat) (vs : List Byte) : (m.writeAll a vs).wf = true := by
  induction vs generalizing m a with
  | nil => exact h
  | cons v vs ih => exact ih (Memory.write_wf h a v) (a + 1)

/-- Writing a page keeps the form. -/
theorem Memory.writePage_wf {m : Memory} (h : m.wf = true) (p : Nat) (vs : List Byte) : (m.writePage p vs).wf = true :=
  Memory.writeAll_wf h _ _

/-- The image as delivered has the form. -/
theorem Memory.reset_wf : State.reset.cs.image.wf = true := rfl

/-- An address below the list's first reads as delivered. -/
theorem Memory.read_below {lo : Nat} {m : Memory} (h : Memory.wfFrom lo m = true) {a : Nat} (ha : a < lo) :
    m.read a = deliveredByte a := by
  induction m generalizing lo with
  | nil => rfl
  | cons c m ih =>
    obtain ⟨k, b⟩ := c
    have h' := Memory.wfFrom_cons.mp h
    unfold Memory.read
    rw [if_neg (by omega)]
    exact ih h'.2.2 (by omega)

theorem Memory.read_erase {lo : Nat} {m : Memory} (h : Memory.wfFrom lo m = true) (a x : Nat) :
    (m.erase a).read x = if x = a then deliveredByte a else m.read x := by
  induction m generalizing lo with
  | nil => unfold Memory.erase Memory.read; split <;> simp_all
  | cons c m ih =>
    obtain ⟨k, b⟩ := c
    have h' := Memory.wfFrom_cons.mp h
    unfold Memory.erase
    split
    · rename_i e; subst e
      by_cases hx : x = k
      · subst hx; rw [if_pos rfl]; exact Memory.read_below h'.2.2 (by omega)
      · rw [if_neg hx]; conv_rhs => unfold Memory.read
        rw [if_neg (fun e => hx e.symm)]
    · unfold Memory.read
      by_cases hk : k = x
      · subst hk; rw [if_pos rfl, if_pos rfl, if_neg ‹_›]
      · rw [if_neg hk, if_neg hk]; exact ih h'.2.2

theorem Memory.read_insert (m : Memory) (a x : Nat) (v : Byte) :
    (m.insert a v).read x = if x = a then v else m.read x := by
  induction m with
  | nil => unfold Memory.insert Memory.read; by_cases h : x = a <;> simp [h, Ne.symm, Memory.read]
  | cons c m ih =>
    obtain ⟨k, b⟩ := c
    by_cases hx : x = a
    · subst hx
      unfold Memory.insert
      split
      · simp [Memory.read]
      · split
        · simp [Memory.read]
        · rename_i h1 _; simp only [Memory.read, if_neg h1, ih, if_true]
    · unfold Memory.insert
      split
      · rename_i e; subst e; simp only [Memory.read, if_neg (Ne.symm hx)]
      · split
        · simp only [Memory.read, if_neg (Ne.symm hx)]
        · simp only [Memory.read, ih, if_neg hx]

/-- Read after write: the address written reads as the value, every other address as before. -/
theorem Memory.read_write {m : Memory} (h : m.wf = true) {a : Nat} (ha : a < 256) (v : Byte) (x : Nat) :
    (m.write a v).read x = if x = a then v else m.read x := by
  unfold Memory.write
  rw [if_pos ha]
  split
  · rename_i e; rw [Memory.read_erase h]; subst e; rfl
  · exact Memory.read_insert m a x v

theorem Memory.read_erase_other (m : Memory) {a x : Nat} (hx : x ≠ a) : (m.erase a).read x = m.read x := by
  induction m with
  | nil => rfl
  | cons c m ih =>
    obtain ⟨k, b⟩ := c
    unfold Memory.erase
    split
    · rename_i e; subst e; simp only [Memory.read, if_neg (Ne.symm hx)]
    · simp only [Memory.read, ih]

/-- A byte not written reads as before, in whatever form the store is. -/
theorem Memory.read_write_other (m : Memory) {a x : Nat} (v : Byte) (hx : x ≠ a) : (m.write a v).read x = m.read x := by
  unfold Memory.write
  split
  · split
    · exact Memory.read_erase_other m hx
    · rw [Memory.read_insert, if_neg hx]
  · rfl

/-- A byte outside those written reads as before. -/
theorem Memory.read_writeAll_other (m : Memory) (a : Nat) (vs : List Byte) (x : Nat)
    (hx : x < a ∨ a + vs.length ≤ x) : (m.writeAll a vs).read x = m.read x := by
  induction vs generalizing m a with
  | nil => rfl
  | cons v vs ih =>
    simp only [List.length_cons] at hx
    unfold Memory.writeAll
    rw [ih _ _ (by omega)]
    exact Memory.read_write_other m v (by omega)

/-- A byte outside a page written reads as before. -/
theorem Memory.read_writePage_other (m : Memory) (p : Nat) (vs : List Byte) (x : Nat)
    (hx : ¬ (16 * p ≤ x ∧ x < 16 * p + 16)) : (m.writePage p vs).read x = m.read x :=
  Memory.read_writeAll_other m _ _ x (by have := List.length_take_le 16 vs; omega)

/-- A byte written reads as it was written. -/
theorem Memory.read_writeAll (m : Memory) (a : Nat) (vs : List Byte) (i : Nat) (h : m.wf = true) (hi : i < vs.length)
    (ha : a + vs.length ≤ 256) : (m.writeAll a vs).read (a + i) = vs[i] := by
  induction vs generalizing m a i with
  | nil => simp at hi
  | cons v vs ih =>
    simp only [List.length_cons] at ha hi
    unfold Memory.writeAll
    cases i with
    | zero =>
      rw [Memory.read_writeAll_other _ _ _ _ (by omega)]
      simp [Memory.read_write h (show a < 256 by omega)]
    | succ i =>
      have := ih (m.write a v) (a + 1) i (Memory.write_wf h a v) (by omega) (by omega)
      rw [show a + (i + 1) = a + 1 + i by omega]
      simpa using this

end Sys2Proof.Machine
end

