-- ==== Sys2Proof/Laws/Settled.lean ====
section
/-! SUPPORT. Settled.lean: what the blocks' reaction to a command does to the cut set, the phase, the currents, the key and
the operating state. -/

namespace Sys2Proof.Machine

/-- What the load channel manager's operations leave: the core of the cut controller, the allotment engine, the table, the
key and what forces the draw. -/
theorem LoadOnly.same {s t : State} (h : LoadOnly s t) :
    t.cc.cuts = s.cc.cuts ∧ t.cc.counter = s.cc.counter ∧ t.cc.phase = s.cc.phase ∧ t.cc.offset = s.cc.offset ∧
      t.cc.restSet = s.cc.restSet ∧ t.ae = s.ae ∧ t.osm = s.osm ∧ t.ia = s.ia ∧ t.pvt = s.pvt ∧
      t.settings = s.settings ∧ t.su = s.su ∧ t.pwu = s.pwu ∧ t.cf = s.cf ∧ t.bus = s.bus ∧ t.cs = s.cs ∧
      t.out = s.out ∧ t.port = s.port ∧ t.pending = s.pending := by
  obtain ⟨l, a, r, rfl⟩ := h
  exact ⟨rfl, rfl, rfl, rfl, rfl, rfl, rfl, rfl, rfl, rfl, rfl, rfl, rfl, rfl, rfl, rfl, rfl, rfl⟩

/-- What one pass over the blocks after the driver's cut and the forcing does to the cut controller and the currents. -/
structure Passed (s t : State) : Prop where
  cuts : t.cc.cuts = s.cc.cuts
  counter : t.cc.counter = s.cc.counter
  offset : t.cc.offset = s.cc.offset
  phase : (t.cc.phase = s.cc.phase ∧ t.cc.restSet = s.cc.restSet ∧ (t.cc.phase = .restoring → t.cc.restSet ≠ [])) ∨
    (s.cc.phase = .restoring ∧ t.cc.phase = .none ∧ t.cc.restSet = [])
  draw : t.ae.draw = s.ae.draw
  regen : t.ae.regen ≤ s.ae.regen
  share : t.ae.share ≤ s.ae.share
  within : t.ae.regen ≤ t.ae.regenRequest
  heldKey : t.ia.heldKey = if s.osm.op.evaluates then s.holdKey else s.ia.heldKey

/-- The evaluations of a step change the load channels and the array alone, and the array keeps the last. -/
theorem State.evaluate_same (os : List Inhibits) (s : State) :
    LoadOnly (if s.osm.op.evaluates then s.withIa s.evaluated else s) (s.evaluate os) := by
  unfold State.evaluate
  split
  · exact LoadOnly.foldl LoadOnly.applyInhibits _ _
  · exact LoadOnly.refl s

theorem Passed.tail (cue : Cue) (os : List Inhibits) (s0 s : State) :
    Passed s ((State.admissions cue os s0 ((s.evaluate os).refreshRequests.clampRegen os)).settleRestoring.rebuildClaims.settleShare
      cue) := by
  have h1 := ((s.evaluate_same os).trans (LoadOnly.refreshRequests _)).same
  generalize hx : (s.evaluate os).refreshRequests = x at h1
  have hc : ∃ e : Allotment, x.clampRegen os = x.withAe e ∧ e.draw = x.ae.draw ∧ e.regen ≤ x.ae.regen ∧
      e.regen ≤ e.regenRequest ∧ e.share ≤ x.ae.share :=
    ⟨_, rfl, rfl, Nat.min_le_left _ _, Nat.min_le_right _ _, Nat.min_le_left _ _⟩
  obtain ⟨e, he, hd, hr, hq, hs⟩ := hc
  rw [he]
  have h2 := (LoadOnly.admissions cue os s0 (x.withAe e)).same
  generalize State.admissions cue os s0 (x.withAe e) = y at h2
  have h3 := (LoadOnly.settleShare cue y.settleRestoring.rebuildClaims).same
  generalize y.settleRestoring.rebuildClaims.settleShare cue = t at h3
  obtain ⟨b1, b2, b3, b4, b5, b6, b7, b8, -⟩ := h1
  obtain ⟨c1, c2, c3, c4, c5, c6, c7, c8, -⟩ := h2
  obtain ⟨d1, d2, d3, d4, d5, d6, d7, d8, -⟩ := h3
  have hcc : ∀ z : State, (if z.osm.op.evaluates then z.withIa z.evaluated else z).cc = z.cc := by
    intro z; split <;> rfl
  have hae : ∀ z : State, (if z.osm.op.evaluates then z.withIa z.evaluated else z).ae = z.ae := by
    intro z; split <;> rfl
  have hia : ∀ z : State, (if z.osm.op.evaluates then z.withIa z.evaluated else z).ia.heldKey =
      if z.osm.op.evaluates then z.holdKey else z.ia.heldKey := by
    intro z; split <;> rfl
  have hr1 : ∀ z : State, z.settleRestoring.rebuildClaims.cc.cuts = z.cc.cuts ∧
      z.settleRestoring.rebuildClaims.cc.counter = z.cc.counter ∧
      z.settleRestoring.rebuildClaims.cc.offset = z.cc.offset ∧
      z.settleRestoring.rebuildClaims.ae.draw = z.ae.draw ∧ z.settleRestoring.rebuildClaims.ae.regen = z.ae.regen ∧
      z.settleRestoring.rebuildClaims.ae.share = z.ae.share ∧
      z.settleRestoring.rebuildClaims.ae.regenRequest = z.ae.regenRequest ∧
      z.settleRestoring.rebuildClaims.ia = z.ia := by
    intro z; unfold State.settleRestoring; split <;> exact ⟨rfl, rfl, rfl, rfl, rfl, rfl, rfl, rfl⟩
  have hr2 : ∀ z : State, (z.settleRestoring.rebuildClaims.cc.phase = z.cc.phase ∧
      z.settleRestoring.rebuildClaims.cc.restSet = z.cc.restSet ∧
      (z.cc.phase = .restoring → z.cc.restSet ≠ [])) ∨ (z.cc.phase = .restoring ∧
      z.settleRestoring.rebuildClaims.cc.phase = .none ∧ z.settleRestoring.rebuildClaims.cc.restSet = []) := by
    intro z; unfold State.settleRestoring; split
    · rename_i h; exact .inr ⟨h.1, rfl, rfl⟩
    · rename_i h
      refine .inl ⟨rfl, rfl, fun hp he => h ⟨hp, ?_⟩⟩
      rw [he]; rfl
  obtain ⟨r1, r2, r3, r4, r5, r6, r7, r8⟩ := hr1 y
  have e1 : y.cc.phase = s.cc.phase := by rw [c3]; exact b3.trans (congrArg _ (hcc s))
  have e2 : y.cc.restSet = s.cc.restSet := by rw [c5]; exact b5.trans (congrArg _ (hcc s))
  constructor
  · rw [d1, r1, c1]; exact b1.trans (congrArg _ (hcc s))
  · rw [d2, r2, c2]; exact b2.trans (congrArg _ (hcc s))
  · rw [d4, r3, c4]; exact b4.trans (congrArg _ (hcc s))
  · rcases hr2 y with ⟨p1, p2, p3⟩ | ⟨p1, p2, p3⟩
    · exact .inl ⟨by rw [d3, p1, e1], by rw [d5, p2, e2], by rw [d3, p1, d5, p2]; exact p3⟩
    · exact .inr ⟨e1 ▸ p1, by rw [d3, p2], by rw [d5, p3]⟩
  · rw [d6, r4, c6]; show e.draw = _; rw [hd, b6, hae]
  · rw [d6, r5, c6]; show e.regen ≤ _; rw [b6, hae] at hr; exact hr
  · rw [d6, r6, c6]; show e.share ≤ _; rw [b6, hae] at hs; exact hs
  · rw [d6, r5, r7, c6]; exact hq
  · rw [d8, r8, c8]; exact (congrArg _ b8).trans (hia s)

/-- The forcing conditions read nothing that one pass over the blocks changes, past the driver's cut. -/
theorem State.forced_congr {s t : State} (h : Kept s t) (hc : t.cc.cuts = s.cc.cuts) : t.forced = s.forced := by
  unfold State.forced State.sourceRead
  rw [hc, h.osm, h.pwu, h.pvt, h.settings]

/-- The key reads nothing that one pass over the blocks changes but its held value. -/
theorem State.keyOn_congr {s t : State} (h : Kept s t) (hk : t.ia.heldKey = s.ia.heldKey ∨ t.ia.heldKey = s.holdKey) :
    t.keyOn = s.keyOn := by
  unfold State.keyOn
  rw [h.osm, h.settings, h.pvt]
  split
  · unfold State.din; rw [h.su]
  · rename_i hr
    split
    · unfold State.din; rw [h.su]
    · rename_i hs
      rcases hk with hk | hk
      · rw [hk]
      · rw [hk]
        unfold State.holdKey
        simp only [if_neg hr, hs]
        cases (consolePartOf s.pvt s.settings.consoleStation).map ConsolePart.key <;> rfl

/-- The driver's cut agrees with the input: one pass over the blocks changes no cut. -/
theorem State.driverCut_settled (s : State) (h : s.DriverSettled) : s.driverCut = s := by
  unfold State.driverCut
  split
  · rename_i hr
    have h8 := h hr.1 (by unfold OpState.runs; rw [hr.2]; rfl)
    split
    · rename_i hd
      unfold State.originate
      rw [if_pos (h8.symm.trans hd)]
    · rename_i hd
      unfold State.releaseOwn
      have : s.holdsCut .driver = false := by rw [← h8]; simpa using hd
      unfold State.holdsCut at this
      cases hx : s.ownCut .driver with
      | none => rfl
      | some e => rw [hx] at this; cases this
  · rfl

/-- What the forcing leaves. -/
theorem State.forceZero_spec (s : State) : s.forceZero.cc = s.cc ∧ s.forceZero.ia = s.ia ∧
    s.forceZero.ae.draw = (if s.forced then 0 else s.ae.draw) ∧
    s.forceZero.ae.regen = (if s.forced then 0 else s.ae.regen) ∧
    s.forceZero.ae.share = (if s.forced then 0 else s.ae.share) := by
  unfold State.forceZero
  split
  · unfold State.zeroDraw
    obtain ⟨a, ha, -⟩ := State.clearCond_only
      (s.withAe { s.ae with draw := 0, regen := 0, share := 0, shareBase := 0 }) .sinkShort 0
    rw [ha]
    exact ⟨rfl, rfl, rfl, rfl, rfl⟩
  · exact ⟨rfl, rfl, rfl, rfl, rfl⟩

/-- One pass over the blocks at a settled driver's cut. -/
structure Pass (s t : State) : Prop where
  kept : Kept s t
  cuts : t.cc.cuts = s.cc.cuts
  counter : t.cc.counter = s.cc.counter
  offset : t.cc.offset = s.cc.offset
  phase : (t.cc.phase = s.cc.phase ∧ t.cc.restSet = s.cc.restSet ∧ (t.cc.phase = .restoring → t.cc.restSet ≠ [])) ∨
    (s.cc.phase = .restoring ∧ t.cc.phase = .none ∧ t.cc.restSet = [])
  draw : t.ae.draw = if s.forced then 0 else s.ae.draw
  regen : t.ae.regen ≤ if s.forced then 0 else s.ae.regen
  share : t.ae.share ≤ if s.forced then 0 else s.ae.share
  within : t.ae.regen ≤ t.ae.regenRequest
  key : t.keyOn = s.keyOn

/-- What one pass over the blocks does, from the state in which the driver's cut has been taken. -/
theorem Pass.afterDriver (cue : Cue) (s0 s : State) : Pass s.driverCut (State.settleBlocks cue s0 s) := by
  have k : Kept s.driverCut (State.settleBlocks cue s0 s) :=
    (((((((Kept.forceZero _).trans (Kept.evaluate _ _)).trans (Kept.refreshRequests _)).trans
      (Kept.clampRegen _ _)).trans (Kept.admissions cue _ s0 _)).trans (Kept.settleRestoring _)).trans
        (Kept.rebuildClaims _)).trans (Kept.settleShare cue _)
  have p : Passed s.driverCut.forceZero (State.settleBlocks cue s0 s) := Passed.tail cue _ s0 s.driverCut.forceZero
  obtain ⟨z1, z2, z3, z4, z5⟩ := s.driverCut.forceZero_spec
  refine ⟨k, z1 ▸ p.cuts, z1 ▸ p.counter, z1 ▸ p.offset, z1 ▸ p.phase, z3 ▸ p.draw, z4 ▸ p.regen, z5 ▸ p.share,
    p.within, ?_⟩
  refine State.keyOn_congr k ?_
  have hk := p.heldKey
  rw [z2] at hk
  split at hk
  · refine .inr ?_
    rw [hk]
    unfold State.holdKey
    rw [z2, (Kept.forceZero s.driverCut).osm, (Kept.forceZero s.driverCut).settings, (Kept.forceZero s.driverCut).pvt]
  · exact .inl hk

theorem Pass.settleBlocks (cue : Cue) (s0 s : State) (h : s.DriverSettled) : Pass s (State.settleBlocks cue s0 s) := by
  have := Pass.afterDriver cue s0 s
  rwa [s.driverCut_settled h] at this

theorem Pass.driver {s t : State} (p : Pass s t) (h : s.DriverSettled) : t.DriverSettled := by
  intro hr ho
  have := h (p.kept.osm ▸ hr) (p.kept.osm ▸ ho)
  unfold State.din State.holdsCut State.ownCut at *
  rw [p.kept.su, p.cuts]
  exact this

theorem Pass.forced {s t : State} (p : Pass s t) : t.forced = s.forced := State.forced_congr p.kept p.cuts

/-- What an operation of the cut controller leaves beside the cut set: the interlock array, the regen request and the
station's own numbers; it only lowers the currents. -/
structure Cutting (s t : State) : Prop where
  kept : Kept s t
  ia : t.ia = s.ia
  draw : t.ae.draw = s.ae.draw ∨ t.ae.draw = 0
  regen : t.ae.regen ≤ s.ae.regen
  regenRequest : t.ae.regenRequest = s.ae.regenRequest
  share : t.ae.share ≤ s.ae.share

theorem Cutting.refl (s : State) : Cutting s s := ⟨Kept.refl s, rfl, .inl rfl, le_rfl, rfl, le_rfl⟩

theorem Cutting.trans {s t u : State} (h : Cutting s t) (k : Cutting t u) : Cutting s u := by
  refine ⟨h.kept.trans k.kept, k.ia.trans h.ia, ?_, k.regen.trans h.regen, k.regenRequest.trans h.regenRequest,
    k.share.trans h.share⟩
  rcases k.draw with e | e
  · rw [e]; exact h.draw
  · exact .inr e

theorem Cutting.ite {p : Prop} [Decidable p] {s t u : State} (h : Cutting s t) (k : Cutting s u) :
    Cutting s (if p then t else u) := by split <;> assumption

theorem Cutting.foldl {α : Type} {f : State → α → State} (h : ∀ s a, Cutting s (f s a)) (l : List α) (s : State) :
    Cutting s (l.foldl f s) := by
  induction l generalizing s with
  | nil => exact Cutting.refl s
  | cons a l ih => exact (h s a).trans (ih _)

theorem Cutting.withCc (s : State) (x : CutUnit) : Cutting s (s.withCc x) :=
  ⟨Kept.withCc s x, rfl, .inl rfl, le_rfl, rfl, le_rfl⟩

theorem Cutting.pushUrgent (s : State) (m : Message) : Cutting s (s.pushUrgent m) :=
  ⟨Kept.pushUrgent s m, rfl, .inl rfl, le_rfl, rfl, le_rfl⟩

theorem Cutting.loads {s t : State} (h : LoadOnly s t) (k : Kept s t) : Cutting s t := by
  obtain ⟨l, a, r, rfl⟩ := h
  exact ⟨k, rfl, .inl rfl, le_rfl, rfl, le_rfl⟩

theorem Cutting.zeroDraw (s : State) : Cutting s s.zeroDraw := by
  have k := Kept.zeroDraw s
  unfold State.zeroDraw at *
  obtain ⟨a, ha, -⟩ := State.clearCond_only
    (s.withAe { s.ae with draw := 0, regen := 0, share := 0, shareBase := 0 }) .sinkShort 0
  rw [ha] at k ⊢
  exact ⟨k, rfl, .inr rfl, Nat.zero_le _, rfl, Nat.zero_le _⟩

theorem Cutting.beginHeld (s : State) : Cutting s s.beginHeld := by
  unfold State.beginHeld
  dsimp only
  refine Cutting.trans (Cutting.trans ((Cutting.zeroDraw s).trans
    (Cutting.withCc _ { s.zeroDraw.cc with phase := .held, offset := 0 })) ?_) (Cutting.withCc _ _)
  exact Cutting.loads ((LoadOnly.foldl LoadOnly.returnShed _ _).trans ((LoadOnly.stopAll _).trans (LoadOnly.finishShed _)))
    ((Kept.foldl Kept.returnShed _ _).trans ((Kept.stopAll _).trans (Kept.finishShed _)))

theorem Cutting.putCuts (s : State) (cuts : List CutEntry) : Cutting s (s.putCuts cuts) :=
  Cutting.ite ((Cutting.withCc s _).trans (Cutting.beginHeld _))
    (Cutting.ite ((Cutting.withCc s _).trans (Cutting.withCc _ _)) (Cutting.withCc s _))

theorem Cutting.originate (s : State) (c : CutCause) : Cutting s (s.originate c) :=
  Cutting.ite (Cutting.refl s) (((Cutting.withCc s _).trans (Cutting.putCuts _ _)).trans (Cutting.pushUrgent _ _))

theorem Cutting.releaseOwn (s : State) (c : CutCause) : Cutting s (s.releaseOwn c) := by
  unfold State.releaseOwn
  split
  · exact Cutting.refl s
  · exact (Cutting.putCuts s _).trans (Cutting.pushUrgent _ _)

theorem Cutting.driverCut (s : State) : Cutting s s.driverCut :=
  Cutting.ite (Cutting.ite (Cutting.originate s _) (Cutting.releaseOwn s _)) (Cutting.refl s)

/-- The key reads the same after an operation of the cut controller. -/
theorem Cutting.keyOn {s t : State} (h : Cutting s t) : t.keyOn = s.keyOn :=
  State.keyOn_congr h.kept (.inl (by rw [h.ia]))

/-- The key reads the same after one pass over the blocks. -/
theorem State.settleBlocks_keyOn (cue : Cue) (s0 s : State) : (State.settleBlocks cue s0 s).keyOn = s.keyOn :=
  (Pass.afterDriver cue s0 s).key.trans (Cutting.driverCut s).keyOn

end Sys2Proof.Machine
end

