-- ==== Sys2Proof/Laws/React.lean ====
section
/-! SUPPORT. React.lean: the blocks' whole reaction to a command, put together: the operating state, the cut set, the phase
and the currents it leaves. -/

namespace Sys2Proof.Machine

/-- What the reaction's closing part (own entry, composition, events, outputs) leaves as it was. -/
structure Closed (s t : State) : Prop where
  cc : t.cc = s.cc
  ia : t.ia = s.ia
  lcm : t.lcm = s.lcm
  au : t.au = s.au
  pwu : t.pwu = s.pwu
  cf : t.cf = s.cf
  op : t.osm.op = s.osm.op
  listen : t.osm.listen = s.osm.listen
  draw : t.ae.draw = s.ae.draw
  regen : t.ae.regen = s.ae.regen
  regenRequest : t.ae.regenRequest = s.ae.regenRequest
  share : t.ae.share = s.ae.share
  urgent : t.bus.urgentSlots = s.bus.urgentSlots

theorem Closed.refl (s : State) : Closed s s := ⟨rfl, rfl, rfl, rfl, rfl, rfl, rfl, rfl, rfl, rfl, rfl, rfl, rfl⟩

theorem Closed.trans {s t u : State} (h : Closed s t) (k : Closed t u) : Closed s u :=
  ⟨k.cc.trans h.cc, k.ia.trans h.ia, k.lcm.trans h.lcm, k.au.trans h.au, k.pwu.trans h.pwu, k.cf.trans h.cf,
    k.op.trans h.op, k.listen.trans h.listen, k.draw.trans h.draw, k.regen.trans h.regen,
    k.regenRequest.trans h.regenRequest, k.share.trans h.share, k.urgent.trans h.urgent⟩

theorem Closed.ite {p : Prop} [Decidable p] {s t u : State} (h : Closed s t) (k : Closed s u) :
    Closed s (if p then t else u) := by split <;> assumption

theorem Closed.setEntry (s : State) (n : Nat) (e : Entry) : Closed s (s.setEntry n e) :=
  ⟨rfl, rfl, rfl, rfl, rfl, rfl, rfl, rfl, rfl, rfl, rfl, rfl, rfl⟩

theorem Closed.pushBeacon (s : State) (m : Message) : Closed s (s.pushBeacon m) :=
  ⟨rfl, rfl, rfl, rfl, rfl, rfl, rfl, rfl, rfl, rfl, rfl, rfl, rfl⟩

theorem Closed.fillOwn (s : State) (b : Beacon) : Closed s (s.fillOwn b) :=
  Closed.ite (Closed.refl s) (Closed.setEntry s _ _)

theorem Closed.composeBeacon (s : State) (b : Beacon) : Closed s (s.composeBeacon b) :=
  ((Closed.fillOwn s b).trans (Closed.pushBeacon _ (.beacon b))).trans
    ⟨rfl, rfl, rfl, rfl, rfl, rfl, rfl, rfl, rfl, rfl, rfl, rfl, rfl⟩

theorem Closed.compose (s : State) : Closed s s.compose :=
  Closed.ite (Closed.refl s) (Closed.ite ((Closed.setEntry s _ _).trans (Closed.pushBeacon _ _)) (Closed.composeBeacon s _))

theorem Closed.startComputation (s : State) (k : CompKind) : Closed s (s.startComputation k) :=
  ⟨rfl, rfl, rfl, rfl, rfl, rfl, rfl, rfl, rfl, rfl, rfl, rfl, rfl⟩

theorem Closed.startWaiting (s : State) : Closed s s.startWaiting := by
  unfold State.startWaiting
  split
  · exact ⟨rfl, rfl, rfl, rfl, rfl, rfl, rfl, rfl, rfl, rfl, rfl, rfl, rfl⟩
  · exact Closed.refl s

theorem Closed.allotmentEvent (s : State) (k : CompKind) : Closed s (s.allotmentEvent k) := by
  unfold State.allotmentEvent
  exact Closed.trans (t := s.withAe { s.ae with waiting := some (joinKind s.ae.waiting k) })
    ⟨rfl, rfl, rfl, rfl, rfl, rfl, rfl, rfl, rfl, rfl, rfl, rfl, rfl⟩ (Closed.startWaiting _)

theorem Closed.settleEvents (cue : Cue) (s0 s : State) : Closed s (State.settleEvents cue s0 s) :=
  (Closed.ite (Closed.allotmentEvent s .unscheduled) (Closed.refl s)).trans (Closed.startWaiting _)

theorem Closed.followPoles (s : State) : Closed s s.followPoles := by
  unfold State.followPoles
  dsimp only
  split
  · exact Closed.ite (Closed.setEntry s _ _) (Closed.refl s)
  · exact Closed.refl s

theorem Closed.settleSetpoint (s : State) : Closed s s.settleSetpoint :=
  ⟨rfl, rfl, rfl, rfl, rfl, rfl, rfl, rfl, rfl, rfl, rfl, rfl, rfl⟩

theorem Closed.settleShares (s : State) : Closed s s.settleShares :=
  ⟨rfl, rfl, rfl, rfl, rfl, rfl, rfl, rfl, rfl, rfl, rfl, rfl, rfl⟩

theorem Closed.settleDormancy (s : State) : Closed s s.settleDormancy :=
  Closed.ite (Closed.refl s) ⟨rfl, rfl, rfl, rfl, rfl, rfl, rfl, rfl, rfl, rfl, rfl, rfl, rfl⟩

theorem Closed.refreshOutputs (s : State) : Closed s s.refreshOutputs :=
  ⟨rfl, rfl, rfl, rfl, rfl, rfl, rfl, rfl, rfl, rfl, rfl, rfl, rfl⟩

theorem Closed.settleOutputs (s : State) : Closed s s.settleOutputs :=
  ((((Closed.followPoles s).trans (Closed.settleSetpoint _)).trans (Closed.settleShares _)).trans
    (Closed.settleDormancy _)).trans (Closed.refreshOutputs _)

/-- The reaction's closing part. -/
theorem Closed.react (cue : Cue) (s0 s : State) :
    Closed (State.settleBlocks cue s0 s).settleMove (State.react cue s0 s) := by
  refine Closed.trans ?_ (Closed.settleOutputs _)
  refine Closed.trans ?_ (Closed.settleEvents cue s0 _)
  refine Closed.trans ?_ (Closed.ite (Closed.compose _) (Closed.refl _))
  exact Closed.ite (Closed.fillOwn _ _) (Closed.refl _)

/-- What a move of the operating state by the key and the draw leaves as it was. -/
structure Moved (s t : State) : Prop where
  cuts : t.cc.cuts = s.cc.cuts
  counter : t.cc.counter = s.cc.counter
  offset : t.cc.offset = s.cc.offset
  phase : t.cc.phase = s.cc.phase
  restSet : t.cc.restSet = s.cc.restSet
  draw : t.ae.draw = s.ae.draw
  regen : t.ae.regen = s.ae.regen
  regenRequest : t.ae.regenRequest = s.ae.regenRequest
  share : t.ae.share = s.ae.share
  heldKey : t.ia.heldKey = s.ia.heldKey
  urgent : t.bus.urgentSlots = s.bus.urgentSlots

theorem Moved.refl (s : State) : Moved s s := ⟨rfl, rfl, rfl, rfl, rfl, rfl, rfl, rfl, rfl, rfl, rfl⟩

theorem Moved.trans {s t u : State} (h : Moved s t) (k : Moved t u) : Moved s u :=
  ⟨k.cuts.trans h.cuts, k.counter.trans h.counter, k.offset.trans h.offset, k.phase.trans h.phase,
    k.restSet.trans h.restSet, k.draw.trans h.draw, k.regen.trans h.regen, k.regenRequest.trans h.regenRequest,
    k.share.trans h.share, k.heldKey.trans h.heldKey, k.urgent.trans h.urgent⟩

theorem LoadOnly.moved {s t : State} (h : LoadOnly s t) : Moved s t := by
  obtain ⟨l, a, r, rfl⟩ := h
  exact ⟨rfl, rfl, rfl, rfl, rfl, rfl, rfl, rfl, rfl, rfl, rfl⟩

theorem Moved.foldl {α : Type} {f : State → α → State} (h : ∀ s a, Moved s (f s a)) (l : List α) (s : State) :
    Moved s (l.foldl f s) := by
  induction l generalizing s with
  | nil => exact Moved.refl s
  | cons a l ih => exact (h s a).trans (ih _)

theorem Moved.reperiodAll (s : State) : Moved s s.reperiodAll :=
  Moved.foldl (f := fun t n => t.setEntry n (t.reperiod n)) (fun _ _ => ⟨rfl, rfl, rfl, rfl, rfl, rfl, rfl, rfl, rfl, rfl, rfl⟩) _ s

theorem State.reperiodAll_osm (s : State) : s.reperiodAll.osm = s.osm := by
  unfold State.reperiodAll
  have : ∀ (l : List Nat) (u : State), (l.foldl (fun t n => t.setEntry n (t.reperiod n)) u).osm = u.osm := by
    intro l
    induction l with
    | nil => exact fun _ => rfl
    | cons a l ih => exact fun u => ih _
  exact this _ _

theorem Moved.enterParked (s : State) : Moved s s.enterParked ∧ s.enterParked.osm.op = .parked := by
  have h : LoadOnly ((s.enterOp .parked).restartDue.reperiodAll) s.enterParked :=
    (LoadOnly.foldl LoadOnly.parkChannel _ _).trans (LoadOnly.resetCounter _)
  constructor
  · exact ((⟨rfl, rfl, rfl, rfl, rfl, rfl, rfl, rfl, rfl, rfl, rfl⟩ : Moved s (s.enterOp .parked).restartDue).trans
      (Moved.reperiodAll _)).trans h.moved
  · rw [h.same.2.2.2.2.2.2.1, State.reperiodAll_osm]; rfl

theorem Moved.leaveParked (s : State) : Moved s s.leaveParked ∧ s.leaveParked.osm.op = .listening ∧
    s.leaveParked.osm.listen = 0 := by
  refine ⟨(⟨rfl, rfl, rfl, rfl, rfl, rfl, rfl, rfl, rfl, rfl, rfl⟩ : Moved s (s.enterOp .listening).restartDue).trans
      (Moved.reperiodAll _), ?_, ?_⟩ <;>
  · unfold State.leaveParked; rw [State.reperiodAll_osm]; rfl

theorem Moved.endPattern (s : State) : Moved s s.endPattern ∧ s.endPattern.osm.op = .listening ∧
    s.endPattern.osm.listen = 0 :=
  ⟨⟨rfl, rfl, rfl, rfl, rfl, rfl, rfl, rfl, rfl, rfl, rfl⟩, rfl, rfl⟩

theorem Moved.wake (s : State) : Moved s s.wake ∧ s.wake.osm.op = .listening ∧ s.wake.osm.listen = 0 ∧
    s.wake.lcm.carrierOn = true := by
  unfold State.wake State.readSpecial State.startFlash State.startTracking
  refine ⟨?_, ?_, ?_, ?_⟩ <;>
    (repeat' split) <;> first | rfl | exact ⟨rfl, rfl, rfl, rfl, rfl, rfl, rfl, rfl, rfl, rfl, rfl⟩

theorem Moved.autoMove (s : State) : Moved s s.autoMove := by
  unfold State.autoMove
  split
  · split
    · exact (Moved.enterParked s).1
    · exact Moved.refl s
  · split
    · exact (Moved.leaveParked s).1
    · exact Moved.refl s
  · split
    · exact Moved.refl s
    · exact (Moved.endPattern s).1
  · split
    · exact (Moved.wake s).1
    · exact Moved.refl s
  · exact Moved.refl s

/-- The operating state that the key and the draw decide (R192, R198, R199). -/
theorem State.autoMove_op (s : State) : s.autoMove.osm.op = match s.osm.op with
    | .active => if !s.keyOn && s.ae.draw == 0 then .parked else .active
    | .parked => if s.keyOn then .listening else .parked
    | .pattern => if s.keyOn then .pattern else .listening
    | .dormant => if s.keyOn then .listening else .dormant
    | o => o := by
  unfold State.autoMove
  split <;> rename_i h <;> try simp only [h]
  · split
    · exact (Moved.enterParked s).2
    · exact h
  · split
    · exact (Moved.leaveParked s).2.1
    · exact h
  · split
    · exact h
    · exact (Moved.endPattern s).2.1
  · split
    · exact (Moved.wake s).2.1
    · exact h

theorem State.autoMove_same (s : State) (h : s.autoMove.osm.op = s.osm.op) : s.autoMove = s := by
  have e := s.autoMove_op
  rw [h] at e
  unfold State.autoMove
  split <;> rename_i ho <;> simp only [ho] at e
  · split
    · rename_i hc; rw [if_pos hc] at e; cases e
    · rfl
  · split
    · rename_i hc; rw [if_pos hc] at e; cases e
    · rfl
  · split
    · rfl
    · rename_i hc; rw [if_neg hc] at e; cases e
  · split
    · rename_i hc; rw [if_pos hc] at e; cases e
    · rfl
  · rfl

/-- In an operating state that may not draw the draw is forced. -/
theorem State.forced_of (s : State) (h : s.osm.op.draws = false) : s.forced = true := by
  unfold State.forced; rw [h]; simp

/-- What the reaction leaves at a settled driver's cut. -/
structure Reacted (s t : State) : Prop where
  cuts : t.cc.cuts = s.cc.cuts
  counter : t.cc.counter = s.cc.counter
  offset : t.cc.offset = s.cc.offset
  phase : (t.cc.phase = s.cc.phase ∧ t.cc.restSet = s.cc.restSet ∧ (t.cc.phase = .restoring → t.cc.restSet ≠ [])) ∨
    (s.cc.phase = .restoring ∧ t.cc.phase = .none ∧ t.cc.restSet = [])
  draw : t.ae.draw = s.ae.draw ∨ t.ae.draw = 0
  regen : t.ae.regen ≤ s.ae.regen
  zero : s.forced = true → t.ae.draw = 0 ∧ t.ae.regen = 0 ∧ t.ae.share = 0
  within : t.ae.regen ≤ t.ae.regenRequest

/-- A station that runs on its image after a move of the key or the draw ran on it before. -/
theorem State.autoMove_runs (s : State) (h : s.autoMove.osm.op.runs = true) : s.osm.op.runs = true := by
  by_cases e : s.autoMove.osm.op = s.osm.op
  · rwa [e] at h
  · unfold State.autoMove at e
    cases ho : s.osm.op <;> rw [ho] at e <;> first | rfl | exact absurd ho e

theorem Moved.driver {s t : State} (m : Moved s t) (k : Carried s t) (hs : t.osm.op.runs = true → s.osm.op.runs = true)
    (h : s.DriverSettled) : t.DriverSettled := by
  intro hr ho
  have := h (k.role ▸ hr) (hs ho)
  unfold State.din State.holdsCut State.ownCut at *
  rw [k.su, m.cuts]
  exact this

/-- A move of the operating state raises no current. -/
theorem State.autoMove_zero (s : State) (h0 : s.ae.draw = 0 ∧ s.ae.regen = 0 ∧ s.ae.share = 0) :
    s.autoMove.ae.draw = 0 ∧ s.autoMove.ae.regen = 0 ∧ s.autoMove.ae.share = 0 := by
  have m := Moved.autoMove s
  rw [m.draw, m.regen, m.share]
  exact h0

theorem State.settleMove_cases (s : State) :
    (s.autoMove = s ∧ s.settleMove = s) ∨
      (s.autoMove.osm.op ≠ s.osm.op ∧ s.settleMove = State.settleBlocks noCue s s.autoMove) := by
  unfold State.settleMove
  dsimp only
  split
  · rename_i h; exact .inl ⟨s.autoMove_same h, rfl⟩
  · rename_i h; exact .inr ⟨h, rfl⟩

/-- What the reaction leaves at a settled driver's cut. -/
theorem Reacted.react (cue : Cue) (s0 s : State) (h : s.DriverSettled) : Reacted s (State.react cue s0 s) := by
  have c := Closed.react cue s0 s
  have p := Pass.settleBlocks cue s0 s h
  generalize State.react cue s0 s = t at c
  generalize State.settleBlocks cue s0 s = x at c p
  have key : Reacted s x.settleMove := by
    have hx : Reacted s x := by
      refine ⟨p.cuts, p.counter, p.offset, p.phase, ?_, ?_, ?_, p.within⟩
      · rw [p.draw]; split
        · exact .inr rfl
        · exact .inl rfl
      · refine p.regen.trans ?_
        split <;> omega
      · intro hf
        have a := p.draw; have b := p.regen; have d := p.share
        rw [if_pos hf] at a b d
        exact ⟨a, Nat.le_zero.mp b, Nat.le_zero.mp d⟩
    rcases x.settleMove_cases with ⟨-, e⟩ | ⟨-, e⟩
    · rw [e]; exact hx
    · rw [e]
      have m := Moved.autoMove x
      have q := Pass.settleBlocks noCue x x.autoMove (m.driver (Carried.autoMove x) x.autoMove_runs (p.driver h))
      generalize State.settleBlocks noCue x x.autoMove = y at q
      refine ⟨q.cuts.trans (m.cuts.trans hx.cuts), q.counter.trans (m.counter.trans hx.counter),
        q.offset.trans (m.offset.trans hx.offset), ?_, ?_, ?_, ?_, q.within⟩
      · rcases q.phase with ⟨a, b, -⟩ | ⟨a, b, d⟩
        · rw [a, b, m.phase, m.restSet]; exact hx.phase
        · rw [m.phase] at a
          rcases hx.phase with ⟨e1, -⟩ | ⟨-, e2, -⟩
          · exact .inr ⟨e1 ▸ a, b, d⟩
          · rw [e2] at a; cases a
      · rw [q.draw, m.draw]
        split
        · exact .inr rfl
        · exact hx.draw
      · refine q.regen.trans ?_
        have := hx.regen
        rw [m.regen]
        split <;> omega
      · intro hf
        obtain ⟨a, b, d⟩ := hx.zero hf
        have e1 := q.draw; have e2 := q.regen; have e3 := q.share
        rw [m.draw, a] at e1; rw [m.regen, b] at e2; rw [m.share, d] at e3
        simp only [ite_self] at e1 e2 e3
        exact ⟨e1, Nat.le_zero.mp e2, Nat.le_zero.mp e3⟩
  refine ⟨?_, ?_, ?_, ?_, ?_, ?_, ?_, ?_⟩
  · rw [c.cc]; exact key.cuts
  · rw [c.cc]; exact key.counter
  · rw [c.cc]; exact key.offset
  · rw [c.cc]; exact key.phase
  · rw [c.draw]; exact key.draw
  · rw [c.regen]; exact key.regen
  · rw [c.draw, c.regen, c.share]; exact key.zero
  · rw [c.regen, c.regenRequest]; exact key.within

/-- The operating state the reaction leaves (R192, R198, R199). -/
theorem State.react_op (cue : Cue) (s0 s : State) : (State.react cue s0 s).osm.op = match s.osm.op with
    | .active => if !s.keyOn && (State.settleBlocks cue s0 s).ae.draw == 0 then .parked else .active
    | .parked => if s.keyOn then .listening else .parked
    | .pattern => if s.keyOn then .pattern else .listening
    | .dormant => if s.keyOn then .listening else .dormant
    | o => o := by
  rw [(Closed.react cue s0 s).op]
  have k := Kept.settleBlocks cue s0 s
  have e := (State.settleBlocks cue s0 s).autoMove_op
  rw [k.osm, State.settleBlocks_keyOn] at e
  rw [← e]
  rcases (State.settleBlocks cue s0 s).settleMove_cases with ⟨a, b⟩ | ⟨-, b⟩
  · rw [b, a]
  · rw [b, (Kept.settleBlocks _ _ _).osm]

/-- The reaction keeps an operating state that neither the key nor the draw moves. -/
theorem State.react_op_same (cue : Cue) (s0 s : State)
    (h : s.osm.op = .loading ∨ s.osm.op = .maintenance ∨ s.osm.op = .faulted ∨ s.osm.op = .listening ∨
      (s.osm.op = .active ∧ s.keyOn = true) ∨ (s.osm.op = .parked ∧ s.keyOn = false) ∨
      (s.osm.op = .pattern ∧ s.keyOn = true) ∨ (s.osm.op = .dormant ∧ s.keyOn = false)) :
    (State.react cue s0 s).osm.op = s.osm.op := by
  rw [State.react_op]
  rcases h with h | h | h | h | ⟨h, k⟩ | ⟨h, k⟩ | ⟨h, k⟩ | ⟨h, k⟩ <;> simp [*]

/-- Where the operating state stays, the reaction is one pass over the blocks and the closing part. -/
theorem Closed.react_same (cue : Cue) (s0 s : State) (h : (State.react cue s0 s).osm.op = s.osm.op) :
    Closed (State.settleBlocks cue s0 s) (State.react cue s0 s) := by
  have c := Closed.react cue s0 s
  have k := Kept.settleBlocks cue s0 s
  rcases (State.settleBlocks cue s0 s).settleMove_cases with ⟨-, b⟩ | ⟨a, b⟩
  · rwa [b] at c
  · exfalso
    apply a
    rw [k.osm, ← h, c.op, b, (Kept.settleBlocks _ _ _).osm]

/-- Where the operating state stays, so do the console functions, the listen-in timer and the carrier clock. -/
theorem State.react_kept (cue : Cue) (s0 s : State) (h : (State.react cue s0 s).osm.op = s.osm.op) :
    (State.react cue s0 s).cf = s.cf ∧ (State.react cue s0 s).osm.listen = s.osm.listen ∧
      (State.react cue s0 s).pwu = s.pwu ∧
      ((State.react cue s0 s).lcm.carrierOn, (State.react cue s0 s).lcm.slot, (State.react cue s0 s).lcm.slotClock) =
        (s.lcm.carrierOn, s.lcm.slot, s.lcm.slotClock) := by
  have c := Closed.react_same cue s0 s h
  have k := Kept.settleBlocks cue s0 s
  exact ⟨c.cf.trans k.cf, c.listen.trans (by rw [k.osm]), c.pwu.trans k.pwu, by rw [c.lcm]; exact k.carrier⟩

/-- A condition that no pass over the blocks begins or ends is in force after the reaction as before it. -/
theorem State.react_inForce (cue : Cue) (s0 s : State) (k : AlarmKind) (q : Nat) (h : blockCondition (k, q) = false) :
    (State.react cue s0 s).inForce k q = s.inForce k q := by
  have e := (Carried.react cue s0 s).inForce
  have key : ∀ a : AlarmUnit, a.inForce.contains (k, q) = a.steady.contains (k, q) := by
    intro a
    unfold AlarmUnit.steady
    rw [Bool.eq_iff_iff]
    simp [List.mem_filter, h]
  unfold State.inForce
  rw [key, key, e]

/-- A peer entry after the reaction agrees with the one the command left. -/
theorem Carried.agrees {s t : State} (h : Carried s t) (n : Nat) (hn : s.isOwn n = false) :
    (t.entry n).agrees (s.entry n) := by
  have e := h.peers n hn
  unfold Entry.carried at e
  simp only [Entry.mk.injEq] at e
  exact ⟨e.1, e.2.1, e.2.2.2.1, e.2.2.2.2.1, e.2.2.2.2.2⟩

/-- The pole records after the reaction. -/
theorem Carried.poles {s t : State} (h : Carried s t) : t.pwu.pos = s.pwu.pos ∧ t.pwu.neg = s.pwu.neg ∧
    t.pwu.operation = s.pwu.operation ∧ t.pwu.raiseTimer = s.pwu.raiseTimer ∧ t.pwu.drainTimer = s.pwu.drainTimer ∧
    t.pwu.line = s.pwu.line ∧ t.pwu.gapTimer = s.pwu.gapTimer ∧ t.pwu.source = s.pwu.source ∧
    t.pwu.sourceTimer = s.pwu.sourceTimer ∧ t.pwu.loadPending = s.pwu.loadPending := by
  have e := h.pwu
  unfold PoleUnit.carried at e
  simp only [PoleUnit.mk.injEq] at e
  tauto

theorem Carried.pole {s t : State} (h : Carried s t) (p : Pole) : t.pole p = s.pole p := by
  cases p
  · exact h.poles.1
  · exact h.poles.2.1

/-- The last command result after the reaction. -/
theorem Carried.lastResult {s t : State} (h : Carried s t) : t.bus.lastResult = s.bus.lastResult := by
  have e := h.bus
  exact congrArg (fun b => b.1.lastResult) e

end Sys2Proof.Machine
end

