-- ==== Sys2Proof/Laws/Poles.lean ====
section
/-! SUPPORT. Poles.lean: what a step of the pole watch unit ends with: the own cuts it holds afterwards, and the pole
records, the operation and the line state it leaves. -/

namespace Sys2Proof.Machine

/-- The own cuts of a list. -/
def ownCause (cuts : List CutEntry) (c : CutCause) : Bool := cuts.any (fun e => e.own && e.cause == c)

theorem State.holdsCut_eq (s : State) (c : CutCause) : s.holdsCut c = ownCause s.cc.cuts c := by
  unfold State.holdsCut State.ownCut ownCause
  rw [Bool.eq_iff_iff, List.find?_isSome, List.any_eq_true]

theorem ownCause_dropOldestPeer (cuts : List CutEntry) (c : CutCause) :
    ownCause (dropOldestPeer cuts) c = ownCause cuts c := by
  unfold ownCause
  induction cuts with
  | nil => rfl
  | cons e es ih =>
    unfold dropOldestPeer
    split
    · simp only [List.any_cons, ih]
    · rename_i h; simp [List.any_cons, h]

theorem State.zeroDraw_cc (s : State) : s.zeroDraw.cc = s.cc := by
  unfold State.zeroDraw
  obtain ⟨a, ha, -⟩ := State.clearCond_only
    (s.withAe { s.ae with draw := 0, regen := 0, share := 0, shareBase := 0 }) .sinkShort 0
  rw [ha]; rfl

theorem LoadOnly.cuts {s t : State} (h : LoadOnly s t) : t.cc.cuts = s.cc.cuts := h.same.1

/-- The forced stop leaves the cut set. -/
theorem State.beginHeld_cuts (s : State) : s.beginHeld.cc.cuts = s.cc.cuts := by
  have key : ∀ (l : List Placed) (b : State), ((l.foldl State.returnShed b).stopAll.finishShed).cc.cuts = b.cc.cuts := fun l b =>
    ((LoadOnly.foldl LoadOnly.returnShed _ b).trans ((LoadOnly.stopAll _).trans (LoadOnly.finishShed _))).cuts
  unfold State.beginHeld
  simp only [State.withCc_cc]
  rw [key, State.withCc_cc, ← s.zeroDraw_cc]

/-- What `putCuts` leaves: the new contents. -/
theorem State.putCuts_cuts (s : State) (cuts : List CutEntry) : (s.putCuts cuts).cc.cuts = cuts := by
  unfold State.putCuts
  dsimp only
  split
  · rw [State.beginHeld_cuts]; rfl
  · split <;> rfl

/-- An own cut is held after an origination if it was held or is the one originated. -/
theorem State.originate_holds (s : State) (c d : CutCause) :
    (s.originate c).holdsCut d = (s.holdsCut d || d == c) := by
  unfold State.originate
  split
  · rename_i h
    by_cases hd : d = c
    · subst hd; simp [h]
    · simp [hd]
  · rw [State.holdsCut_eq, State.holdsCut_eq]
    show ownCause (State.putCuts _ _).cc.cuts d = _
    rw [State.putCuts_cuts]
    unfold ownCause
    rw [List.any_append]
    congr 1
    · split
      · exact ownCause_dropOldestPeer _ _
      · rfl
    · simp only [List.any_cons, List.any_nil, Bool.or_false, Bool.true_and]
      cases c <;> cases d <;> rfl

/-- An own cut is held after a release if it was held and is not the one released. -/
theorem State.releaseOwn_holds (s : State) (c d : CutCause) :
    (s.releaseOwn c).holdsCut d = (s.holdsCut d && d != c) := by
  unfold State.releaseOwn
  split
  · rename_i h
    have : s.holdsCut c = false := by unfold State.holdsCut; rw [h]; rfl
    by_cases hd : d = c
    · subst hd; simp [this]
    · simp [hd]
  · rw [State.holdsCut_eq, State.holdsCut_eq]
    show ownCause (State.putCuts _ _).cc.cuts d = _
    rw [State.putCuts_cuts]
    unfold ownCause
    rw [List.any_filter, Bool.eq_iff_iff]
    simp only [List.any_eq_true, Bool.and_eq_true, Bool.not_eq_true', bne_iff_ne, ne_eq, beq_iff_eq, Bool.and_eq_false_iff,
      beq_eq_false_iff_ne]
    constructor
    · rintro ⟨e, he, h1, h2, h3⟩
      refine ⟨⟨e, he, h2, h3⟩, ?_⟩
      rintro rfl
      rcases h1 with h1 | h1
      · rw [h1] at h2; cases h2
      · exact h1 h3
    · rintro ⟨⟨e, he, h2, h3⟩, h1⟩
      exact ⟨e, he, .inr (fun h => h1 (h3.symm.trans h)), h2, h3⟩

theorem State.originateIf_holds (w : Option Pole) (s : State) (c d : CutCause) :
    (State.originateIf w s c).holdsCut d = (s.holdsCut d || (d == c && s.polesHold w c)) := by
  unfold State.originateIf
  split
  · rename_i h; rw [State.originate_holds, h, Bool.and_true]
  · rename_i h; simp [h]

theorem State.releaseIf_holds (w : Option Pole) (s : State) (c d : CutCause) :
    (State.releaseIf w s c).holdsCut d = (s.holdsCut d && (d != c || s.polesHold w c)) := by
  unfold State.releaseIf
  split
  · rename_i h; simp [h]
  · rename_i h; rw [State.releaseOwn_holds]; simp [h]

/-- What the pole watch unit wants held reads the unit and the cut itself. -/
theorem State.polesHold_congr {s t : State} (w : Option Pole) (c : CutCause) (hp : t.pwu = s.pwu)
    (hc : t.holdsCut c = s.holdsCut c) : t.polesHold w c = s.polesHold w c := by
  cases c <;> unfold State.polesHold State.bothDown <;> first | rw [hp, hc] | rw [hp]

theorem Kept.originateIf (w : Option Pole) (s : State) (c : CutCause) : Kept s (State.originateIf w s c) :=
  Kept.ite (Kept.originate s c) (Kept.refl s)

theorem Kept.releaseIf (w : Option Pole) (s : State) (c : CutCause) : Kept s (State.releaseIf w s c) :=
  Kept.ite (Kept.refl s) (Kept.releaseOwn s c)

/-- A cut not in a list of causes is held after their originations as before. -/
theorem State.originateAll_other (w : Option Pole) (l : List CutCause) (s : State) (c : CutCause) (h : c ∉ l) :
    (l.foldl (State.originateIf w) s).holdsCut c = s.holdsCut c := by
  induction l generalizing s with
  | nil => rfl
  | cons a l ih =>
    rw [List.foldl_cons, ih _ (fun m => h (List.mem_cons_of_mem _ m)), State.originateIf_holds]
    have : (c == a) = false := beq_eq_false_iff_ne.mpr (fun e => h (e ▸ List.mem_cons_self))
    simp [this]

theorem State.releaseAll_other (w : Option Pole) (l : List CutCause) (s : State) (c : CutCause) (h : c ∉ l) :
    (l.foldl (State.releaseIf w) s).holdsCut c = s.holdsCut c := by
  induction l generalizing s with
  | nil => rfl
  | cons a l ih =>
    rw [List.foldl_cons, ih _ (fun m => h (List.mem_cons_of_mem _ m)), State.releaseIf_holds]
    have : (c != a) = true := bne_iff_ne.mpr (fun e => h (e ▸ List.mem_cons_self))
    simp [this]

/-- Each own cut after the originations: held already, or of those asked for and wanted. -/
theorem State.originateAll_holds (w : Option Pole) (l : List CutCause) (hl : l.Nodup) (s : State) (c : CutCause) :
    (l.foldl (State.originateIf w) s).holdsCut c = (s.holdsCut c || (l.contains c && s.polesHold w c)) := by
  induction l generalizing s with
  | nil => simp
  | cons a l ih =>
    obtain ⟨ha, hl'⟩ := List.nodup_cons.mp hl
    rw [List.foldl_cons]
    by_cases hc : c = a
    · subst hc
      rw [State.originateAll_other w l _ c ha, State.originateIf_holds]
      simp
    · have hca : (c == a) = false := beq_eq_false_iff_ne.mpr hc
      have h1 : (State.originateIf w s a).holdsCut c = s.holdsCut c := by rw [State.originateIf_holds]; simp [hca]
      rw [ih hl', State.polesHold_congr w c (Kept.originateIf w s a).pwu h1, h1, List.contains_cons, hca, Bool.false_or]

/-- Each own cut after the releases: held and not of those asked for, or still wanted. -/
theorem State.releaseAll_holds (w : Option Pole) (l : List CutCause) (hl : l.Nodup) (s : State) (c : CutCause) :
    (l.foldl (State.releaseIf w) s).holdsCut c = (s.holdsCut c && (!l.contains c || s.polesHold w c)) := by
  induction l generalizing s with
  | nil => simp
  | cons a l ih =>
    obtain ⟨ha, hl'⟩ := List.nodup_cons.mp hl
    rw [List.foldl_cons]
    by_cases hc : c = a
    · subst hc
      rw [State.releaseAll_other w l _ c ha, State.releaseIf_holds]
      simp
    · have hca : (c == a) = false := beq_eq_false_iff_ne.mpr hc
      have h1 : (State.releaseIf w s a).holdsCut c = s.holdsCut c := by
        rw [State.releaseIf_holds]; simp [bne, hca]
      rw [ih hl', State.polesHold_congr w c (Kept.releaseIf w s a).pwu h1, h1, List.contains_cons, hca, Bool.false_or]

theorem poleCauses_nodup : poleCauses.Nodup := by decide

theorem Kept.originateAll (w : Option Pole) (l : List CutCause) (s : State) : Kept s (l.foldl (State.originateIf w) s) :=
  Kept.foldl (Kept.originateIf w) l s

theorem Kept.releaseAll (w : Option Pole) (l : List CutCause) (s : State) : Kept s (l.foldl (State.releaseIf w) s) :=
  Kept.foldl (Kept.releaseIf w) l s

/-- R116: after a step of the pole watch unit each of its cuts is held exactly where Table 5-4 has it held. -/
theorem State.syncPoleCuts_holds (s : State) (w : Option Pole) (c : CutCause) (h : c ∈ poleCauses) :
    (s.syncPoleCuts w).holdsCut c = s.polesHold w c := by
  have h1 : (s.syncPoleCuts w).holdsCut c =
      (poleCauses.foldl (State.releaseIf w) (poleCauses.foldl (State.originateIf w) s)).holdsCut c := rfl
  have hc : poleCauses.contains c = true := List.contains_iff_mem.mpr h
  rw [h1, State.releaseAll_holds w _ poleCauses_nodup, State.originateAll_holds w _ poleCauses_nodup, hc]
  have h2 : (poleCauses.foldl (State.originateIf w) s).polesHold w c =
      (s.polesHold w c || (s.holdsCut c && (poleCauses.foldl (State.originateIf w) s).polesHold w c)) := by
    have hp := (Kept.originateAll w poleCauses s).pwu
    have e := State.originateAll_holds w _ poleCauses_nodup s c
    rw [hc, Bool.true_and] at e
    generalize poleCauses.foldl (State.originateIf w) s = t at *
    cases hs : s.polesHold w c
    · rw [hs, Bool.or_false] at e
      rw [State.polesHold_congr w c hp e, hs]; simp
    · rw [hs, Bool.or_true] at e
      rw [Bool.true_or]
      cases c <;> unfold State.polesHold State.bothDown at * <;> simp only [hp, e] <;> simp_all <;> tauto
  have hk : s.holdsCut c = true → (poleCauses.foldl (State.originateIf w) s).polesHold w c = s.polesHold w c := by
    intro hh
    refine State.polesHold_congr w c (Kept.originateAll w poleCauses s).pwu ?_
    rw [State.originateAll_holds w _ poleCauses_nodup, hh, Bool.true_or]
  cases hs : s.polesHold w c <;> cases hh : s.holdsCut c <;> simp_all

/-- The driver's cut is none of the pole watch unit's. -/
theorem State.syncPoleCuts_driver (s : State) (w : Option Pole) : (s.syncPoleCuts w).holdsCut .driver = s.holdsCut .driver := by
  have h1 : (s.syncPoleCuts w).holdsCut .driver =
      (poleCauses.foldl (State.releaseIf w) (poleCauses.foldl (State.originateIf w) s)).holdsCut .driver := rfl
  rw [h1, State.releaseAll_other _ _ _ _ (by decide), State.originateAll_other _ _ _ _ (by decide)]

/-- The unit after its cuts are settled: the SUSPECT cut fields alone are new (R93). -/
theorem State.syncPoleCuts_pwu (s : State) (w : Option Pole) : ∃ a b : Option Nat, (s.syncPoleCuts w).pwu =
    { s.pwu with pos := { s.pwu.pos with suspectCut := a }, neg := { s.pwu.neg with suspectCut := b } } := by
  have h := (Kept.originateAll w poleCauses s).trans (Kept.releaseAll w poleCauses _)
  unfold State.syncPoleCuts
  generalize poleCauses.foldl (State.releaseIf w) (poleCauses.foldl (State.originateIf w) s) = t at h
  refine ⟨(t.ownCut .suspectPos).map CutEntry.number, (t.ownCut .suspectNeg).map CutEntry.number, ?_⟩
  unfold State.noteSuspects
  simp only [State.withPwu_pwu, h.pwu]

/-- What every operation of the pole watch unit leaves as it was: all but its own fields, its alarms, the cut set, and what
a cut forces (the currents and the load channels). -/
structure Watched (s t : State) : Prop where
  settings : t.settings = s.settings
  osm : t.osm = s.osm
  su : t.su = s.su
  pvt : t.pvt = s.pvt
  cf : t.cf = s.cf
  cs : t.cs = s.cs
  port : t.port = s.port
  out : t.out = s.out
  freeCount : t.freeCount = s.freeCount
  pending : t.pending = s.pending
  ia : t.ia = s.ia
  ae : t.ae.steady = s.ae.steady
  regenRequest : t.ae.regenRequest = s.ae.regenRequest
  draw : t.ae.draw = s.ae.draw ∨ t.ae.draw = 0
  regen : t.ae.regen ≤ s.ae.regen
  share : t.ae.share ≤ s.ae.share
  bus : t.bus.steady = s.bus.steady
  carrier : (t.lcm.carrierOn, t.lcm.slot, t.lcm.slotClock) = (s.lcm.carrierOn, s.lcm.slot, s.lcm.slotClock)
  chan : ∀ c, (t.chan c).steady = (s.chan c).steady

theorem Watched.refl (s : State) : Watched s s :=
  ⟨rfl, rfl, rfl, rfl, rfl, rfl, rfl, rfl, rfl, rfl, rfl, rfl, rfl, .inl rfl, le_rfl, le_rfl, rfl, rfl, fun _ => rfl⟩

theorem Watched.trans {s t u : State} (h : Watched s t) (k : Watched t u) : Watched s u := by
  refine ⟨k.settings.trans h.settings, k.osm.trans h.osm, k.su.trans h.su, k.pvt.trans h.pvt, k.cf.trans h.cf,
    k.cs.trans h.cs, k.port.trans h.port, k.out.trans h.out, k.freeCount.trans h.freeCount, k.pending.trans h.pending,
    k.ia.trans h.ia, k.ae.trans h.ae, k.regenRequest.trans h.regenRequest, ?_, k.regen.trans h.regen,
    k.share.trans h.share, k.bus.trans h.bus, k.carrier.trans h.carrier, fun c => (k.chan c).trans (h.chan c)⟩
  rcases k.draw with e | e
  · rw [e]; exact h.draw
  · exact .inr e

theorem Watched.ite {p : Prop} [Decidable p] {s t u : State} (h : Watched s t) (k : Watched s u) :
    Watched s (if p then t else u) := by split <;> assumption

theorem Watched.foldl {α : Type} {f : State → α → State} (h : ∀ s a, Watched s (f s a)) (l : List α) (s : State) :
    Watched s (l.foldl f s) := by
  induction l generalizing s with
  | nil => exact Watched.refl s
  | cons a l ih => exact (h s a).trans (ih _)

theorem Watched.withPwu (s : State) (x : PoleUnit) : Watched s (s.withPwu x) :=
  ⟨rfl, rfl, rfl, rfl, rfl, rfl, rfl, rfl, rfl, rfl, rfl, rfl, rfl, .inl rfl, le_rfl, le_rfl, rfl, rfl, fun _ => rfl⟩

theorem Watched.withAu (s : State) (x : AlarmUnit) : Watched s (s.withAu x) :=
  ⟨rfl, rfl, rfl, rfl, rfl, rfl, rfl, rfl, rfl, rfl, rfl, rfl, rfl, .inl rfl, le_rfl, le_rfl, rfl, rfl, fun _ => rfl⟩

theorem Watched.onset (s : State) (k : AlarmKind) (q : Nat) : Watched s (s.onset k q) := by
  obtain ⟨a, ha, -⟩ := s.onset_only k q
  rw [ha]; exact Watched.withAu s a

theorem Watched.clearCond (s : State) (k : AlarmKind) (q : Nat) : Watched s (s.clearCond k q) := by
  obtain ⟨a, ha, -⟩ := s.clearCond_only k q
  rw [ha]; exact Watched.withAu s a

/-- What a raise of POLE_DROP changes: the alarm unit, in which the condition is in force then (R112). -/
theorem State.raiseDrop_only (s : State) (p : Pole) : ∃ a, s.raiseDrop p = s.withAu a ∧
    (s.osm.op.alarmsTaken = true → a.inForce.contains (.poleDrop, poleCode p) = true) := by
  unfold State.raiseDrop
  split
  · generalize hx : (if s.inForce .poleDrop (poleCode p) = true then s
      else s.withAu { s.au with inForce := s.au.inForce ++ [(.poleDrop, poleCode p)] }) = x
    have hs : ∃ b, x = s.withAu b ∧ b.inForce.contains (.poleDrop, poleCode p) = true := by
      rw [← hx]
      split
      · rename_i hf; exact ⟨s.au, rfl, hf⟩
      · exact ⟨_, rfl, by simp⟩
    obtain ⟨b, rfl, hb⟩ := hs
    obtain ⟨a, ha, hi⟩ := (s.withAu b).raiseOwn_only .poleDrop (poleCode p)
    exact ⟨a, ha, fun _ => by rw [hi]; exact hb⟩
  · rename_i h; exact ⟨s.au, rfl, fun h' => absurd h' h⟩

theorem Watched.raiseDrop (s : State) (p : Pole) : Watched s (s.raiseDrop p) := by
  obtain ⟨a, ha, -⟩ := s.raiseDrop_only p
  rw [ha]; exact Watched.withAu s a

/-- What an operation of the cut controller does. -/
theorem Cutting.watched {s t : State} (h : Cutting s t) : Watched s t :=
  ⟨h.kept.settings, h.kept.osm, h.kept.su, h.kept.pvt, h.kept.cf, h.kept.cs, h.kept.port, h.kept.out,
    h.kept.freeCount, h.kept.pending, h.ia, h.kept.ae, h.regenRequest, h.draw, h.regen, h.share, h.kept.bus,
    h.kept.carrier, h.kept.chan⟩

theorem Watched.setPole (s : State) (p : Pole) (r : PoleRecord) : Watched s (s.setPole p r) := Watched.withPwu s _

theorem Watched.enterPole (s : State) (p : Pole) (st : PoleState) : Watched s (s.enterPole p st) := Watched.withPwu s _

theorem Watched.lowerIf (f : PoleState → Bool) (s : State) (p : Pole) : Watched s (State.lowerIf f s p) :=
  Watched.ite (Watched.enterPole s p _) (Watched.refl s)

theorem Watched.abandonRaise (s : State) : Watched s s.abandonRaise :=
  ((Watched.foldl (Watched.lowerIf _) _ s).trans (Watched.withPwu _ _)).trans (Watched.onset _ _ _)

theorem Watched.endDrain (s : State) : Watched s s.endDrain :=
  (Watched.withPwu s _).trans (Watched.foldl (Watched.lowerIf _) _ _)

theorem Watched.checkDrain (s : State) : Watched s s.checkDrain := Watched.ite (Watched.endDrain s) (Watched.refl s)

theorem Watched.beginLowering (s : State) : Watched s s.beginLowering :=
  (Watched.withPwu s _).trans (Watched.checkDrain _)

theorem Watched.beginRaise (s : State) : Watched s s.beginRaise :=
  ((Watched.enterPole s _ _).trans (Watched.enterPole _ _ _)).trans (Watched.withPwu _ _)

theorem Watched.returnPole (s : State) (p : Pole) : Watched s (s.returnPole p) := by
  unfold State.returnPole
  extract_lets r h x t u
  have ht : Watched s t := Watched.setPole s p _
  have hu : Watched s u := ht.trans (Watched.ite (Watched.onset _ _ _) (Watched.refl _))
  exact hu.trans (Watched.ite (Watched.enterPole _ _ _) (Watched.refl _))

theorem Watched.dewire (s : State) (p : Pole) : Watched s (s.dewire p) := by
  unfold State.dewire
  extract_lets r x t u v
  have hu : Watched s u := ((Watched.setPole s p _).trans (Watched.raiseDrop t _)).trans (Watched.enterPole _ _ _)
  have hv : Watched s v := hu.trans (Watched.lowerIf _ _ _)
  exact hv.trans (Watched.ite (Watched.withPwu _ _) (Watched.refl _))

theorem Watched.judgeWindow (s : State) (p : Pole) : Watched s (s.judgeWindow p) := by
  unfold State.judgeWindow
  split
  · exact Watched.ite (Watched.refl s) (Watched.enterPole s p _)
  · exact Watched.ite (Watched.returnPole s p) (Watched.refl s)
  · exact Watched.refl s

theorem Watched.expireWindow (s : State) (p : Pole) : Watched s (s.expireWindow p) :=
  Watched.ite (Watched.returnPole s p) (Watched.dewire s p)

theorem Watched.openLine (s : State) : Watched s s.openLine :=
  Watched.ite (Watched.refl s) (Watched.ite ((Watched.withPwu s _).trans (Watched.clearCond _ _ _)) (Watched.withPwu s _))

theorem Watched.clearDown (s : State) (p : Pole) : Watched s (s.clearDown p) :=
  Watched.ite ((Watched.clearCond s _ _).trans (Watched.clearCond _ _ _)) (Watched.refl s)

theorem Watched.endDescent (s : State) : Watched s s.endDescent := by
  unfold State.endDescent
  dsimp only
  refine Watched.trans (Watched.foldl Watched.clearDown bothPoles s) ?_
  exact Watched.ite ((Watched.ite (Watched.withPwu _ _) (Watched.refl _)).trans (Watched.clearCond _ _ _)) (Watched.refl _)

theorem Watched.updateSource (s : State) : Watched s s.updateSource := Watched.withPwu s _

theorem Watched.syncPoleCuts (s : State) (w : Option Pole) : Watched s (s.syncPoleCuts w) :=
  (((Cutting.foldl (fun t c => Cutting.ite (Cutting.originate t c) (Cutting.refl t)) poleCauses s).trans
    (Cutting.foldl (fun t c => Cutting.ite (Cutting.refl t) (Cutting.releaseOwn t c)) poleCauses _)).watched).trans
    (Watched.withPwu _ _)

/-- What a step of the pole watch unit ends with. -/
theorem Watched.finishPoles (s : State) (w : Option Pole) : Watched s (s.finishPoles w) :=
  Watched.ite ((((Watched.openLine s).trans (Watched.endDescent _)).trans (Watched.updateSource _)).trans
    (Watched.syncPoleCuts _ w)) (Watched.refl s)

theorem Watched.polesReadTable (s : State) : Watched s s.polesReadTable :=
  Watched.ite ((Watched.checkDrain s).trans (Watched.finishPoles _ _)) (Watched.refl s)

theorem Watched.ropeChange (s : State) (p : Pole) : Watched s (s.ropeChange p) :=
  Watched.ite ((Watched.ite (Watched.abandonRaise s) (Watched.judgeWindow s p)).trans (Watched.finishPoles _ _))
    (Watched.refl s)

theorem Watched.freePole (s : State) (p : Pole) : Watched s (s.freePole p) :=
  Watched.ite ((Watched.setPole s p _).trans (Watched.clearCond _ _ _)) (Watched.refl s)

theorem Watched.judgeRaise (s : State) : Watched s s.judgeRaise.1 := by
  unfold State.judgeRaise
  dsimp only
  split
  · exact Watched.refl s
  · split
    · exact Watched.refl s
    · split
      · exact Watched.refl s
      · split
        · exact (Watched.beginRaise s).trans (Watched.finishPoles _ _)
        · exact Watched.refl s

theorem Watched.judgeLower (s : State) : Watched s s.judgeLower.1 := by
  unfold State.judgeLower
  dsimp only
  split
  · exact Watched.refl s
  · split
    · exact Watched.refl s
    · split
      · exact ((Watched.foldl (Watched.lowerIf _) _ s).trans (Watched.withPwu _ _)).trans (Watched.finishPoles _ _)
      · split
        · exact (Watched.beginLowering s).trans (Watched.finishPoles _ _)
        · exact Watched.refl s

theorem Watched.judgeClear (s : State) (arg : Nat) : Watched s (s.judgeClear arg).1 := by
  unfold State.judgeClear
  split
  · exact Watched.refl s
  · split
    · exact (Watched.foldl Watched.freePole _ s).trans (Watched.finishPoles _ _)
    · exact Watched.refl s

theorem Watched.contactPole (s : State) (p : Pole) : Watched s (s.contactPole p) := Watched.setPole s p _

theorem Watched.fallPole (s : State) (p : Pole) : Watched s (s.fallPole p) := by
  unfold State.fallPole
  dsimp only
  exact Watched.ite (Watched.ite ((Watched.enterPole s p _).trans (Watched.onset _ _ _)) (Watched.enterPole s p _))
    (Watched.ite (Watched.enterPole s p _) (Watched.refl s))

theorem Watched.placePoles (s : State) : Watched s s.placePoles :=
  Watched.ite ((Watched.foldl (fun t p => Watched.enterPole t p _) bothPoles s).trans (Watched.withPwu _ _)) (Watched.refl s)

theorem Watched.checkContact (s : State) : Watched s s.checkContact := by
  unfold State.checkContact
  extract_lets t
  exact Watched.ite (((Watched.foldl Watched.contactPole bothPoles s).trans (Watched.withPwu _ _)).trans
    (Watched.withPwu t _)) (Watched.refl s)

theorem Watched.judgeLine (s : State) : Watched s s.judgeLine := by
  unfold State.judgeLine
  split
  · exact Watched.ite (Watched.withPwu s _) (Watched.refl s)
  · exact Watched.ite (Watched.withPwu s _) (Watched.refl s)
  · exact Watched.ite ((Watched.withPwu s _).trans (Watched.clearCond _ _ _)) (Watched.refl s)
  · exact Watched.refl s

theorem Watched.samplePolesIdle (s : State) : Watched s s.samplePolesIdle :=
  (Watched.placePoles s).trans (Watched.foldl Watched.fallPole _ _)

theorem Watched.samplePolesRun (s : State) : Watched s s.samplePolesRun := by
  unfold State.samplePolesRun
  extract_lets a b
  have ha : Watched s a := (Watched.placePoles s).trans (Watched.foldl Watched.fallPole _ _)
  have hb : Watched s b := ((ha.trans (Watched.foldl
    (fun t p => Watched.ite (Watched.enterPole t p _) (Watched.refl t)) bothPoles a)).trans
    (Watched.ite (Watched.abandonRaise _) (Watched.refl _))).trans (Watched.checkContact _)
  exact (((hb.trans (Watched.judgeLine b)).trans (Watched.updateSource _)).trans
    (Watched.foldl Watched.judgeWindow _ _)).trans (Watched.finishPoles _ _)

theorem Watched.trackPole (s : State) (p : Pole) : Watched s (s.trackPole p) := by
  unfold State.trackPole
  exact Watched.ite (Watched.setPole s p _) (Watched.refl s)

theorem Watched.trackPoles (s : State) : Watched s s.trackPoles :=
  (Watched.foldl Watched.trackPole bothPoles s).trans (Watched.withPwu _ _)

theorem Watched.takeElevations (s : State) : Watched s s.takeElevations := by
  unfold State.takeElevations
  extract_lets a u t
  have ha : Watched s a := Watched.foldl (fun u p => Watched.setPole u p _) bothPoles s
  have ht : Watched s t := ha.trans (Watched.withPwu a _)
  exact ht.trans (Watched.ite (Watched.trackPoles t) (Watched.refl t))

/-- R65: the pole watch unit's part of an analog sample. -/
theorem Watched.samplePoles (s : State) : Watched s s.samplePoles := by
  unfold State.samplePoles
  split
  · extract_lets t
    have ht : Watched s t := Watched.takeElevations s
    exact ht.trans (Watched.ite (Watched.samplePolesRun t) (Watched.samplePolesIdle t))
  · exact Watched.refl s

/-- The conditions in force after an onset. -/
theorem State.onset_inForce (s : State) (k k' : AlarmKind) (q q' : Nat) :
    (s.onset k q).inForce k' q' = (s.inForce k' q' || (s.osm.op.alarmsTaken && (k', q') == (k, q))) := by
  obtain ⟨a, ha, hi⟩ := s.onset_only k q
  rw [ha]
  show a.inForce.contains (k', q') = _
  rw [hi]
  by_cases he : (k', q') = (k, q)
  · simp only [Prod.mk.injEq] at he
    obtain ⟨rfl, rfl⟩ := he
    unfold State.inForce
    cases s.osm.op.alarmsTaken <;> cases h : s.au.inForce.contains (k', q') <;> simp_all
  · unfold State.inForce
    split <;> simp [he]

theorem State.clearCond_inForce (s : State) (k k' : AlarmKind) (q q' : Nat) (h : (k', q') ≠ (k, q)) :
    (s.clearCond k q).inForce k' q' = s.inForce k' q' := by
  obtain ⟨a, ha, hi⟩ := s.clearCond_only k q
  rw [ha]
  show a.inForce.contains (k', q') = _
  rw [hi]
  unfold State.inForce
  split
  · rw [Bool.eq_iff_iff]
    simp only [List.contains_iff_mem, List.mem_filter, bne_iff_ne, ne_eq, and_iff_left_iff_imp]
    exact fun _ => h
  · rfl

theorem State.raiseDrop_inForce (s : State) (p : Pole) (h : s.osm.op.alarmsTaken = true) :
    (s.raiseDrop p).inForce .poleDrop (poleCode p) = true := by
  obtain ⟨a, ha, hi⟩ := s.raiseDrop_only p
  rw [ha]; exact hi h

/-- A condition that the end of a step of the pole watch unit may end (R79, R85, R73, R112), or a pass over the blocks. -/
def poleCondition (s : State) (p : AlarmKind × Nat) : Prop :=
  (p.1 = .lineLost ∧ s.bothUp = false) ∨ (p.1 = .raiseFail ∧ s.bothDown = true) ∨ blockCondition p = true ∨
    ((p.1 = .retrieveFail ∨ p.1 = .poleDrop) ∧ ∃ q, poleCode q = p.2 ∧ (s.pole q).state.down = true)

@[simp] theorem State.clearCond_pwu (s : State) (k : AlarmKind) (q : Nat) : (s.clearCond k q).pwu = s.pwu := by
  obtain ⟨a, ha, -⟩ := s.clearCond_only k q
  rw [ha]; rfl

@[simp] theorem State.clearCond_cc (s : State) (k : AlarmKind) (q : Nat) : (s.clearCond k q).cc = s.cc := by
  obtain ⟨a, ha, -⟩ := s.clearCond_only k q
  rw [ha]; rfl

@[simp] theorem State.clearCond_osm (s : State) (k : AlarmKind) (q : Nat) : (s.clearCond k q).osm = s.osm := by
  obtain ⟨a, ha, -⟩ := s.clearCond_only k q
  rw [ha]; rfl

@[simp] theorem State.onset_pwu (s : State) (k : AlarmKind) (q : Nat) : (s.onset k q).pwu = s.pwu := by
  obtain ⟨a, ha, -⟩ := s.onset_only k q
  rw [ha]; rfl

@[simp] theorem State.onset_cc (s : State) (k : AlarmKind) (q : Nat) : (s.onset k q).cc = s.cc := by
  obtain ⟨a, ha, -⟩ := s.onset_only k q
  rw [ha]; rfl

@[simp] theorem State.onset_osm (s : State) (k : AlarmKind) (q : Nat) : (s.onset k q).osm = s.osm := by
  obtain ⟨a, ha, -⟩ := s.onset_only k q
  rw [ha]; rfl

@[simp] theorem State.raiseDrop_pwu (s : State) (p : Pole) : (s.raiseDrop p).pwu = s.pwu := by
  obtain ⟨a, ha, -⟩ := s.raiseDrop_only p
  rw [ha]; rfl

@[simp] theorem State.clearDown_pwu (s : State) (p : Pole) : (s.clearDown p).pwu = s.pwu := by
  unfold State.clearDown; split <;> simp

@[simp] theorem State.clearDown_cc (s : State) (p : Pole) : (s.clearDown p).cc = s.cc := by
  unfold State.clearDown; split <;> simp

/-- The unit as the line opens where the poles are not up (R85). -/
theorem State.openLine_pwu (s : State) :
    s.openLine.pwu = if s.bothUp then s.pwu else { s.pwu with line := .isOpen, gapTimer := 0 } := by
  unfold State.openLine
  split
  · rfl
  · dsimp only; split <;> simp

theorem State.openLine_cc (s : State) : s.openLine.cc = s.cc := by
  unfold State.openLine
  split
  · rfl
  · dsimp only; split <;> simp

/-- The unit as a lowering ends with both poles down (R68). -/
theorem State.endDescent_pwu (s : State) : s.endDescent.pwu =
    if s.bothDown && s.pwu.operation.lowers then { s.pwu with operation := .none, drainTimer := 0 } else s.pwu := by
  have h : (bothPoles.foldl State.clearDown s).pwu = s.pwu := by simp [bothPoles]
  have hb : (bothPoles.foldl State.clearDown s).bothDown = s.bothDown := by unfold State.bothDown; rw [h]
  unfold State.endDescent
  dsimp only
  rw [hb, h]
  cases s.bothDown <;> cases s.pwu.operation.lowers <;> simp [h]

theorem State.endDescent_cc (s : State) : s.endDescent.cc = s.cc := by
  have h : (bothPoles.foldl State.clearDown s).cc = s.cc := by simp [bothPoles]
  unfold State.endDescent
  dsimp only
  split
  · split <;> simp [h]
  · exact h

/-- What a step of the pole watch unit ends with, where its rules run: the pole records but for the SUSPECT cut field, the
operation, the line state, and the cuts of Table 5-4. -/
structure Finished (w : Option Pole) (s t : State) : Prop where
  pole : ∀ p, ∃ x, t.pole p = { s.pole p with suspectCut := x }
  operation : t.pwu.operation = if s.bothDown && s.pwu.operation.lowers then .none else s.pwu.operation
  raiseTimer : t.pwu.raiseTimer = s.pwu.raiseTimer
  drainTimer : t.pwu.drainTimer = if s.bothDown && s.pwu.operation.lowers then 0 else s.pwu.drainTimer
  line : t.pwu.line = if s.bothUp then s.pwu.line else .isOpen
  gapTimer : t.pwu.gapTimer = if s.bothUp then s.pwu.gapTimer else 0
  loadPending : t.pwu.loadPending = s.pwu.loadPending
  source : ∃ m : SourceMode, t.pwu.source = m ∧
    t.pwu.sourceTimer = if sourceChanges s.pwu.source m then some 0 else s.pwu.sourceTimer
  sourceSame : (s.bothUp = true ∨ s.pwu.line = .isOpen) → t.pwu.source = s.sourceMode
  suspectPos : t.holdsCut .suspectPos = (s.pwu.pos.state == .suspect)
  suspectNeg : t.holdsCut .suspectNeg = (s.pwu.neg.state == .suspect)
  dewirePos : t.holdsCut .dewirePos = (w == some .pos || (s.holdsCut .dewirePos && !s.bothDown))
  dewireNeg : t.holdsCut .dewireNeg = (w == some .neg || (s.holdsCut .dewireNeg && !s.bothDown))
  sectionCut : t.holdsCut .section_ = (t.pwu.line == .gap)
  lowering : t.holdsCut .lowering = t.pwu.operation.lowers
  sourceChange : t.holdsCut .sourceChange = t.pwu.sourceTimer.isSome
  driver : t.holdsCut .driver = s.holdsCut .driver

theorem Finished.finishPoles (w : Option Pole) (s : State) (h : s.polesRun = true) : Finished w s (s.finishPoles w) := by
  unfold State.finishPoles
  rw [if_pos h]
  have ep : s.openLine.endDescent.pwu = { s.pwu with
      operation := if s.bothDown && s.pwu.operation.lowers then .none else s.pwu.operation
      drainTimer := if s.bothDown && s.pwu.operation.lowers then 0 else s.pwu.drainTimer
      line := if s.bothUp then s.pwu.line else .isOpen
      gapTimer := if s.bothUp then s.pwu.gapTimer else 0 } := by
    have hd : s.openLine.bothDown = s.bothDown := by
      unfold State.bothDown; rw [State.openLine_pwu]; split <;> rfl
    rw [State.endDescent_pwu, hd, State.openLine_pwu]
    cases s.bothUp <;> cases s.bothDown <;> cases hl : s.pwu.operation.lowers <;> simp [hl]
  have ec : s.openLine.endDescent.cc = s.cc := by rw [State.endDescent_cc, State.openLine_cc]
  have ev : s.openLine.endDescent.pvt = s.pvt := by
    rw [(Watched.endDescent _).pvt, (Watched.openLine _).pvt]
  generalize s.openLine.endDescent = x at ep ec ev
  have hu : x.updateSource.pwu = { x.pwu with
      source := x.sourceMode
      sourceTimer := if sourceChanges x.pwu.source x.sourceMode then some 0 else x.pwu.sourceTimer } := rfl
  have hc : x.updateSource.cc = s.cc := ec
  generalize x.updateSource = y at hu hc
  obtain ⟨a, b, hy⟩ := y.syncPoleCuts_pwu w
  have hold : ∀ c ∈ poleCauses, (y.syncPoleCuts w).holdsCut c = y.polesHold w c := fun c hm => y.syncPoleCuts_holds w c hm
  have hdr := y.syncPoleCuts_driver w
  have hcut : ∀ c, y.holdsCut c = s.holdsCut c := by
    intro c; unfold State.holdsCut State.ownCut; rw [hc]
  generalize y.syncPoleCuts w = t at hy hold hdr
  rw [hu, ep] at hy
  have hst : y.pwu.pos.state = s.pwu.pos.state ∧ y.pwu.neg.state = s.pwu.neg.state := by rw [hu, ep]; exact ⟨rfl, rfl⟩
  have hbd : y.bothDown = s.bothDown := by unfold State.bothDown; rw [hst.1, hst.2]
  refine ⟨?_, by rw [hy], by rw [hy], by rw [hy], by rw [hy], by rw [hy], by rw [hy], ⟨x.sourceMode, by rw [hy], by rw [hy]⟩,
    ?_, ?_, ?_, ?_, ?_, ?_, ?_, ?_, ?_⟩
  · intro p
    unfold State.pole
    rw [hy]
    cases p
    · exact ⟨a, rfl⟩
    · exact ⟨b, rfl⟩
  · intro hl
    rw [hy]
    show x.sourceMode = _
    unfold State.sourceMode
    rw [ep, ev]
    dsimp only
    rcases hl with hl | hl
    · rw [hl]; rfl
    · rw [hl]; cases s.bothUp <;> rfl
  · rw [hold _ (by decide)]; unfold State.polesHold; rw [hst.1]
  · rw [hold _ (by decide)]; unfold State.polesHold; rw [hst.2]
  · rw [hold _ (by decide)]; simp only [State.polesHold, hcut, hbd]
  · rw [hold _ (by decide)]; simp only [State.polesHold, hcut, hbd]
  · rw [hold _ (by decide)]; unfold State.polesHold; rw [hy, hu, ep]
  · rw [hold _ (by decide)]; unfold State.polesHold; rw [hy, hu, ep]
  · rw [hold _ (by decide)]; unfold State.polesHold; rw [hy, hu, ep]
  · rw [hdr, hcut]

/-- The conditions in force that the end of a step of the pole watch unit leaves. -/
theorem State.finishPoles_inForce (w : Option Pole) (s : State) (k : AlarmKind) (q : Nat) (h : ¬ poleCondition s (k, q)) :
    (s.finishPoles w).inForce k q = s.inForce k q := by
  unfold poleCondition at h
  push Not at h
  obtain ⟨h1, h2, h3, h4⟩ := h
  have hdown : ∀ (u : State) (p : Pole), u.pwu = s.pwu ∨ (∀ p, (u.pole p).state = (s.pole p).state) →
      (u.clearDown p).inForce k q = u.inForce k q := by
    intro u p hu
    have hst : (u.pole p).state = (s.pole p).state := by
      rcases hu with hu | hu
      · unfold State.pole; rw [hu]
      · exact hu p
    unfold State.clearDown
    split
    · rename_i hd
      rw [hst] at hd
      rw [State.clearCond_inForce, State.clearCond_inForce]
      · intro e
        obtain ⟨e1, e2⟩ := Prod.mk.inj e
        exact h4 (.inl e1) p e2.symm hd
      · intro e
        obtain ⟨e1, e2⟩ := Prod.mk.inj e
        exact h4 (.inr e1) p e2.symm hd
    · rfl
  unfold State.finishPoles
  split
  · have ho : s.openLine.inForce k q = s.inForce k q := by
      unfold State.openLine
      split
      · rfl
      · rename_i hu
        dsimp only; split
        · rw [State.clearCond_inForce _ _ _ _ _ (fun e => h1 (Prod.mk.inj e).1 (by simpa using hu))]; rfl
        · rfl
    have hos : ∀ p, (s.openLine.pole p).state = (s.pole p).state := by
      intro p; unfold State.pole; rw [State.openLine_pwu]; split <;> rfl
    have he : s.openLine.endDescent.inForce k q = s.inForce k q := by
      generalize s.openLine = x at ho hos
      have hf : (bothPoles.foldl State.clearDown x).inForce k q = x.inForce k q := by
        simp only [bothPoles, List.foldl]
        rw [hdown _ _ (.inr (fun p => ?_)), hdown _ _ (.inr hos)]
        unfold State.pole
        rw [State.clearDown_pwu]
        exact hos p
      have hb : (bothPoles.foldl State.clearDown x).bothDown = s.bothDown := by
        have hx : (bothPoles.foldl State.clearDown x).pwu = x.pwu := by simp [bothPoles]
        have h1 : x.pwu.pos.state = s.pwu.pos.state := hos .pos
        have h2 : x.pwu.neg.state = s.pwu.neg.state := hos .neg
        unfold State.bothDown
        rw [hx, h1, h2]
      unfold State.endDescent
      dsimp only
      split
      · rename_i hd
        rw [hb] at hd
        rw [State.clearCond_inForce _ _ _ _ _ (fun e => h2 (Prod.mk.inj e).1 hd)]
        rw [← ho, ← hf]; split <;> rfl
      · rw [hf, ho]
    rw [← he]
    generalize s.openLine.endDescent = x
    have hk := (Kept.originateAll w poleCauses x.updateSource).trans (Kept.releaseAll w poleCauses _)
    show (State.noteSuspects _).inForce k q = x.updateSource.inForce k q
    have hi := hk.inForce
    generalize poleCauses.foldl (State.releaseIf w) (poleCauses.foldl (State.originateIf w) x.updateSource) = z at hi
    show z.inForce k q = _
    have key : ∀ a : AlarmUnit, a.inForce.contains (k, q) = a.steady.contains (k, q) := by
      intro a
      unfold AlarmUnit.steady
      rw [Bool.eq_iff_iff]
      simp [List.mem_filter, h3]
    unfold State.inForce
    rw [key, key, hi]
  · rfl

theorem State.polesRun_role {s : State} (h : s.polesRun = true) : s.osm.role = .pole ∧ s.osm.op.serves = true := by
  unfold State.polesRun at h
  simpa using h

theorem OpState.serves_taken {o : OpState} (h : o.serves = true) : o.alarmsTaken = true := by
  cases o <;> first | rfl | cases h

/-- The pole station is no console: its driver's cut is settled. -/
theorem State.driverSettled_pole {s : State} (h : s.osm.role = .pole) : s.DriverSettled := by
  intro hr _; rw [h] at hr; cases hr

theorem State.holdsCut_congr {s t : State} (h : t.cc.cuts = s.cc.cuts) (c : CutCause) : t.holdsCut c = s.holdsCut c := by
  rw [State.holdsCut_eq, State.holdsCut_eq, h]

/-- The whole of a step of the pole watch unit: what it ends with, and the reaction of the blocks. -/
theorem Finished.react (cue : Cue) (s u : State) (w : Option Pole) (hr : u.polesRun = true) :
    Finished w u (State.react cue s (u.finishPoles w)) := by
  have f := Finished.finishPoles w u hr
  have hrole : (u.finishPoles w).osm.role = .pole := by
    rw [(Watched.finishPoles u w).osm]; exact (State.polesRun_role hr).1
  have c := Carried.react cue s (u.finishPoles w)
  have hc := State.holdsCut_congr (Reacted.react cue s (u.finishPoles w) (State.driverSettled_pole hrole)).cuts
  obtain ⟨q1, q2, q3, q4, q5, q6, q7, q8, q9, q10⟩ := c.poles
  have qp := c.pole
  generalize u.finishPoles w = x at f q1 q2 q3 q4 q5 q6 q7 q8 q9 q10 qp hc
  generalize State.react cue s x = t at q1 q2 q3 q4 q5 q6 q7 q8 q9 q10 qp hc
  constructor
  · intro p; rw [qp]; exact f.pole p
  · rw [q3]; exact f.operation
  · rw [q4]; exact f.raiseTimer
  · rw [q5]; exact f.drainTimer
  · rw [q6]; exact f.line
  · rw [q7]; exact f.gapTimer
  · rw [q10]; exact f.loadPending
  · rw [q8, q9]; exact f.source
  · rw [q8]; exact f.sourceSame
  · rw [hc]; exact f.suspectPos
  · rw [hc]; exact f.suspectNeg
  · rw [hc]; exact f.dewirePos
  · rw [hc]; exact f.dewireNeg
  · rw [hc, q6]; exact f.sectionCut
  · rw [hc, q3]; exact f.lowering
  · rw [hc, q9]; exact f.sourceChange
  · rw [hc]; exact f.driver

/-- The conditions in force after the whole of a step of the pole watch unit. -/
theorem State.react_finishPoles_inForce (cue : Cue) (s u : State) (w : Option Pole) (k : AlarmKind) (q : Nat)
    (h : ¬ poleCondition u (k, q)) : (State.react cue s (u.finishPoles w)).inForce k q = u.inForce k q := by
  rw [State.react_inForce _ _ _ _ _ ?_, State.finishPoles_inForce w u k q h]
  unfold poleCondition at h
  push Not at h
  simpa using h.2.2.1

/-- The state of a pole after the whole of a step of the pole watch unit. -/
theorem Finished.state {w : Option Pole} {s t : State} (f : Finished w s t) (p : Pole) :
    (t.pole p).state = (s.pole p).state := by
  obtain ⟨x, hx⟩ := f.pole p
  rw [hx]

/-- A pole's record read after it is replaced. -/
theorem State.pole_setPole (s : State) (p q : Pole) (r : PoleRecord) :
    (s.setPole p r).pole q = if p = q then r else s.pole q := by
  cases p <;> cases q <;> rfl

theorem State.pole_enterPole (s : State) (p q : Pole) (st : PoleState) :
    (s.enterPole p st).pole q = if p = q then (s.pole q).enter st else s.pole q := by
  cases p <;> cases q <;> rfl

/-- The poles after those of a kind are lowered. -/
theorem State.pole_lowerAll (f : PoleState → Bool) (s : State) (q : Pole) :
    (bothPoles.foldl (State.lowerIf f) s).pole q = if f (s.pole q).state then (s.pole q).enter .lowering else s.pole q := by
  simp only [bothPoles, List.foldl]
  unfold State.lowerIf
  have h : ∀ u : State, (if f (u.pole .neg).state = true then u.enterPole .neg .lowering else u).pole q =
      if q = .neg ∧ f (u.pole .neg).state = true then (u.pole q).enter .lowering else u.pole q := by
    intro u
    split
    · rw [State.pole_enterPole]; cases q <;> simp_all
    · simp_all
  have g : (if f (s.pole .pos).state = true then s.enterPole .pos .lowering else s).pole q =
      if q = .pos ∧ f (s.pole .pos).state = true then (s.pole q).enter .lowering else s.pole q := by
    split
    · rw [State.pole_enterPole]; cases q <;> simp_all
    · simp_all
  have g' : (if f (s.pole .pos).state = true then s.enterPole .pos .lowering else s).pole .neg = s.pole .neg := by
    split
    · rw [State.pole_enterPole]; simp
    · rfl
  rw [h, g', g]
  cases q <;> simp

/-- A lowering of poles leaves the unit's other fields. -/
theorem State.lowerAll_unit (f : PoleState → Bool) (s : State) :
    (bothPoles.foldl (State.lowerIf f) s).pwu =
      { s.pwu with pos := (bothPoles.foldl (State.lowerIf f) s).pwu.pos,
                   neg := (bothPoles.foldl (State.lowerIf f) s).pwu.neg } ∧
    (bothPoles.foldl (State.lowerIf f) s).au = s.au ∧ (bothPoles.foldl (State.lowerIf f) s).cc = s.cc := by
  simp only [bothPoles, List.foldl]
  unfold State.lowerIf
  split <;> split <;> exact ⟨rfl, rfl, rfl⟩

end Sys2Proof.Machine
end

