-- ==== Sys2Proof/Laws/Quiet.lean ====
section
/-! SUPPORT. Quiet.lean: at a working station whose load channels are settled the reaction to a command moves no channel,
unless the command is an admission event. -/

namespace Sys2Proof.Machine

theorem State.foldl_same {α : Type} {f : State → α → State} {s : State} (l : List α) (h : ∀ a ∈ l, f s a = s) :
    l.foldl f s = s := by
  induction l with
  | nil => rfl
  | cons a l ih => rw [List.foldl_cons, h a (by simp)]; exact ih (fun b hb => h b (by simp [hb]))

/-- The placing of a share moves no channel. -/
theorem State.spread_state (limit : State → Fin 4 → Nat) (l : List (Fin 4)) (s : State) (left : Nat) (d : Fin 4) :
    ((State.spread limit s left l).1.chan d).state = (s.chan d).state ∧
      ((State.spread limit s left l).1.chan d).minOff = (s.chan d).minOff := by
  induction l generalizing s left with
  | nil => exact ⟨rfl, rfl⟩
  | cons c l ih =>
    unfold State.spread
    dsimp only
    have h := ih (s.placeOn c (min left (limit s c))) (left - min left (limit s c))
    rw [h.1, h.2]
    unfold State.placeOn
    split <;> (rw [State.chan_setChan]; split <;> (try subst_vars) <;> exact ⟨rfl, rfl⟩)

/-- What follows the admission in a pass over the blocks moves no channel. -/
theorem State.afterAdmission_state (cue : Cue) (s : State) (d : Fin 4) :
    ((s.settleRestoring.rebuildClaims.settleShare cue).chan d).state = (s.chan d).state ∧
      ((s.settleRestoring.rebuildClaims.settleShare cue).chan d).minOff = (s.chan d).minOff := by
  have h1 : s.settleRestoring.rebuildClaims.chan d = s.chan d := by
    unfold State.rebuildClaims State.settleRestoring; split <;> rfl
  generalize s.settleRestoring.rebuildClaims = x at h1
  unfold State.settleShare
  rw [← h1]
  split
  · unfold State.placeShare; exact State.spread_state _ _ _ _ d
  · unfold State.trimShare; exact State.spread_state _ _ _ _ d

/-- The state with only the shed counter changed. -/
def State.withShed (s : State) (n : Nat) : State := s.withLcm { s.lcm with shedCounter := n }

theorem State.resetCounter_shed (s : State) : ∃ n, s.resetCounter = s.withShed n := by
  unfold State.resetCounter
  split
  · exact ⟨s.lcm.shedCounter, rfl⟩
  · exact ⟨0, rfl⟩

/-- A step that leaves the pole watch unit and the cut set finds one set of outputs at every evaluation. -/
theorem State.outputPath_same {s0 s : State} (hp : s0.pwu = s.pwu) (hc : s0.cc = s.cc) :
    ∀ o ∈ State.outputPath none s0 s, o = s.evaluated.outputs := by
  have h1 : s.withCc s0.cc = s := by rw [hc]; rfl
  have h2 : s.withPwu s0.pwu = s := by rw [hp]; rfl
  have h3 : s.withPwu { s.pwu with source := s0.pwu.source } = s := by rw [hp]; rfl
  intro o ho
  unfold State.outputPath at ho
  dsimp only at ho
  rw [h1, h2, h3] at ho
  split at ho <;> simpa using ho

/-- Where the channels are settled and no evaluation finds an inhibit, a pass up to its admission changes the array, the
currents and the shed counter alone. -/
theorem State.beforeAdmission_quiet (s : State) (os : List Inhibits) (ho : ∀ o ∈ os, o = noInhibits)
    (hl : s.LoadsSettled) :
    ∃ i n e, (s.evaluate os).refreshRequests.clampRegen os = ((s.withIa i).withShed n).withAe e ∧
      e.draw = s.ae.draw := by
  have hreach : ∀ c, noInhibits.reaches c = false := by decide
  have he : ∃ i n, s.evaluate os = (s.withIa i).withShed n := by
    unfold State.evaluate
    split
    · have hx : ∀ m, ∃ n, ((s.withIa s.evaluated).withShed m).applyInhibits noInhibits =
          (s.withIa s.evaluated).withShed n := by
        intro m
        unfold State.applyInhibits
        rw [State.foldl_same]
        · obtain ⟨n, hn⟩ := ((s.withIa s.evaluated).withShed m).resetCounter_shed
          exact ⟨n, hn⟩
        · intro c _
          unfold State.inhibitOne
          rw [hreach c]
          exact (if_neg (by decide)).trans (if_neg (hl.2 c).1)
      have hf : ∀ (l : List Inhibits) (m : Nat), (∀ o ∈ l, o = noInhibits) →
          ∃ n, l.foldl State.applyInhibits ((s.withIa s.evaluated).withShed m) = (s.withIa s.evaluated).withShed n := by
        intro l
        induction l with
        | nil => exact fun m _ => ⟨m, rfl⟩
        | cons o l ih =>
          intro m h
          obtain ⟨n, hn⟩ := hx m
          rw [List.foldl_cons, h o (by simp), hn]
          exact ih n (fun p hp => h p (by simp [hp]))
      obtain ⟨n, hn⟩ := hf os s.lcm.shedCounter ho
      exact ⟨_, n, hn⟩
    · exact ⟨s.ia, s.lcm.shedCounter, rfl⟩
  obtain ⟨i, n, hi⟩ := he
  rw [hi]
  have hr : ∃ m, ((s.withIa i).withShed n).refreshRequests = ((s.withIa i).withShed n).withShed m := by
    have hx : ((s.withIa i).withShed n).present.foldl State.refreshOne ((s.withIa i).withShed n) =
        (s.withIa i).withShed n := by
      refine State.foldl_same _ fun c _ => ?_
      unfold State.refreshOne
      have hw : ((s.withIa i).withShed n).wantedRequest c = (((s.withIa i).withShed n).chan c).request := (hl.2 c).2.1
      rw [hw]
      simp only [if_true]
      unfold State.fitDuty
      dsimp only
      rw [if_neg]
      intro h
      simp only [Bool.and_eq_true, decide_eq_true_eq, Channel.asks, bne_iff_ne, ne_eq] at h
      have h2 : (((s.withIa i).withShed n).chan c) = s.chan c := rfl
      rw [h2] at h
      exact absurd ((hl.2 c).2.2 h.1.2) (by omega)
    unfold State.refreshRequests
    rw [hx]
    exact State.resetCounter_shed _
  obtain ⟨m, hm⟩ := hr
  rw [hm]
  exact ⟨i, m, _, rfl, rfl⟩

/-- The reaction to a command that is no admission event moves no channel. -/
theorem State.react_quiet (s0 s : State) (hd : s.DriverSettled) (hw : s.Working) (hl : s.LoadsSettled)
    (hdr : s.ae.draw = s0.ae.draw) (hp : s0.pwu = s.pwu) (hcc : s0.cc = s.cc)
    (hc : ∀ c, State.channelEvent s0 s c = false) (d : Fin 4) :
    ((State.react noCue s0 s).chan d).state = (s.chan d).state ∧
      ((State.react noCue s0 s).chan d).minOff = (s.chan d).minOff := by
  have ho : (State.react noCue s0 s).osm.op = s.osm.op :=
    State.react_op_same _ _ _ (.inr (.inr (.inr (.inr (.inl ⟨hw.1, hw.2.1⟩)))))
  have c := Closed.react_same noCue s0 s ho
  have : (State.react noCue s0 s).chan d = (State.settleBlocks noCue s0 s).chan d := by unfold State.chan; rw [c.lcm]
  rw [this]
  unfold State.settleBlocks
  have hz : s.forceZero = s := by unfold State.forceZero; rw [hw.2.2]; rfl
  dsimp only
  rw [s.driverCut_settled hd, hz]
  have hos : ∀ o ∈ State.outputPath noCue.through (s0.pathBase noCue) s, o = s.evaluated.outputs := State.outputPath_same hp hcc
  rw [hl.1] at hos
  generalize State.outputPath noCue.through (s0.pathBase noCue) s = os at hos
  obtain ⟨i, n, e, h1, h2⟩ := s.beforeAdmission_quiet os hos hl
  rw [h1]
  have hq : ∀ c, pulses os c = false := fun c => by
    have hr : ∀ c, noInhibits.reaches c = false := by decide
    unfold pulses
    rw [Bool.and_eq_false_iff, List.any_eq_false]
    exact .inl fun o h => by rw [hos o h, hr c]; decide
  have ha : State.admissions noCue os s0 (((s.withIa i).withShed n).withAe e) = ((s.withIa i).withShed n).withAe e := by
    unfold State.admissions
    dsimp only
    rw [if_pos (show (((s.withIa i).withShed n).withAe e).ae.draw = s0.ae.draw by rw [← hdr, ← h2]; rfl)]
    rw [if_neg]
    have hn : ∀ l : List (Fin 4), l.any (pulses os) = false := fun l => List.any_eq_false.mpr fun c _ => by rw [hq c]; decide
    simp only [noCue, Bool.false_or, hn, Bool.and_false, Bool.or_false, List.any_eq_true, not_exists, not_and,
      Bool.not_eq_true]
    exact fun x _ => hc x
  rw [ha]
  exact State.afterAdmission_state noCue _ d

/-- A settled station stays settled as a channel that keeps its request and its cap moves to another state. -/
theorem State.LoadsSettled.setChan {s : State} (h : s.LoadsSettled) (c : Fin 4) (ch : Channel)
    (h1 : ch.request = (s.chan c).request) (h2 : ch.state ≠ .inhibited) (h3 : ch.duty ≤ (s.chan c).duty)
    (h4 : ch.cap = (s.chan c).cap) (h5 : ch.requesting = (s.chan c).requesting)
    (h6 : ch.cyclePending = (s.chan c).cyclePending) : (s.setChan c ch).LoadsSettled := by
  refine ⟨h.1, fun d => ?_⟩
  have hw : (s.setChan c ch).wantedRequest d = s.wantedRequest d := by
    unfold State.wantedRequest
    rw [State.chan_setChan]
    simp only [State.record_setChan]
    by_cases hd : c = d
    · subst hd; simp only [if_true, h5, h6]; rfl
    · simp only [hd, if_false]; rfl
  rw [hw, State.chan_setChan]
  by_cases hd : c = d
  · subst hd
    simp only [if_true]
    refine ⟨h2, by rw [h1]; exact (h.2 c).2.1, fun hr => ?_⟩
    rw [h1] at hr
    have := (h.2 c).2.2 hr
    unfold Channel.effective at *
    rw [h1, h4]; omega
  · simp only [hd, if_false]; exact h.2 d

/-- A channel that keeps its request and its cap and meets no inhibit is no admission event (R142). -/
theorem State.channelEvent_setChan (s : State) (c : Fin 4) (ch : Channel) (h1 : ch.request = (s.chan c).request)
    (h2 : ch.state ≠ .inhibited) (h3 : (s.chan c).state ≠ .inhibited) (h4 : ch.cap = (s.chan c).cap) (u : State)
    (hu : u.lcm = (s.setChan c ch).lcm) (d : Fin 4) : State.channelEvent s u d = false := by
  unfold State.channelEvent
  have : u.chan d = (s.setChan c ch).chan d := by unfold State.chan; rw [hu]
  rw [this, State.chan_setChan]
  by_cases hd : c = d
  · subst hd
    have e1 : (ch.state == .inhibited) = false := beq_eq_false_iff_ne.mpr h2
    have e2 : ((s.chan c).state == .inhibited) = false := beq_eq_false_iff_ne.mpr h3
    simp [h1, h4, e1, e2]
  · simp [hd]

end Sys2Proof.Machine
end

