-- ==== Sys2Proof/Laws/Receive.lean ====
section
/-! SUPPORT. Receive.lean: what a frame that passes the checks bears, how a row of a received frame hands it on, and what a
cut heard from a peer leaves of the own cuts and of the phase. -/

namespace Sys2Proof.Machine

/-- A frame that passes the checks bears the station number of its field, which is not 0 (R185). -/
theorem checkFrame_station {f : Frame} {r : Received} (h : checkFrame f = some r) :
    r.station = f.station.toNat ∧ r.station ≠ 0 := by
  unfold checkFrame at h
  split at h
  · rename_i hc
    have hn : f.station.toNat ≠ 0 := by
      simp only [Bool.and_eq_true, bne_iff_ne, ne_eq] at hc
      intro e
      exact hc.2 (BitVec.eq_of_toNat_eq (by simpa using e))
    have hs : r.station = f.station.toNat := by
      unfold readPayload at h
      dsimp only at h
      split at h
      · cases hp : parseBeacon f.payload with
        | none => rw [hp] at h; cases h
        | some b => rw [hp] at h; cases h; rfl
      · cases h; rfl
      · cases h; rfl
      · split at h
        · rename_i o t k r' _ _
          generalize parseCommandKind _ = p at h
          cases p with
          | none => cases h
          | some b => cases h; rfl
        · cases h
      · cases h; rfl
      · cases h
    exact ⟨hs, by rw [hs]; exact hn⟩
  · cases h

/-- A row of a received frame, where the station receives and the frame passes the checks. -/
theorem State.receive_eq (s : State) (kind : Nat) (f : Frame) (r : Received) (act : State → Received → State)
    (h1 : s.osm.op.receives = true) (h2 : f.kind.toNat = kind) (h3 : checkFrame f = some r) :
    s.receive kind f act = State.react (s.frameCue r) s (if s.isOwn r.station then s.duplicateFound else act s r) := by
  unfold State.receive
  have hd : s.osm.op ≠ .dormant := by intro h; rw [h] at h1; cases h1
  rw [if_neg hd, if_pos ⟨h1, h2⟩, h3]

/-- A number that is not 0 and not the own one. -/
theorem State.ne_number {s : State} {n : Nat} (h : s.isOwn n = false) (h0 : n ≠ 0) : n ≠ s.osm.number := by
  rintro rfl
  rw [s.isOwn_number h0] at h
  cases h

/-- Where the phase is HELD exactly while the set is non-empty, a set left non-empty leaves it HELD (R124). -/
theorem State.putCuts_held (s : State) (cuts : List CutEntry) (hi : s.cc.cuts ≠ [] ↔ s.cc.phase = .held)
    (hc : cuts ≠ []) : (s.putCuts cuts).cc.phase = .held := by
  unfold State.putCuts
  dsimp only
  split
  · unfold State.beginHeld
    simp only [State.withCc_cc]
    have key : ∀ (l : List Placed) (b : State),
        ((l.foldl State.returnShed b).stopAll.finishShed).cc.phase = b.cc.phase := fun l b =>
      ((LoadOnly.foldl LoadOnly.returnShed _ b).trans ((LoadOnly.stopAll _).trans (LoadOnly.finishShed _))).same.2.2.1
    rw [key]; rfl
  · rename_i h
    rw [if_neg (fun k => hc k.2.1)]
    exact hi.mp (fun e => h ⟨e, hc⟩)

/-- A cut heard from a peer leaves the own cuts (R119). -/
theorem enterCut_own (s : State) (n : Nat) (c : CutCause) (k : Nat)
    (hown : ∀ e ∈ s.cc.cuts, e.own = (e.origin == s.osm.number)) (hn : n ≠ s.osm.number) (d : CutCause) :
    ownCause (enterCut s.cc.cuts n c k) d = ownCause s.cc.cuts d := by
  have hf : ownCause (s.cc.cuts.filter (fun e => !e.isOf n c)) d = ownCause s.cc.cuts d := by
    unfold ownCause
    rw [List.any_filter, Bool.eq_iff_iff]
    simp only [List.any_eq_true, Bool.and_eq_true]
    constructor
    · rintro ⟨e, he, -, h⟩; exact ⟨e, he, h⟩
    · rintro ⟨e, he, h⟩
      refine ⟨e, he, ?_, h⟩
      have ho := hown e he
      rw [h.1] at ho
      simp only [CutEntry.isOf, Bool.not_eq_true', Bool.and_eq_false_iff, beq_eq_false_iff_ne]
      exact .inl (fun h2 => hn (h2 ▸ (beq_iff_eq.mp ho.symm)))
  have happ : ∀ l, ownCause (l ++ [⟨n, c, k, false⟩]) d = ownCause l d := by
    intro l; unfold ownCause; simp
  unfold enterCut
  split
  · rfl
  · split
    · rw [happ, hf]
    · split
      · rw [happ]
      · split
        · rw [happ, ownCause_dropOldestPeer]
        · rfl

end Sys2Proof.Machine
end

