-- ==== Sys2Proof/Tests/Slice0.lean ====
section
/-! SUPPORT. Slice0.lean: the WellFormed smoke test, tests on values the spec works out, and for each obligation that has
hypotheses a concrete state and operands that meet them. -/

namespace Sys2Proof.Tests

open Sys2Proof Sys2Proof.Machine

/- One test at a time: each evaluation in the kernel takes a thread with a deep stack. -/
set_option Elab.async false

/-- The state a command leads to. -/
def after (c : Instr) (s : State) : State :=
  match exec c s with
  | .next t => t
  | _ => s

/-- A station past LOADING, every block at its reset values. -/
def station (o : OpState) (r : Role) (n : Nat) : State := { State.reset with osm := ⟨o, r, n, 0, 0, 0⟩ }

/-- A beacon of a station with the given part, all else plain. -/
def beaconOf (p : Part) (draw : Nat) : Beacon where
  part := p
  sequence := 0
  paramSet := 0
  period := 20
  op := .active
  duplicate := false
  configFault := false
  hot := false
  pattern := false
  draw := draw
  regenRequest := 0
  regen := 0
  sink := 0
  lastResult := none
  claims := []
  cuts := []
  alarms := []

/-- The entry of station n is FRESH and holds a beacon. -/
def heardFrom (n : Nat) (p : Part) (s : State) : State :=
  s.setEntry n ⟨.fresh, 0, 20, 0, noCauses, some (beaconOf p 0)⟩

/-- Station 1 publishes WIRE at 530 V and both poles on the wire. -/
def onWire : State → State := heardFrom 1 (.pole ⟨530, .onWire, 0, .onWire, 0, .live, .wire⟩)

/-- Station 7 publishes the key on. -/
def withKey : State → State := heardFrom 7 (.console ⟨false, false, true, 6⟩)

/-- Station 2 publishes a speed of 0. -/
def stopped : State → State := heardFrom 2 (.traction 0)

/-- Station 5 at work: ACTIVE, the key on, source WIRE. -/
def atWork : State := withKey (onWire (station .active .auxiliary 5))

/-- The poles of a state, their counts and timers at 0. -/
def withPoles (a b : PoleState) (s : State) : State :=
  s.withPwu { s.pwu with pos := { resetPole with state := a }, neg := { resetPole with state := b } }

/-- The pole station in ACTIVE at standstill, its poles in the given states. -/
def poleStation (a b : PoleState) : State := stopped (withPoles a b (station .active .pole 1))

/-- The pole station with both poles up and the line in a state. -/
def poleLine (l : LineState) (m : SourceMode) : State :=
  let s := poleStation .onWire .onWire
  s.withPwu { s.pwu with line := l, source := m }

/-- A cut of the set. -/
def peerCut (n : Nat) (c : CutCause) (k : Nat) : CutEntry := ⟨n, c, k, false⟩

/-- The cut set of a station, in the phase HELD. -/
def withCuts (l : List CutEntry) (s : State) : State := s.withCc { s.cc with cuts := l, phase := .held }

/-- A frame of a message of station n. -/
def sent (n : Nat) (m : Message) : Frame := encode n m

/-- A channel record that is present, its request the input of its number plus 2. -/
def switchedRecord (c : Nat) : ChannelRecord := { absentRecord c with present := true }

/-- Station 5 at work with channel 0 in a state; `on` is the level of its input. -/
def withChannel (st : ChannelState) (on : Bool) (minOn minOff : Nat) : State :=
  let s := atWork
  let t := s.withSettings { s.settings with chans := s.settings.chans.set 0 (switchedRecord 0) }
  let u := if on then t.withSu { t.su with din := 4 } else t
  u.setChan 0 { resetChannel with state := st, request := if on then 1 else 0, minOn := minOn, minOff := minOff }

/-- An analog sample of eight equal readings. -/
def flatSample (v : BitVec 10) : AnalogSample := ⟨v, v, v, v, v, v, v, v⟩

/-! The WellFormed smoke test: for each check a term it refuses. -/

theorem test_wf_accepts : (Instr.beaconReceived (sent 5 (.beacon (beaconOf .auxiliary 0)))).wf = true := by decide +kernel

theorem test_wf_refuses_wrong_length : (Instr.cutReceived ⟨0, 5, 1, 3, [1, 2], 0⟩).wf = false := by decide +kernel

theorem test_wf_refuses_long_payload : (Frame.mk 2 5 0 97 (List.replicate 97 0) 0).wf = false := by decide +kernel

theorem test_wf_refuses_wrong_kind :
    (Instr.beaconReceived (sent 5 (.pattern 5))).wf = false ∧
    (Instr.patternReceived (sent 5 (.cut 5 .section_ 0))).wf = false ∧
    (Instr.cutReceived (sent 5 (.release 5 .section_ 0))).wf = false ∧
    (Instr.releaseReceived (sent 5 (.cut 5 .section_ 0))).wf = false ∧
    (Instr.commandReceived (sent 5 (.cut 5 .section_ 0))).wf = false := by decide +kernel

theorem test_wf_refuses_station_zero :
    (Instr.entryStale 0).wf = false ∧ (Instr.entryPhantom 0).wf = false ∧ (Instr.phantomHoldExpiry 0).wf = false ∧
    (Instr.patternSilenceTimeout 0).wf = false := by decide

theorem test_wf_refuses_wake_priority : (Instr.wakeByFrame 2).wf = false ∧ (Instr.wakeByFrame 1).wf = true := by decide

theorem test_wf_refuses_ack_records :
    (Instr.ackAlarms 0 []).wf = false ∧ (Instr.ackAlarms 0 (List.replicate 9 ⟨0, 0, 0⟩)).wf = false ∧
    (Instr.ackAlarms 0 (List.replicate 8 ⟨0, 0, 0⟩)).wf = true := by decide

/-! Tests against values the spec works out, or a value known of the generator it names. -/

/-- R181: the CRC with the generator x^16 + x^12 + x^5 + 1 and all ones preset reads 29B1H over the ASCII digits 1 to 9
(UNVERIFIED: the check value known of that CRC, not in the spec). -/
theorem test_crc_check_value :
    ([0x31#8, 0x32#8, 0x33#8, 0x34#8, 0x35#8, 0x36#8, 0x37#8, 0x38#8, 0x39#8].flatMap bitsOf).foldl crcBit 0xFFFF#16 =
      0x29B1#16 := by decide +kernel

/-- 02 Table 2-8. -/
theorem test_line_draw_envelope :
    [600, 560, 559, 530, 492, 483, 481, 480, 450].map (lineDraw defaultSettings) =
      [500, 500, 493, 312, 75, 18, 6, 0, 0] := by decide +kernel

/-- 03 Table 3-2. -/
theorem test_line_regen_envelope :
    [750, 820, 821, 860, 894, 895, 899, 900].map (lineRegen defaultSettings) =
      [300, 300, 296, 150, 22, 18, 3, 0] := by decide +kernel

/-- 02 Table 2-2. -/
theorem test_setpoint_duties :
    [0, 25, 197, 232, 400].map drawDuty = [512, 544, 764, 808, 1023] ∧ [280, 400].map regenDuty = [154, 0] := by
  decide +kernel

/-- 02 section 2.9 case 4: the floors alone. -/
theorem test_floors_alone :
    ((allot 55 [⟨2, 0, ⟨1, 232, 0⟩⟩, ⟨3, 0, ⟨0, 60, 40⟩⟩, ⟨5, 0, ⟨0, 35, 35⟩⟩]).map Granted.grant) = [0, 29, 25] := by
  decide +kernel

/-- 02 section 2.9 case 3, the class stage and its leftover: W of 100 A over extras of 90 A and 50 A. -/
theorem test_leftover_dealt :
    ((allot 100 [⟨4, 0, ⟨3, 90, 0⟩⟩, ⟨6, 0, ⟨3, 50, 0⟩⟩]).map Granted.grant) = [65, 35] := by decide +kernel

/-- R194, Table 11-5: the image as delivered settles to every default. -/
theorem test_delivered_image_settles_to_defaults : (settle .auxiliary State.reset.cs.image).imax = 500 ∧
    (settle .auxiliary State.reset.cs.image).lmaxWide = 380 ∧ (settle .auxiliary State.reset.cs.image).tgap = 1500 ∧
    (settle .auxiliary State.reset.cs.image).consoleStation = 7 := by decide +kernel

/-- R192: station 4's bytes 0 to 3, 30 and 31; 10 section 10.9: station 5's byte 7. -/
theorem test_pattern_bytes : [0, 1, 2, 3, 30, 31].map (patternByte 4) = [4, 243, 20, 227, 244, 3] ∧
    patternByte 5 7 = 194 := by decide +kernel

/-! For each obligation with hypotheses, in the order of the obligations, states and operands that meet them. -/

/-- Every command answers a next state: the one `after` names. -/
theorem exec_is_next (c : Instr) (s : State) : exec c s = .next (after c s) := by cases c <;> rfl

/-- A step takes the one command that waits. -/
theorem step_is_next (c : Instr) (s : State) :
    step (s.withPending [c]) = .next (after c ((s.withPending [c]).withPending [])) :=
  exec_is_next c _

theorem test_wit_IdleStepIsOneMillisecond : atWork.pending = [] ∧ (atWork.entry 1).state = .fresh ∧
    (atWork.entry 15).state = .empty := by decide +kernel

/-- A state whose write of page 3 a cold reset interrupts. -/
def midWrite (elapsed : Nat) : State :=
  let s := station .maintenance .auxiliary 5
  s.withCs { s.cs with write := some ⟨3, Vector.replicate 16 7, elapsed⟩, mark := true }

theorem test_wit_ColdResetLeavesOnlyTheImage : ∀ a ∈ [47, 64],
    ∀ w, (midWrite 2).cs.write = some w → ¬ (16 * w.page.val ≤ a ∧ a < 16 * w.page.val + 16) := by
  intro a ha w hw
  obtain rfl : (⟨3, Vector.replicate 16 7, 2⟩ : PageWrite) = w := by simpa [midWrite, State.withCs] using hw
  fin_cases ha <;> decide

theorem test_wit_StepKeepsImageForm :
    ((midWrite 5).withPending [.pageWriteComplete]).cs.image.wf = true ∧
    (∃ t, step ((midWrite 5).withPending [.pageWriteComplete]) = .next t) ∧
    (after .pageWriteComplete (midWrite 5)).cs.image ≠ [] :=
  ⟨by decide +kernel, ⟨_, step_is_next _ _⟩, by decide +kernel⟩

/-- A set of eight cuts, one of them with the number 255. -/
def fullCuts : List CutEntry :=
  [peerCut 1 .suspectPos 0, peerCut 1 .suspectNeg 1, peerCut 1 .dewirePos 2, peerCut 1 .dewireNeg 3,
    peerCut 1 .section_ 4, peerCut 1 .lowering 5, peerCut 1 .sourceChange 6, peerCut 7 .driver 255]

/-- Station 5 at work with its cut set full. -/
def fullState : State := withCuts fullCuts atWork

/-- The CUT of a peer. -/
def cutFrame (n : Nat) (c : CutCause) (k : Nat) : Instr := .cutReceived (sent n (.cut n c k))

theorem test_wit_StepKeepsCutSet : (fullState.withPending [cutFrame 7 .section_ 9]).CutsOk ∧
    (∃ t, step (fullState.withPending [cutFrame 7 .section_ 9]) = .next t) ∧
    (after (cutFrame 7 .section_ 9) fullState).cc.cuts.length = 8 :=
  ⟨by unfold State.CutsOk; decide +kernel, ⟨_, step_is_next _ _⟩, by decide +kernel⟩

theorem test_wit_StepKeepsForcedZero : (fullState.withPending [.wakeInput]).PlacedOk ∧
    (fullState.withPending [.wakeInput]).ForcedOk ∧ fullState.forced = true ∧
    ∃ t, step (fullState.withPending [.wakeInput]) = .next t :=
  ⟨by unfold State.PlacedOk; decide +kernel, by unfold State.ForcedOk; decide +kernel, by decide +kernel,
    ⟨_, step_is_next _ _⟩⟩

/-- Station 5 at work with an applied draw and an own grant. -/
def drawing (draw grant : Nat) : State := atWork.withAe { atWork.ae with draw := draw, grant := grant }

theorem test_wit_StepKeepsDrawWithinGrant : ((drawing 400 400).withPending [.allotmentEventPeriodic]).DrawOk ∧
    ∃ t, step ((drawing 400 400).withPending [.allotmentEventPeriodic]) = .next t :=
  ⟨by unfold State.DrawOk; decide +kernel, ⟨_, step_is_next _ _⟩⟩

/-- A station with two urgent frames, one of them driven, and three commands. -/
def fullQueues : State :=
  let c : Message := .command 1 0 .raisePoles
  let m : Message := .cut 5 .driver 0
  atWork.withBus { atWork.bus with
    urgentSlots := [m], sending := some ⟨.urgent, m, sent 5 m, false, none⟩, commandSlots := [c, c, c] }

theorem test_wit_StepKeepsQueueBounds : (fullQueues.withPending [.arbitrationLost]).QueuesOk ∧
    (∃ t, step (fullQueues.withPending [.arbitrationLost]) = .next t) ∧
    (after .arbitrationLost fullQueues).bus.urgentSlots.length = 2 :=
  ⟨by unfold State.QueuesOk; decide +kernel, ⟨_, step_is_next _ _⟩, by decide +kernel⟩

/-- An alarm entry of a source and qualifier. -/
def alarm (source q : Nat) (latched : Bool) (st : AlarmState) : AlarmEntry :=
  ⟨.bounce, source, q, .advisory, latched, st, 1, 0, false, q⟩

/-- Station 5 with a full table, eight entries its own. -/
def fullAlarms (latched : Bool) (st : AlarmState) : State :=
  atWork.withAu { atWork.au with
    entries := (List.range 8).map (fun q => alarm 5 q latched st) ++ (List.range 8).map (fun q => alarm 6 q false st)
    nextSeq := 8 }

theorem test_wit_StepKeepsAlarmTable :
    ((fullAlarms true .activeUnack).withPending [.ackAlarms 0 [⟨4, 0, 1⟩]]).AlarmsOk ∧
    ∃ t, step ((fullAlarms true .activeUnack).withPending [.ackAlarms 0 [⟨4, 0, 1⟩]]) = .next t :=
  ⟨by unfold State.AlarmsOk; decide +kernel, ⟨_, step_is_next _ _⟩⟩

theorem test_wit_StepKeepsRanges : (atWork.withPending [.analogSample (flatSample 1023)]).RangesOk ∧
    ∃ t, step (atWork.withPending [.analogSample (flatSample 1023)]) = .next t :=
  ⟨by unfold State.RangesOk; decide +kernel, ⟨_, step_is_next _ _⟩⟩

/-- The straps of a role code and number. -/
def straps (r : BitVec 3) (n : BitVec 4) : Straps := ⟨r, n, false⟩

theorem test_wit_StepKeepsPolesWaiting : (State.reset.withPending [.loadingEnd (straps 3 1)]).PolesWait ∧
    (∃ t, step (State.reset.withPending [.loadingEnd (straps 3 1)]) = .next t) ∧
    (after (.loadingEnd (straps 3 1)) State.reset).pwu.loadPending = true :=
  ⟨by unfold State.PolesWait; decide +kernel, ⟨_, step_is_next _ _⟩, by decide +kernel⟩

/-- A beacon with every field at the top of its width. -/
def topBeacon : Beacon :=
  { beaconOf (.battery 65535 65535) 65535 with
    sequence := 255, paramSet := 65535, period := 255, regenRequest := 65535, regen := 65535, sink := 65535,
    lastResult := some (255, 255), claims := List.replicate 4 ⟨3, 65535, 65535⟩,
    cuts := List.replicate 8 ⟨.driver, 255⟩, alarms := List.replicate 8 ⟨.patternError, 255, .clearedUnack, 255⟩ }

theorem test_wit_FramesRoundTrip : (Message.beacon topBeacon).Sendable ∧
    (Message.command 15 255 (.ackAlarms (List.replicate 8 ⟨1, 2, 3⟩))).Sendable := by
  refine ⟨?_, ?_⟩
  · simp [Message.Sendable, Beacon.Sendable, topBeacon, beaconOf]
  · simp [Message.Sendable]

/-- Station 5 with a computation in progress on an own claim of class 1. -/
def computing (draw demand : Nat) (k : CompKind) : State :=
  let s := atWork.withLcm { atWork.lcm with claims := [⟨1, demand, 0⟩] }
  (s.withAe { s.ae with draw := draw, grant := draw }).startComputation k

theorem test_wit_CurrentsRiseOnlyPeriodically :
    (∃ t, exec .allotmentComputationEnd (computing 100 200 .periodic) = .next t) ∧
    (after .allotmentComputationEnd (computing 100 200 .periodic)).ae.draw = 125 :=
  ⟨⟨_, exec_is_next _ _⟩, by decide +kernel⟩

theorem test_wit_OperatingStateMoves : State.reset.ActiveOk ∧ atWork.ActiveOk ∧ (drawing 1 1).ActiveOk ∧
    (∃ t, exec (.loadingEnd (straps 1 5)) State.reset = .next t) ∧
    (after (.loadingEnd (straps 1 5)) State.reset).osm.op = .listening ∧
    (after (.patternOn 1) (stopped atWork)).osm.op = .pattern := by
  unfold State.ActiveOk
  exact ⟨by decide +kernel, by decide +kernel, by decide +kernel, ⟨_, exec_is_next _ _⟩, by decide +kernel, by decide +kernel⟩

theorem test_wit_PolesRiseOnlyByCommand :
    (poleStation .lockedOut .stowed).PolesWait ∧ (poleStation .stowed .stowed).PolesWait ∧
    (∃ t, exec (.clearLockout 1 0) (poleStation .lockedOut .stowed) = .next t) ∧
    (∃ t, exec (.raisePoles 1) (poleStation .stowed .stowed) = .next t) ∧
    ((after (.clearLockout 1 0) (poleStation .lockedOut .stowed)).pole .pos).state = .stowed ∧
    ((after (.raisePoles 1) (poleStation .stowed .stowed)).pole .pos).state = .raising ∧
    ((after (.commandReceived (sent 7 (.command 1 9 .raisePoles))) (poleStation .stowed .stowed)).pole .pos).state =
      .raising := by
  refine ⟨by unfold State.PolesWait; decide +kernel, by unfold State.PolesWait; decide +kernel, ⟨_, exec_is_next _ _⟩,
    ⟨_, exec_is_next _ _⟩, by decide +kernel, by decide +kernel, by decide +kernel⟩

/-- The three frames' hypothesis: a command that answers a next state and is none of those excepted. -/
theorem test_wit_ImageAndSettingsFrame_InputAndPortFrame_HeldValuesFrame :
    (∃ t, exec .gapTimeout (poleLine .gap .gap) = .next t) ∧
    (∃ t, exec .readBusy atWork = .next t) ∧ (after .readBusy atWork).port = .busyState false .none false :=
  ⟨⟨_, exec_is_next _ _⟩, ⟨_, exec_is_next _ _⟩, by decide +kernel⟩

/-- The knees of both envelopes and the voltages beside them. -/
theorem test_wit_LineEnvelopes : defaultSettings.vcutLow < defaultSettings.vkneeLow ∧
    defaultSettings.vkneeHigh < defaultSettings.vcutHigh ∧ 0 < defaultSettings.imax ∧
    defaultSettings.vcutLow < 481 ∧ 559 < defaultSettings.vkneeLow ∧
    defaultSettings.vkneeHigh < 821 ∧ 899 < defaultSettings.vcutHigh ∧
    { defaultSettings with iregenMax := 0 }.iregenMax = 0 ∧
    atWork.sourceUsed atWork.takeSnapshot = .wire ∧ atWork.specialUsed atWork.takeSnapshot = false := by decide +kernel

/-- Station 5 beside a pole station that publishes a source mode at 530 V, a console with its special-work flag, and battery
station 3 of 150 A discharge and 90 A acceptance, its entry in a state. -/
def vehicle (m : SourceMode) (special : Bool) (e : EntryState) : State :=
  let s := heardFrom 7 (.console ⟨special, false, true, 6⟩) (station .active .auxiliary 5)
  (heardFrom 1 (.pole ⟨530, .onWire, 0, .onWire, 0, .live, m⟩) s).setEntry 3
    ⟨e, 0, 20, 0, noCauses, some (beaconOf (.battery 150 90) 0)⟩

/-- Tables 2-1 and 3-1 with the cap of 80 A and the reserve of 20 A: 500 × 50 / 80 = 312 A at 530 V; the battery counts while its
entry is FRESH alone. -/
theorem test_wit_LineEnvelopes_modes :
    let u := fun m x e => (vehicle m x e).usableDraw (vehicle m x e).takeSnapshot
    let g := fun m x e => (vehicle m x e).usableRegenOf (vehicle m x e).takeSnapshot
    (∀ m ∈ [SourceMode.wire, .battery, .gap, .none],
      (vehicle m true .fresh).sourceUsed (vehicle m true .fresh).takeSnapshot = m) ∧
    u .wire false .fresh = 292 ∧ u .wire true .fresh = 60 ∧ g .wire true .fresh = 280 ∧
    u .battery false .fresh = 130 ∧ u .battery true .fresh = 60 ∧ g .battery true .fresh = 70 ∧
    u .battery false .stale = 0 ∧ g .battery false .stale = 0 ∧ u .gap false .fresh = 0 ∧ g .none false .fresh = 0 := by
  decide +kernel

/-- Two claims with floors of 40 A and 35 A. -/
def someClaims : List CountedClaim := [⟨3, 0, ⟨0, 60, 40⟩⟩, ⟨5, 0, ⟨3, 400, 35⟩⟩]

theorem test_wit_FloorsAlone : 75 ≤ floorSum someClaims ∧ floorSum someClaims < 76 ∧ floorSum [] = 0 := by decide +kernel

/-- U at the floors, at the extras of class 0 whole, and between; class 3 with nothing left and with a part. -/
theorem test_wit_GrantsWithinEnvelope : (∀ c ∈ someClaims, c.claim.cls ≤ 3 ∧ c.claim.floor ≤ c.claim.demand) ∧
    floorSum someClaims < 76 ∧ 76 - floorSum someClaims ≤ (someClaims.map CountedClaim.extra).sum ∧
    460 - floorSum someClaims ≤ (someClaims.map CountedClaim.extra).sum ∧
    roomOf 94 someClaims 0 < extrasOf someClaims 0 ∧ extrasOf someClaims 0 ≤ roomOf 95 someClaims 0 ∧
    roomOf 95 someClaims 3 = 0 ∧ roomOf 96 someClaims 3 < extrasOf someClaims 3 := by decide +kernel

/-- R38: of a leftover the first claim of the class is dealt, as in 02 section 2.9 case 3. -/
theorem test_leftover_first : roomOf 1 [⟨4, 0, ⟨3, 2, 0⟩⟩, ⟨6, 0, ⟨3, 2, 0⟩⟩] 3 = 1 ∧
    ((allot 1 [⟨4, 0, ⟨3, 2, 0⟩⟩, ⟨6, 0, ⟨3, 2, 0⟩⟩]).map Granted.grant) = [1, 0] := by decide +kernel

/-- Two sink stations. -/
def someSinks : List SinkShare := [⟨4, 1, 0⟩, ⟨6, 30, 0⟩]

theorem test_wit_SinkSharesOfExcess : totalSink [] = 0 ∧ 0 < totalSink someSinks ∧ totalSink someSinks ≤ 31 ∧
    30 < totalSink someSinks ∧ (∀ k ∈ someSinks, 0 < k.capacity) ∧ atWork.computesZero = true ∧
    ((onWire atWork).withAe { atWork.ae with snapshot := atWork.takeSnapshot }).computesZero = false := by
  decide +kernel

theorem test_wit_SetpointPulse : ((station .active .traction 2).withAe
    { resetAllotment with regenRequest := 1 }).setpointDuty = regenDuty 0 := by decide +kernel

/-- Station 5 with an own claim, in an operating state. -/
def claiming (o : OpState) : State :=
  let s := station o .auxiliary 5
  s.withLcm { s.lcm with claims := [⟨0, 400, 400⟩, ⟨3, 90, 0⟩] }

theorem test_wit_ClaimsPublished : (claiming .pattern).osm.op = .pattern ∧ (claiming .parked).osm.op = .parked ∧
    ∀ c ∈ (claiming .parked).lcm.claims, c.floor ≤ c.demand ∧ c.demand ≤ 400 := by decide +kernel

/-- LOADING with the image as delivered: the checks in order, each with straps that meet it. -/
theorem test_wit_LoadingEnds : State.reset.osm.op = .loading ∧ (⟨1, 5, true⟩ : Straps).cfgEn = true ∧
    State.reset.cs.image.sumAgrees = true ∧ State.reset.cs.mark = false ∧
    (straps 1 0).number = 0 ∧ 5 ≤ (straps 5 5).roleCode.toNat ∧
    rolesDisagree State.reset.cs.image (strapsRole (straps 1 1)) 1 = true ∧
    rolesDisagree State.reset.cs.image (strapsRole (straps 1 5)) 5 = false ∧
    (State.reset.cs.image.write 0 1).sumAgrees = false := by decide +kernel

/-- Station 5 at work with a brake-air channel whose pressure is read from AIN4. -/
def compressor : State :=
  let r := { switchedRecord 0 with source := .pressure, pressureInput := some 4 }
  atWork.withSettings { atWork.settings with chans := atWork.settings.chans.set 0 r }

/-- The pole station with the poles in the given states and an operation. -/
def operating (o : PoleOperation) (a b : PoleState) : State :=
  let s := poleStation a b
  s.withPwu { s.pwu with operation := o }

/-- The pole station with the poles and the line in given states, the wire-height references at 300. -/
def watching (o : PoleOperation) (a b : PoleState) (l : LineState) : State :=
  let s := operating o a b
  s.withPwu { s.pwu with line := l, pos := { s.pwu.pos with height := 300 }, neg := { s.pwu.neg with height := 300 } }

/-- A sample of a line voltage, the two elevations, and lateral readings on the wire. -/
def poleSample (v e f : BitVec 10) : AnalogSample := ⟨v, e, f, 512, 512, 0, 0, 0⟩

theorem test_wit_SampleIsTaken : compressor.osm.op.samples = true ∧ compressor.osm.op.receives = true ∧
    (compressor.record 0).present = true ∧ (compressor.record 0).pressureInput = some 4 ∧
    (station .active .console 7).osm.role = .console ∧ (station .active .console 7).osm.op.receives = true ∧
    (station .maintenance .auxiliary 5).osm.op.samples = true ∧
    (after (.loadingEnd (straps 3 1)) State.reset).pwu.loadPending = true ∧
    (after (.loadingEnd (straps 3 1)) State.reset).PolesWait ∧
    (∀ s ∈ [watching .none .lowering .stowed .isOpen, watching .raise .raising .seeking .isOpen,
      watching .raise .seeking .seeking .isOpen, watching .none .onWire .suspect .live,
      watching .lowerDescent .suspect .suspect .gap], s.polesRun = true ∧ s.pwu.loadPending = false ∧
        s.pwu.trackWaits = false ∧ s.osm.op.samples = true) ∧
    (watching .raise .raising .seeking .isOpen).pwu.operation = .raise ∧
    (watching .lowerDescent .suspect .suspect .gap).bothUp = true ∧
    (watching .raise .seeking .seeking .isOpen).bothUp = false ∧ (watching .raise .seeking .seeking .isOpen).pwu.line = .isOpen := by
  unfold State.PolesWait
  decide +kernel

/-- R71, R72, R73, R78, R86, R102: a hook cleared, contact, a raise above Emax, a pole below Ehook, a gap and a pole out of
window, each at its bound and beside it. -/
theorem test_pole_samples :
    ((after (.analogSample (poleSample 0 50 0)) (watching .raise .raising .raising .isOpen)).pole .pos).state = .raising ∧
    ((after (.analogSample (poleSample 0 51 0)) (watching .raise .raising .raising .isOpen)).pole .pos).state = .seeking ∧
    (after (.analogSample (poleSample 400 300 300)) (watching .raise .seeking .seeking .isOpen)).pwu.line = .live ∧
    (after (.analogSample (poleSample 399 300 300)) (watching .raise .seeking .seeking .isOpen)).pwu.line = .isOpen ∧
    ((after (.analogSample (poleSample 0 701 300)) (watching .raise .seeking .raising .isOpen)).pole .pos).state = .lowering ∧
    ((after (.analogSample (poleSample 0 49 300)) (watching .none .lowering .lowering .isOpen)).pole .pos).state = .stowed ∧
    (after (.analogSample (poleSample 149 300 300)) (watching .none .onWire .onWire .live)).pwu.line = .gap ∧
    ((after (.analogSample (poleSample 700 361 300)) (watching .none .onWire .onWire .live)).pole .pos).state = .suspect := by
  decide +kernel

/-- R138: below Pcrit the critical flag is set, and at Pcrit it is not. -/
theorem test_critical_at_limit : ((after (.analogSample (flatSample 499)) compressor).chan 0).critical = true ∧
    ((after (.analogSample (flatSample 500)) compressor).chan 0).critical = false := by decide +kernel

/-- R32: HOT at the trip of 85 °C, a reading of 135. -/
theorem test_hot_at_trip : (after (.analogSample (flatSample 135)) atWork).ae.hot = true ∧
    (after (.analogSample (flatSample 134)) atWork).ae.hot = false := by decide +kernel

/-- The console of number 7 at work, with a cut set and an input already active. -/
def consoleWith (cuts : List CutEntry) (din : BitVec 12) : State :=
  let s := station .active .console 7
  let t := s.withCc { s.cc with cuts := cuts, phase := if cuts = [] then .none else .held }
  t.withSu { t.su with din := din }

theorem test_wit_InputTakesItsLevel : (after (.digitalInputChange 11 true) atWork).din 11 = true ∧
    (after (.digitalInputChange 0 true) atWork).din 0 = true ∧
    (∀ s ∈ [consoleWith [] 128, consoleWith [⟨7, .driver, 255, true⟩] 384], s.osm.role = .console ∧
      s.osm.op.serves = true ∧ s.CutsOk ∧ s.RangesOk) ∧
    (consoleWith [] 128).holdsCut .driver = false ∧
    (consoleWith [⟨7, .driver, 255, true⟩] 384).ownCut .driver = some ⟨7, .driver, 255, true⟩ ∧
    (station .faulted .console 7).osm.op = .faulted ∧ (station .faulted .console 7).osm.role = .console ∧
    (station .faulted .console 7).din 5 ≠ true ∧ (consoleWith [] 32).din 5 ≠ false := by
  unfold State.CutsOk State.RangesOk
  decide +kernel

/-- R116, R117: the DRIVER cut takes the counter's number, and its CUT waits; R176: a button's command takes the next
number. -/
theorem test_driver_cut : (after (.digitalInputChange 8 true) (consoleWith [] 128)).bus.urgentSlots = [.cut 7 .driver 0] ∧
    (after (.digitalInputChange 1 true) (consoleWith [] 128)).bus.commandSlots = [.command 1 0 .raisePoles] := by
  decide +kernel

/-- The console with an own alarm and two of station 6 unacknowledged, the acknowledge button at a level. -/
def consoleAlarms (o : OpState) (pressed : Bool) : State :=
  let s := (consoleWith [] (if pressed then 129 else 128)).withOsm ⟨o, .console, 7, 0, 0, 0⟩
  s.withAu { s.au with entries := [alarm 7 0 false .activeUnack, alarm 6 1 false .activeUnack, alarm 6 2 false .activeAck] }

theorem test_wit_InputTakesItsLevel_button : ∀ o ∈ [OpState.listening, .active, .faulted],
    (consoleAlarms o false).osm.role = .console ∧
    ((consoleAlarms o false).osm.op.serves = true ∨ (consoleAlarms o false).osm.op = .faulted) ∧
    (consoleAlarms o false).din 0 = false ∧ (consoleAlarms o false).RangesOk ∧
    consoleAlarms o true = (consoleAlarms o false).withSu
      { (consoleAlarms o false).su with din := (consoleAlarms o false).su.din ||| 1 } ∧
    ∀ c, ((consoleAlarms o false).record c).kind = .timed → ((consoleAlarms o false).record c).input ≠ 0 := by
  unfold State.RangesOk
  decide +kernel

theorem test_wit_InputTakesItsLevel_calm : (consoleAlarms .active true).Calm ∧ (consoleAlarms .faulted true).Calm := by
  unfold State.Calm State.DriverSettled State.LoadsSettled
  decide +kernel

/-- R175: the button acknowledges the own entry and hands station 6 one ACK_ALARMS, of its unacknowledged entry alone. -/
theorem test_ack_button : let t := after (.digitalInputChange 0 true) (consoleAlarms .active false)
    t.au.entries.map AlarmEntry.state = [.activeAck, .activeUnack, .activeAck] ∧
    t.bus.commandSlots = [.command 6 0 (.ackAlarms [⟨4, 1, 1⟩])] := by decide +kernel

theorem test_wit_WakeFromDormant : (station .dormant .auxiliary 5).osm.op = .dormant ∧ atWork.osm.op ≠ .dormant ∧
    (1#2).toNat ≤ 1 ∧ 2 ≤ (2#2).toNat := by decide +kernel

/-- Station 5 listening in, or parked, with its timer at a value. -/
def waitingState (o : OpState) (listen dormancy : Nat) : State :=
  (station o .auxiliary 5).withOsm ⟨o, .auxiliary, 5, listen, dormancy, 0⟩

theorem test_wit_ListenInAndDormancyEnd : (waitingState .listening 100 0).osm.op = .listening ∧
    5 * (waitingState .listening 100 0).settings.period ≤ (waitingState .listening 100 0).osm.listen ∧
    (waitingState .listening 99 0).osm.listen < 5 * (waitingState .listening 99 0).settings.period ∧
    600000 ≤ (waitingState .parked 0 600000).osm.dormancy ∧ (waitingState .parked 0 600000).keyOn = false ∧
    (waitingState .parked 0 600000).ia.heldKey = false := by decide +kernel

/-- R183: a frame being driven at the entry to DORMANT and then found to be in arbitration still is gone, after a wake too. -/
theorem test_dormant_frame :
    let x : Sending := ⟨.urgent, .pattern 5, encode 5 (.pattern 5), false, none⟩
    let s := (waitingState .parked 0 600000).withBus { State.reset.bus with sending := some x }
    let t := after .arbitrationLost (after .wakeInput (after .dormancyExpiry s))
    (after .dormancyExpiry s).osm.op = .dormant ∧ t.osm.op = .listening ∧ t.bus.sending = none ∧ t.bus.urgentSlots = [] := by
  decide +kernel

/-- The frame of a beacon with the given draw, from station n. -/
def auxFrame (n : Nat) : Frame := sent n (.beacon (beaconOf .auxiliary 25))

/-- A table with room, one full of both kinds, and one full of own entries. -/
def someAlarms (own other : Nat) (latched : Bool) (st : AlarmState) : State :=
  atWork.withAu { atWork.au with
    entries := (List.range own).map (fun q => alarm 5 q latched st) ++ (List.range other).map (fun q => alarm 6 q false st) }

/-- A beacon with one cut and two records of one alarm. -/
def listing : Beacon :=
  { beaconOf .auxiliary 25 with cuts := [⟨.driver, 9⟩], alarms := [⟨.bounce, 0, .activeAck, 0⟩, ⟨.bounce, 0, .activeUnack, 4⟩] }

theorem test_wit_BeaconAndPatternAreStored : atWork.osm.op.receives = true ∧ (auxFrame 15).kind = 0 ∧
    checkFrame (auxFrame 15) = some (.beacon 15 (beaconOf .auxiliary 25)) ∧ atWork.isOwn 15 = false ∧
    (sent 1 (.pattern 1)).kind = 4 ∧ checkFrame (sent 1 (.pattern 1)) = some (.pattern 1 (patternBytes 1)) ∧
    atWork.isOwn 1 = false ∧ (atWork.entry 1).beacon = some (beaconOf (.pole ⟨530, .onWire, 0, .onWire, 0, .live, .wire⟩) 0) ∧
    checkFrame (sent 9 (.pattern 9)) = some (.pattern 9 (patternBytes 9)) ∧ (atWork.entry 9).beacon = none ∧
    (sent 6 (.beacon listing)).kind = 0 ∧ checkFrame (sent 6 (.beacon listing)) = some (.beacon 6 listing) ∧
    (someAlarms 0 14 false .activeAck).CutsOk ∧ (someAlarms 0 14 false .activeAck).DriverSettled ∧
    (someAlarms 0 14 false .activeAck).osm.role ≠ .pole ∧
    (someAlarms 0 14 false .activeAck).au.entries.length + listing.alarms.length ≤ 16 ∧
    listing.cuts.Pairwise (fun r q => r.cause ≠ q.cause) := by
  unfold State.CutsOk State.DriverSettled
  decide +kernel

/-- A beacon whose currents lie above their ranges, with a period code of 30 and another parameter set. -/
def beyond : Beacon := { beaconOf .auxiliary 401 with
  paramSet := 1, period := 30, regen := 401, regenRequest := 401, sink := 1601, claims := [⟨2, 401, 402⟩] }

/-- R3, R10: such a beacon from the pole station's number is stored within its ranges, with every cause. -/
theorem test_stored_within_ranges :
    let t := after (.beaconReceived (sent 1 (.beacon beyond))) atWork
    (t.entry 1).causes = ⟨true, true, true⟩ ∧ t.inForce .paramMismatch 1 = true ∧
    ((t.entry 1).beacon.map (fun c => [c.draw, c.regen, c.regenRequest, c.sink, c.period])) = some [400, 400, 400, 1600, 50] ∧
    (t.entry 1).beacon.map Beacon.claims = some [⟨2, 400, 400⟩] := by decide +kernel

/-- R170: of two records of one kind and qualifier the first counts, its count of 0 as 1. -/
theorem test_first_record : ((after (.beaconReceived (sent 6 (.beacon listing))) atWork).au.entries.map
    (fun e => (e.source, e.state, e.count))) = [(6, .activeAck, 1)] := by decide +kernel

/-- The cut set full of own cuts: one for each cause, the two of DEWIRE besides (a state no run reaches). -/
def ownCutSet : List CutEntry :=
  [⟨1, .suspectPos, 0, true⟩, ⟨1, .suspectNeg, 1, true⟩, ⟨1, .dewirePos, 2, true⟩, ⟨1, .dewireNeg, 3, true⟩,
    ⟨1, .section_, 4, true⟩, ⟨1, .lowering, 5, true⟩, ⟨1, .sourceChange, 6, true⟩, ⟨1, .driver, 7, true⟩]

/-- The pole station, which hears station 7, with a cut set. -/
def hearing (cuts : List CutEntry) : State := withCuts cuts (withKey (poleStation .onWire .onWire))

/-- One cut set for each case of R119: the cut held, an earlier number held, room, none but with a peer's entry, and own
entries alone. -/
theorem test_wit_CutIsEntered :
    (∀ cuts ∈ [[peerCut 7 .driver 9], [peerCut 7 .driver 8], [peerCut 2 .driver 9],
      [peerCut 2 .driver 9] ++ ownCutSet.take 7, ownCutSet],
      (hearing cuts).CutsOk ∧ (hearing cuts).DriverSettled ∧ (hearing cuts).osm.op.receives = true ∧
      (hearing cuts).isOwn 7 = false ∧ ((hearing cuts).entry 7).state ≠ .empty) ∧
    (sent 7 (.cut 7 .driver 9)).kind = 1 ∧
    checkFrame (sent 7 (.cut 7 .driver 9)) = some (.cut 7 7 (some .driver) 9) := by
  unfold State.CutsOk State.DriverSettled
  decide +kernel

theorem test_wit_BeaconAndPatternAreStored_pole :
    (hearing [peerCut 7 .driver 9]).CutsOk ∧ (hearing [peerCut 7 .driver 9]).DriverSettled ∧
    (hearing [peerCut 7 .driver 9]).osm.op.receives = true ∧ (hearing [peerCut 7 .driver 9]).osm.role = .pole ∧
    (hearing [peerCut 7 .driver 9]).isOwn 6 = false ∧
    (hearing [peerCut 7 .driver 9]).cc.cuts.length + listing.cuts.length ≤ 7 ∧
    ∀ c ∈ poleCauses, c ≠ .sourceChange →
      (hearing [peerCut 7 .driver 9]).polesHold none c = (hearing [peerCut 7 .driver 9]).holdsCut c := by
  unfold State.CutsOk State.DriverSettled
  decide +kernel

/-- A CUT or RELEASE of station 7 whose cause byte names no cause. -/
def unknownCause (kind : BitVec 3) : Frame := makeFrame 0 7 kind [7, 200, 9]

/-- The forms of R119 and R120 that are discarded: another station's origin, an unknown cause, and a peer whose entry is
EMPTY. -/
theorem test_wit_CutIsEntered_ReleaseRemovesItsCut_discarded :
    (unknownCause 1).kind = 1 ∧ checkFrame (unknownCause 1) = some (.cut 7 7 none 9) ∧
    (unknownCause 2).kind = 2 ∧ checkFrame (unknownCause 2) = some (.release 7 7 none 9) ∧
    checkFrame (sent 7 (.cut 2 .driver 9)) = some (.cut 7 2 (some .driver) 9) ∧
    checkFrame (sent 7 (.release 2 .driver 9)) = some (.release 7 2 (some .driver) 9) ∧
    checkFrame (sent 9 (.cut 9 .driver 9)) = some (.cut 9 9 (some .driver) 9) ∧
    (hearing []).isOwn 9 = false ∧ ((hearing []).entry 9).state = .empty := by decide +kernel

theorem test_wit_ReleaseRemovesItsCut : (hearing [peerCut 7 .driver 9]).CutsOk ∧
    (hearing [peerCut 7 .driver 9]).DriverSettled ∧ (hearing [peerCut 7 .driver 9]).osm.op.receives = true ∧
    (hearing [peerCut 7 .driver 9]).isOwn 7 = false ∧ (sent 7 (.release 7 .driver 9)).kind = 2 ∧
    checkFrame (sent 7 (.release 7 .driver 9)) = some (.release 7 7 (some .driver) 9) ∧
    (∀ e ∈ (hearing [peerCut 7 .driver 8]).cc.cuts, ¬ (e.origin = 7 ∧ e.cause = .driver ∧ e.number = 9)) := by
  unfold State.CutsOk State.DriverSettled
  decide +kernel

/-- Station 5 in OFFSET, the timer at a value. -/
def offsetAt (k : Nat) : State := atWork.withCc { atWork.cc with phase := .offset, offset := k }

/-- Station 5 in OFFSET with channel 0 on the shed list, its min-off not elapsed. -/
def offsetWithShed : State :=
  let s := withChannel .shed true 0 0
  (s.setChan 0 { s.chan 0 with shedPos := some 1 }).withCc { s.cc with phase := .offset, offset := 250 }

/-- Station 5 in RESTORING, channel 0 started from the first place of the list. -/
def restoring : State :=
  let s := withChannel .starting true 0 60000
  s.withCc { s.cc with phase := .restoring, restSet := [⟨0, 1⟩], restRecord := [⟨0, 1⟩] }

theorem test_wit_OffsetStartsAndEnds : (hearing [peerCut 7 .driver 9]).cc.phase = .held ∧
    (hearing [peerCut 7 .driver 9]).DriverSettled ∧ (offsetAt 250).cc.phase = .offset ∧
    50 * (offsetAt 250).osm.number ≤ (offsetAt 250).cc.offset ∧ (offsetAt 250).DriverSettled ∧
    (offsetAt 249).cc.offset < 50 * (offsetAt 249).osm.number ∧ offsetWithShed.DriverSettled ∧
    50 * offsetWithShed.osm.number ≤ offsetWithShed.cc.offset ∧
    (after .restorationOffsetExpiry offsetWithShed).osm.op = offsetWithShed.osm.op ∧
    restoring.cc.cuts = [] ∧ restoring.runs 0 = true ∧
    restoring.cc.restRecord.find? (fun p => p.channel == 0) = some ⟨0, 1⟩ ∧
    restoring.cc.restRecord.find? (fun p => p.channel == 1) = none ∧
    offsetWithShed.onList 0 = true ∧ (offsetWithShed.chan 0).shedPos ≠ none := by
  unfold State.DriverSettled
  decide +kernel

/-- R127, R128: with a channel left on the list the phase is RESTORING, with none it is NONE; an abort gives the former
place back. -/
theorem test_restoration : (after .restorationOffsetExpiry offsetWithShed).cc.phase = .restoring ∧
    (after .restorationOffsetExpiry (offsetAt 250)).cc.phase = .none ∧
    ((restoring.putCuts [peerCut 7 .driver 9]).chan 0).shedPos = some 1 := by decide +kernel

/-- The five kinds of frame, each from the own number 5. -/
theorem test_wit_DuplicateIsFound : atWork.osm.op.receives = true ∧ atWork.isOwn 5 = true ∧
    (∀ p ∈ [(auxFrame 5, 0#3), (sent 5 (.cut 5 .driver 0), 1), (sent 5 (.release 5 .driver 0), 2),
      (sent 5 (.command 0 0 .patternOff), 3), (sent 5 (.pattern 5), 4)],
      p.1.kind = p.2 ∧ ((checkFrame p.1).map Received.station) = some 5) ∧
    atWork.bus.duplicate = false ∧ atWork.DriverSettled := by
  unfold State.DriverSettled
  decide +kernel

/-- Station 5 with the entry of station 15 in a state. -/
def peerAt (st : EntryState) (age phantom : Nat) : State :=
  atWork.setEntry 15 ⟨st, age, 20, phantom, noCauses, some (beaconOf .auxiliary 25)⟩

theorem test_wit_EntriesAge : (15 : Fin 16) ≠ 0 ∧ (peerAt .fresh 41 0).isOwn 15 = false ∧
    ((peerAt .fresh 41 0).entry 15).state = .fresh ∧
    2 * ((peerAt .fresh 41 0).entry 15).pe < ((peerAt .fresh 41 0).entry 15).age ∧
    5 * ((peerAt .stale 101 0).entry 15).pe < ((peerAt .stale 101 0).entry 15).age ∧
    ((peerAt .stale 101 0).entry 15).state = .stale ∧
    ((peerAt .phantom 301 0).entry 15).state = .phantom ∧ ((peerAt .phantom 301 0).entry 15).phantom = 0 ∧
    (peerAt .phantom 301 0).osm.role ≠ .console := by
  decide +kernel

/-- R7: at 2Pe an entry is FRESH still, and at 5Pe it is no phantom yet. -/
theorem test_age_at_limit : ((after (.entryStale 15) (peerAt .fresh 40 0)).entry 15).state = .fresh ∧
    ((after (.entryStale 15) (peerAt .fresh 41 0)).entry 15).state = .stale ∧
    ((after (.entryPhantom 15) (peerAt .stale 100 0)).entry 15).state = .stale := by decide +kernel

/-- A command of the console to a target. -/
def commandFrame (target : Nat) (k : CommandKind) : Frame := sent 7 (.command target 80 k)

theorem test_wit_CommandIsTaken : atWork.osm.op.receives = true ∧ (commandFrame 5 .patternOff).kind = 3 ∧
    checkFrame (commandFrame 5 .patternOff) = some (.command 7 7 5 (80#8).toNat .patternOff) ∧
    checkFrame (commandFrame 0 .patternOff) = some (.command 7 7 0 (80#8).toNat .patternOff) ∧
    checkFrame (commandFrame 4 .patternOff) = some (.command 7 7 4 (80#8).toNat .patternOff) ∧
    atWork.isOwn 7 = false ∧ atWork.isOwn 5 = true ∧ atWork.isOwn 4 = false ∧ CommandKind.patternOff.isPole = false ∧
    (commandFrame 0 .raisePoles).kind = 3 ∧
    checkFrame (commandFrame 0 .raisePoles) = some (.command 7 7 0 (80#8).toNat .raisePoles) ∧
    CommandKind.raisePoles.isPole = true ∧ atWork.osm.role ≠ .pole := by
  decide +kernel

theorem test_wit_RaiseIsJudged : (∀ ab ∈ [(PoleState.lockedOut, PoleState.stowed), (.lowering, .stowed),
      (.onWire, .suspect), (.stowed, .stowed), (.stowed, .onWire)],
      (poleStation ab.1 ab.2).osm.role = .pole ∧ (poleStation ab.1 ab.2).osm.op = .active) ∧
    atWork.osm.op.receives = true ∧ atWork.osm.role ≠ .pole ∧ (station .parked .pole 1).osm.op.receives = true ∧
    (station .parked .pole 1).osm.op ≠ .active := by decide +kernel

theorem test_wit_LowerIsJudged : (operating .lowerDrain .onWire .onWire).pwu.operation = .lowerDrain ∧
    (operating .raise .raising .seeking).pwu.operation = .raise ∧ (operating .none .onWire .suspect).bothUp = true ∧
    (operating .none .onWire .suspect).osm.op = .active ∧ (operating .none .onWire .suspect).osm.role = .pole ∧
    (operating .none .onWire .suspect).drainComplete = true ∧ atWork.osm.role ≠ .pole ∧
    atWork.osm.op.receives = true := by decide +kernel

theorem test_wit_LockoutIsCleared : (poleStation .lockedOut .lockedOut).standstill = true ∧
    (withPoles .lockedOut .stowed (station .active .pole 1)).standstill = false ∧ 3 ≤ (3#8).toNat ∧ ¬ 3 ≤ (2#8).toNat ∧
    (poleStation .lockedOut .lockedOut).osm.op = .active ∧ (poleStation .lockedOut .lockedOut).osm.role = .pole := by
  decide +kernel

theorem test_wit_AlarmsAreAcknowledged : atWork.osm.op.receives = true ∧ alarmKindOfCode (4#8).toNat = some .bounce ∧
    (∃ e ∈ (fullAlarms true .activeUnack).au.entries,
      (fullAlarms true .activeUnack).isOwnKey .bounce 7 e = true ∧ e.count ≠ 2) ∧
    (fullAlarms true .activeUnack).Calm ∧ (station .faulted .auxiliary 5).Calm := by
  unfold State.Calm State.DriverSettled State.LoadsSettled
  decide +kernel

/-- R168: a record whose count differs is stale and moves no entry; one that agrees acknowledges it. -/
theorem test_ack : (after (.ackAlarms 9 [⟨4, 0, 2⟩]) (someAlarms 1 0 false .activeUnack)).bus.lastResult = some (9, 5) ∧
    ((after (.ackAlarms 9 [⟨4, 0, 1⟩]) (someAlarms 1 0 false .activeUnack)).au.entries.map AlarmEntry.state) =
      [.activeAck] := by decide +kernel

/-- The answers of R190 in turn: a state not ACTIVE, a draw, a cut, poles up, a vehicle that moves, and DONE. -/
theorem test_wit_PatternModeBeginsAndEnds : (station .pattern .auxiliary 5).osm.op.receives = true ∧
    (stopped atWork).osm.op = .active ∧ (stopped atWork).ae.draw = 0 ∧ (stopped atWork).cc.cuts = [] ∧
    (stopped atWork).osm.role ≠ .pole ∧ (stopped atWork).standstill = true ∧ (stopped atWork).keyOn = true ∧
    (stopped atWork).osm.number ≠ (stopped atWork).settings.consoleStation ∧ (stopped atWork).osm.number ≠ 0 ∧
    atWork.standstill = false ∧
    (drawing 1 1).ae.draw ≠ 0 ∧ fullState.cc.cuts ≠ [] := by decide +kernel

/-- Station 5 at work with a periodic event due. -/
def eventDue (busy : Option CompKind) : State := atWork.withAe { atWork.ae with due := 20, computing := busy }

theorem test_wit_PeriodicEventStarts : (eventDue none).osm.op.composes = true ∧
    (eventDue none).periodInForce ≤ (eventDue none).ae.due ∧ (eventDue none).ae.computing = none ∧
    (eventDue (some .unscheduled)).ae.computing ≠ none := by decide +kernel

/-- A computation that lowers the draw, one that raises it, one that may not, and one under a cut; one at the traction
station; periodic ones in ACTIVE, in FAULTED and in PATTERN. -/
theorem test_wit_ComputationEnds :
    (∀ s ∈ [computing 100 40 .periodic, computing 100 200 .periodic, computing 100 200 .unscheduled],
      s.ae.computing ≠ none ∧ s.computesZero = false ∧ s.DriverSettled ∧ (s.osm.op = .parked → s.keyOn = false) ∧
      s.osm.number ≠ 0) ∧
    (computing 100 200 .periodic).increaseAllowed (computing 100 200 .periodic).ae.snapshot = true ∧
    (withCuts fullCuts (computing 100 200 .periodic)).computesZero = true ∧
    (computing 100 200 .periodic).cc.phase ≠ .offset ∧
    ((computing 0 0 .periodic).withOsm ⟨.active, .traction, 5, 0, 0, 0⟩).computesZero = false ∧
    (computing 0 0 .periodic).osm.op.alarmsTaken = true ∧ (withCuts fullCuts (computing 100 200 .periodic)).forced = true ∧
    (withCuts fullCuts (computing 100 200 .periodic)).DriverSettled ∧
    ((computing 0 0 .periodic).withOsm ⟨.faulted, .auxiliary, 5, 0, 0, 0⟩).ae.computing = some .periodic ∧
    ((computing 0 0 .periodic).withOsm ⟨.pattern, .auxiliary, 5, 0, 0, 0⟩).ae.computing = some .periodic := by
  unfold State.DriverSettled
  decide +kernel

/-- R40, R41: the draw falls to its grant at once, rises by K, and does not rise at an unscheduled computation. -/
theorem test_ramp : (after .allotmentComputationEnd (computing 100 40 .periodic)).ae.draw = 40 ∧
    (after .allotmentComputationEnd (computing 100 110 .periodic)).ae.draw = 110 ∧
    (after .allotmentComputationEnd (computing 100 200 .unscheduled)).ae.draw = 100 := by decide +kernel

/-- A peer whose entry holds claims, an applied draw of 30 A and an S of 40 A. -/
def claimingPeer (n : Nat) (e : EntryState) (p : Part) (s : State) : State := s.setEntry n ⟨e, 0, 20, 0, noCauses,
  some { beaconOf p 30 with sink := 40, claims := [⟨1, 50, 10⟩, ⟨2, 0, 0⟩, ⟨3, 20, 0⟩] }⟩

/-- R12, R31, R51, R54: of a FRESH peer the claims with a demand count, under their indices, of a STALE or PHANTOM one its applied
draw; B leaves the traction station out; ΣS counts the FRESH peers alone. -/
theorem test_counting :
    let s := claimingPeer 4 .fresh .auxiliary (claimingPeer 6 .stale .auxiliary (claimingPeer 9 .phantom .auxiliary
      (claimingPeer 10 .empty .auxiliary (claimingPeer 2 .fresh (.traction 0) atWork))))
    let t := after .allotmentComputationEnd (s.startComputation .periodic)
    t.ae.grants.map Granted.counted = [⟨2, 0, ⟨1, 50, 10⟩⟩, ⟨2, 2, ⟨3, 20, 0⟩⟩, ⟨4, 0, ⟨1, 50, 10⟩⟩, ⟨4, 2, ⟨3, 20, 0⟩⟩,
      ⟨6, 0, ⟨0, 30, 30⟩⟩, ⟨9, 0, ⟨0, 30, 30⟩⟩] ∧ t.ae.absorption = 90 ∧ t.ae.sinkTotal = 80 ∧
    t.ae.shares.map (fun k => (k.station, k.capacity)) = [(2, 40), (4, 40)] := by decide +kernel

/-- Station 5 at work with channel 0 OFF, MODULATED and sink-capable at 100 A, and a standing share. -/
def sinking (share : Nat) : State :=
  let s := onWire atWork
  let r := { absentRecord 0 with present := true, kind := .modulated, sink := true, rated := 100 }
  let t := s.withSettings { s.settings with chans := s.settings.chans.set 0 r }
  t.withAe { t.ae with share := share }

/-- R61: a part of 30 A of 100 A is a sink duty of 3/8; the part ends at the capacity. -/
theorem test_share_placed : (((sinking 30).placeShare).chan 0).placed = 30 ∧
    (((sinking 30).placeShare).chan 0).sinkDuty = 3 ∧ (((sinking 130).placeShare).chan 0).placed = 100 ∧
    (((sinking 130).placeShare).chan 0).sinkDuty = 8 := by decide +kernel

theorem test_wit_SinkSharesOfExcess_placed : (computing 100 200 .periodic).ae.computing = some .periodic ∧
    (computing 100 200 .periodic).PlacedOk ∧
    (after .allotmentComputationEnd (computing 100 200 .periodic)).osm.op = .active := by
  unfold State.PlacedOk
  decide +kernel

/-- The console with the check record of station 15 open, its silence timer at a value. -/
def silent (k : Nat) : State :=
  (heardFrom 15 .auxiliary (station .active .console 7)).setCheck 15 ⟨true, k, false⟩

theorem test_wit_PatternSilence : (15 : Fin 16) ≠ 0 ∧ (silent 100).silenceDue 15 = true ∧
    (silent 99).silenceDue 15 = false := by decide +kernel

/-- The console, which holds an entry of station 15 in a state at an age. -/
def holding (e : EntryState) (age : Nat) : State :=
  (station .active .console 7).setEntry 15 ⟨e, age, 20, 0, noCauses, some (beaconOf .auxiliary 0)⟩

theorem test_wit_PatternSilence_frames : (silent 100).osm.role = .console ∧ (silent 100).osm.op.serves = true ∧
    (silent 100).isOwn 15 = false ∧ (sent 15 (.pattern 15)).kind = 4 ∧
    checkFrame (sent 15 (.pattern 15)) = some (.pattern 15 (patternBytes 15)) ∧
    checkFrame (makeFrame 3 15 4 (patternBytes 14)) = some (.pattern 15 (patternBytes 14)) ∧
    checkFrame (sent 15 (.beacon (beaconOf .auxiliary 0))) = some (.beacon 15 (beaconOf .auxiliary 0)) ∧
    checkFrame (sent 15 (.beacon { beaconOf .auxiliary 0 with pattern := true })) =
      some (.beacon 15 { beaconOf .auxiliary 0 with pattern := true }) ∧
    ((silent 100).check 15).opened = true ∧ ((holding .fresh 0).check 15).opened = false ∧
    5 * ((holding .stale 101).entry 15).pe < ((holding .stale 101).entry 15).age ∧
    ((holding .phantom 101).entry 15).state = .phantom ∧ ((holding .phantom 101).entry 15).phantom = 0 := by decide +kernel

/-- R193: a pattern of another number is a mismatch, one of the own number is not; R178: the loss of station 15. -/
theorem test_pattern_check :
    (after (.patternReceived (makeFrame 3 15 4 (patternBytes 14))) (silent 100)).inForce .patternError 15 = true ∧
    (after (.patternReceived (sent 15 (.pattern 15))) (silent 100)).inForce .patternError 15 = false ∧
    (after (.entryPhantom 15) (holding .stale 101)).inForce .stationLost 15 = true := by decide +kernel

/-- The pole station in a raise, both timers at their bounds. -/
def lateRaise : State :=
  let s := operating .raise .raising .seeking
  s.withPwu { s.pwu with raiseTimer := 8000, pos := { s.pwu.pos with timer := 1000 } }

theorem test_wit_RaiseIsAbandoned : lateRaise.polesRun = true ∧ (lateRaise.pole .pos).state = .raising ∧
    1000 ≤ (lateRaise.pole .pos).timer ∧ lateRaise.pwu.operation = .raise ∧
    lateRaise.settings.traise ≤ lateRaise.pwu.raiseTimer ∧ (lateRaise.pole .neg).state.rising = true := by
  decide +kernel

/-- The pole station on the wire 100 ms after a change of source, with the SOURCE_CHANGE cut. -/
def sourceAt (k : Nat) : State :=
  let s := poleLine .live .wire
  withCuts [⟨1, .sourceChange, 0, true⟩] (s.withPwu { s.pwu with sourceTimer := some k })

/-- The pole station at the end of a drain. -/
def drained : State :=
  let s := operating .lowerDrain .onWire .suspect
  s.withPwu { s.pwu with drainTimer := 200, line := .live, source := .wire }

theorem test_wit_DrainAndSourceChangeEnd : (sourceAt 100).polesRun = true ∧ (sourceAt 100).sourceDue = true ∧
    (sourceAt 99).sourceDue = false ∧ (sourceAt 100).sourceMode = (sourceAt 100).pwu.source ∧
    (sourceAt 100).bothUp = true ∧ drained.polesRun = true ∧ drained.pwu.operation = .lowerDrain ∧
    200 ≤ drained.pwu.drainTimer ∧ drained.bothUp = true := by decide +kernel

/-- The pole station in a gap of Tgap. -/
def longGap : State :=
  let s := poleLine .gap .gap
  s.withPwu { s.pwu with gapTimer := 1500 }

/-- The pole station with a pole that falls for Tretrieve. -/
def longFall : State :=
  let s := poleStation .lowering .retrieving
  s.withPwu { s.pwu with pos := { s.pwu.pos with timer := 2000 }, neg := { s.pwu.neg with timer := 2000 } }

theorem test_wit_RetrieveFailsAndLineIsLost : longFall.polesRun = true ∧
    (∀ p ∈ bothPoles, (longFall.pole p).state.falling = true ∧ longFall.settings.tretrieve ≤ (longFall.pole p).timer) ∧
    longGap.polesRun = true ∧ longGap.bothUp = true ∧ longGap.pwu.line = .gap ∧
    longGap.settings.tgap ≤ longGap.pwu.gapTimer := by decide +kernel

/-- The pole station on the wire for the forgiveness period. -/
def forgiven : State :=
  let s := poleLine .live .wire
  s.withPwu { s.pwu with pos := { s.pwu.pos with count := 3, forgive := 600000 } }

theorem test_wit_CountsAreForgiven : forgiven.polesRun = true ∧ (forgiven.pole .pos).state = .onWire ∧
    600000 ≤ (forgiven.pole .pos).forgive := by decide +kernel

/-- The pole station on the wire at a due time of the tracking clock, its heights beside the mean. -/
def tracking (c : Nat) : State :=
  let s := poleLine .live .wire
  s.withPwu { s.pwu with trackClock := some c
                         sampled := true
                         pos := { s.pwu.pos with height := 300, samples := List.replicate 16 301 } }

/-- R97: the wire-height reference follows the mean of 16 samples by one unit, and not before the due time. -/
theorem test_tracking : ((after .trackingStep (tracking 16)).pole .pos).height = 301 ∧
    ((after .trackingStep (tracking 15)).pole .pos).height = 300 := by decide +kernel

/-- The pole station with a pole in SUSPECT at the end of its window; an elevation reading for both poles. -/
def suspectAt (elevation : BitVec 10) : State :=
  let s := poleStation .suspect .onWire
  let t := s.withPwu { s.pwu with line := .live, source := .wire, pos := { s.pwu.pos with suspect := 80, height := 300 } }
  withCuts [⟨1, .suspectPos, 0, true⟩]
    (t.withSu { t.su with ain := ⟨700, elevation, 300, 512, 512, 0, 0, 0⟩ })

theorem test_wit_SuspectWindowEnds : (suspectAt 360).polesRun = true ∧ ((suspectAt 360).pole .pos).state = .suspect ∧
    (suspectAt 360).settings.tbounce ≤ ((suspectAt 360).pole .pos).suspect ∧ (suspectAt 360).inWindowOf .pos = true ∧
    (suspectAt 361).inWindowOf .pos = false := by decide +kernel

theorem test_wit_ChannelTimers :
    (∀ s ∈ [withChannel .starting true 200 60000, withChannel .on false 0 60000, withChannel .waiting false 0 0],
      s.Working ∧ s.DriverSettled ∧ s.LoadsSettled ∧ (s.record 0).present = true) ∧
    200 ≤ ((withChannel .starting true 200 60000).chan 0).minOn ∧
    ((withChannel .on false 0 60000).record 0).minOnMs ≤ ((withChannel .on false 0 60000).chan 0).minOn ∧
    ((withChannel .waiting false 0 0).record 0).minOffMs ≤ ((withChannel .waiting false 0 0).chan 0).minOff := by
  unfold State.Working State.DriverSettled State.LoadsSettled
  decide +kernel

/-- The same for the requests: a compressor's sample, and an input that feeds a channel of each kind. -/
theorem test_wit_ChannelTimers_requests : compressor.osm.op = .active ∧ (compressor.record 0).present = true ∧
    (compressor.record 0).kind = .switched ∧ (compressor.record 0).source = .pressure ∧
    (after (.analogSample (flatSample 499)) compressor).osm.op = .active ∧
    (withChannel .off false 0 0).din 2 ≠ true ∧ ((withChannel .off false 0 0).record 0).present = true ∧
    ((withChannel .off false 0 0).record 0).input = 2 ∧ ((withChannel .off false 0 0).record 0).source = .din ∧
    (after (.digitalInputChange 2 true) (withChannel .off false 0 0)).osm.op = .active := by decide +kernel

/-- Station 5 with the start-spacing timer at its end, in a phase. -/
def spaced (p : Phase) : State :=
  let s := atWork.withLcm { atWork.lcm with spacingRuns := true, spacing := 200 }
  s.withCc { s.cc with phase := p }

theorem test_wit_TrackingStep : (tracking 16).pwu.trackClock = some 16 ∧ (tracking 15).pwu.trackClock = some 15 ∧
    (tracking 16).pwu.sampled = true ∧ ((tracking 16).withPwu (tracking 16).pwu.tickTrack).pwu.sampled = false ∧
    ((after .trackingStep ((tracking 15).withPwu (tracking 15).pwu.tickTrack)).pole .pos).state = .onWire ∧
    (after .trackingStep ((tracking 15).withPwu (tracking 15).pwu.tickTrack)).pwu.trackWaits = true ∧
    ((atWork.setChan 3 { resetChannel with cyclePending := true }).chan 3).cyclePending = true ∧
    ((atWork.setChan 3 { resetChannel with cyclePending := true }).chan 3).cycle = 0 ∧
    (spaced .none).lcm.spacingRuns = true ∧ 200 ≤ (spaced .none).lcm.spacing ∧ (spaced .offset).cc.phase = .offset ∧
    (spaced .offset).DriverSettled ∧ (spaced .none).CutsOk ∧ (spaced .none).DriverSettled ∧
    (after .startSpacingExpiry (spaced .none)).osm.op = (spaced .none).osm.op := by
  unfold State.DriverSettled State.CutsOk
  decide +kernel

/-- R145: a channel that fits starts as the spacing ends, and the timer runs anew. -/
theorem test_spacing_starts :
    let s := withChannel .shed true 0 60000
    let t := after .startSpacingExpiry ((s.withAe { s.ae with draw := 400 }).withLcm
      { s.lcm with spacingRuns := true, spacing := 200 })
    (t.chan 0).state = .starting ∧ t.lcm.spacingRuns = true ∧ t.lcm.spacing = 0 := by decide +kernel

/-- Station 5 at work, its array evaluated and its pins driven. -/
def settledStation : State :=
  let s := atWork.withIa atWork.evaluated
  s.withOut s.driveOutputs

theorem test_wit_StepKeepsInterlockAndOutputs : (settledStation.withPending [.digitalInputChange 2 true]).PlacedOk ∧
    (settledStation.withPending [.digitalInputChange 2 true]).ActiveOk ∧
    (settledStation.withPending [.digitalInputChange 2 true]).InterlockOk ∧
    (settledStation.withPending [.digitalInputChange 2 true]).OutOk ∧
    ∃ t, step (settledStation.withPending [.digitalInputChange 2 true]) = .next t := by
  refine ⟨by unfold State.PlacedOk; decide +kernel, by unfold State.ActiveOk; decide +kernel, fun _ => ⟨fun b _ hb => ?_,
    by decide +kernel, by decide +kernel, by decide +kernel, by decide +kernel⟩,
    ⟨fun n hn => by rw [show n = 0 from (hn.2 (by decide +kernel)).trans (by decide +kernel)]; decide +kernel,
      by unfold State.PullOn; decide +kernel, by unfold State.PullOn; decide +kernel,
      by unfold State.ChannelOn; decide +kernel, by unfold State.LampOn; decide +kernel,
      by unfold State.LampOn; decide +kernel, by decide +kernel, by decide +kernel, by decide +kernel⟩, ⟨_, step_is_next _ _⟩⟩
  have h : ((settledStation.withPending [.digitalInputChange 2 true]).entry 5).beacon = none := by decide +kernel
  rw [show (settledStation.withPending [.digitalInputChange 2 true]).osm.number = 5 from rfl] at hb
  rw [h] at hb
  cases hb

/-- The pole station with both poles up and channel 0 in a state, its inhibit on while two signals hold as given. -/
def watched (l : LineState) (m : SourceMode) (st : ChannelState) (a b : Literal) : State :=
  let s := withKey (poleLine l m)
  let o : Inhibits := ⟨false, true, false, false, false⟩
  let t := s.withSettings { s.settings with chans := s.settings.chans.set 0 (switchedRecord 0), terms := s.settings.terms.set 0 ⟨[a, b], o⟩ }
  t.setChan 0 { resetChannel with state := st }

/-- R158: DIN0 takes a pole out of its window: DIN0 is evaluated before its SUSPECT cut is, so the term DIN0 and not ANY_CUT is
true for one evaluation; the return of the line is evaluated before its SECTION cut goes, so is SOURCE_WIRE and ANY_CUT. -/
theorem test_evaluations_of_a_step :
    let s := watched .live .wire .on ⟨0, false⟩ ⟨8, true⟩
    let t := after (.digitalInputChange 0 true) s
    let g := withCuts [⟨1, .section_, 0, true⟩] (watched .gap .gap .shed ⟨9, false⟩ ⟨8, false⟩)
    let u := after (.analogSample (poleSample 512 0 0)) g
    t.cc.phase = .held ∧ (t.chan 0).state = .off ∧ t.ia.outputs = noInhibits ∧
    u.cc.phase = .offset ∧ (u.chan 0).state = .off ∧ u.ia.outputs = noInhibits := by decide +kernel

/-- R89, R90: the voltage returns at the sample at which a pole in SUSPECT returns in DESCENT. The line state goes from OUT by LIVE to
OPEN and the source mode from BATTERY by WIRE to BATTERY: the SOURCE_CHANGE cut is held, and SOURCE_WIRE is true for one evaluation.
Below Vpresent the line state goes from OUT to OPEN and BATTERY stands. -/
theorem test_source_passes_through_wire :
    let s := heardFrom 3 (.battery 100 0) (withPoles .suspect .suspect (watched .out .battery .shed ⟨9, false⟩ ⟨9, false⟩))
    let t := s.withPwu { s.pwu with operation := .lowerDescent }
    let u := after (.analogSample (poleSample 512 0 0)) t
    let v := after (.analogSample (poleSample 399 0 0)) t
    u.pwu.line = .isOpen ∧ u.pwu.source = .battery ∧ u.pwu.sourceTimer = some 0 ∧ u.holdsCut .sourceChange = true ∧
    (u.chan 0).state = .off ∧ u.ia.outputs = noInhibits ∧
    v.pwu.line = .isOpen ∧ v.pwu.source = .battery ∧ v.pwu.sourceTimer = none ∧ (v.chan 0).state = .shed := by decide +kernel

/-- R158: a beacon that changes the source mode and the cuts together is one evaluation, so SOURCE_WIRE and ANY_CUT is never true
as a cut goes with the return of the wire, or comes as the wire goes. -/
theorem test_one_beacon_one_evaluation :
    let o : Inhibits := ⟨false, true, false, false, false⟩
    let part := fun (l : LineState) (m : SourceMode) => Part.pole ⟨530, .onWire, 0, .onWire, 0, l, m⟩
    let s := fun st => let s := withChannel st true 0 0
      s.withSettings { s.settings with terms := s.settings.terms.set 0 ⟨[⟨9, false⟩, ⟨8, false⟩], o⟩ }
    let f := fun l m cs => sent 1 (.beacon { beaconOf (part l m) 0 with cuts := cs })
    let back := after (.beaconReceived (f .live .wire [])) (withCuts [⟨1, .section_, 0, false⟩] (heardFrom 1 (part .gap .gap) (s .shed)))
    let gone := after (.beaconReceived (f .gap .gap [⟨.section_, 0⟩])) (s .on)
    back.cc.phase = .offset ∧ (back.chan 0).state = .shed ∧ back.ia.outputs = noInhibits ∧
    gone.cc.phase = .held ∧ (gone.chan 0).state = .shed ∧ gone.ia.outputs = noInhibits := by decide +kernel

/-- R147: a channel whose min-on clock has reached its min-on of 1 s has SHORT_CYCLE cleared, though its request ends, or a cut
stops it, before MIN_ON_ELAPSED is taken in that millisecond; 1 ms earlier the condition stands. -/
theorem test_short_cycle_clears_at_min_on :
    let s := fun n => let s := withChannel .on true n 0
      let t := s.withSettings { s.settings with chans := s.settings.chans.set 0 { switchedRecord 0 with minOn := 1 } }
      (t.withAu { t.au with inForce := [(.shortCycle, 0)] }).withAe { t.ae with draw := 400 }
    let cut := Instr.cutReceived (sent 1 (.cut 1 .section_ 0))
    let off := Instr.digitalInputChange 2 false
    ((after off (s 1000)).chan 0).state = .waiting ∧ (after off (s 1000)).inForce .shortCycle 0 = false ∧
    ((after off (s 999)).chan 0).state = .on ∧ (after off (s 999)).inForce .shortCycle 0 = true ∧
    ((after cut (s 1000)).chan 0).state = .shed ∧ (after cut (s 1000)).inForce .shortCycle 0 = false ∧
    ((after cut (s 999)).chan 0).state = .shed ∧ (after cut (s 999)).inForce .shortCycle 0 = true := by decide +kernel

/-- The console with its carrier clock, flash clock and tail at their ends. -/
def clocksDue : State :=
  let s := station .active .console 7
  (s.withLcm { s.lcm with carrierOn := true, slotClock := 125, slot := 7 }).withCf
    { s.cf with flashRuns := true, flashClock := 500, special := true, tail := some 2000 }

theorem test_wit_ClockPhases : clocksDue.lcm.carrierOn = true ∧ 125 ≤ clocksDue.lcm.slotClock ∧
    clocksDue.cf.flashRuns = true ∧ 500 ≤ clocksDue.cf.flashClock ∧ clocksDue.osm.op.serves = true ∧
    clocksDue.cf.tail = some 2000 ∧ (clocksDue.withOsm ⟨.faulted, .console, 7, 0, 0, 0⟩).osm.op = .faulted := by decide +kernel

/-- Station 5 with a frame waiting, or driven, in a slot. -/
def queued (m : Message) : State := atWork.withBus { atWork.bus with beaconSlot := some m }

/-- Station 5 with frames waiting in the urgent and the command slots, numbered from 0. -/
def waitingFrames (u c : Nat) : State := atWork.withBus { atWork.bus with
  urgentSlots := (List.range u).map (fun k => .cut 5 .driver k)
  commandSlots := (List.range c).map (fun k => .command 1 k .raisePoles) }

/-- Station 5 driving a frame from a slot. -/
def driving (k : Slot) (m : Message) : State := atWork.withBus { atWork.bus with sending := some ⟨k, m, sent 5 m, false, none⟩ }

theorem test_wit_FramesAreSent : (queued (.pattern 5)).osm.op.composes = true ∧ (queued (.pattern 5)).osm.number ≠ 0 ∧
    (queued (.pattern 5)).bus.sending = none ∧ (queued (.pattern 5)).bus.beaconSlot = some (.pattern 5) ∧
    (queued (.pattern 5)).bus.urgentSlots = [] ∧ (queued (.pattern 5)).bus.commandSlots = [] ∧
    (queued (.beacon (beaconOf .auxiliary 0))).bus.beaconSlot = some (.beacon (beaconOf .auxiliary 0)) ∧
    (waitingFrames 2 3).bus.urgentSlots = .cut 5 .driver 0 :: [.cut 5 .driver 1] ∧
    (waitingFrames 0 3).bus.urgentSlots = [] ∧
    (waitingFrames 0 3).bus.commandSlots = .command 1 0 .raisePoles :: [.command 1 1 .raisePoles, .command 1 2 .raisePoles] ∧
    (driving .urgent (.cut 5 .driver 0)).osm.op ≠ .dormant ∧
    (∀ k ∈ [Slot.urgent, .command, .beacon], (driving k (.pattern 5)).bus.sending =
      some ⟨k, .pattern 5, sent 5 (.pattern 5), false, none⟩) ∧
    ((driving .urgent (.cut 5 .driver 0)).withOsm ⟨.dormant, .auxiliary, 5, 0, 0, 0⟩).bus.sending ≠ none ∧
    (waitingFrames 2 3).QueuesOk ∧ (waitingFrames 2 3).bus.urgentSlots.length = 2 ∧ fullQueues.QueuesOk := by
  unfold State.QueuesOk
  decide +kernel

/-- R183: a third urgent frame while one is driven takes the place of the one that waits, if the driven one completes; if it
was still in arbitration, its own place is taken and the other stays. -/
theorem test_third_urgent :
    (after .transmitComplete (fullQueues.pushUrgent (.cut 5 .driver 9))).bus.urgentSlots = [.cut 5 .driver 9] ∧
    (after .arbitrationLost (fullQueues.pushUrgent (.cut 5 .driver 9))).bus.urgentSlots =
      [.cut 5 .driver 0, .cut 5 .driver 9] := by decide +kernel

theorem test_wit_PortIsRead : atWork.osm.op ≠ .dormant ∧ (station .dormant .auxiliary 5).osm.op = .dormant := by
  decide +kernel

theorem test_wit_PageIsWritten : atWork.osm.op ≠ .maintenance ∧ (midWrite 4).osm.op = .maintenance ∧
    (midWrite 4).cs.write ≠ none ∧ (station .maintenance .auxiliary 5).cs.write = none ∧
    (midWrite 5).cs.write = some ⟨3, Vector.replicate 16 7, 5⟩ ∧ (midWrite 5).cs.image.wf = true ∧
    (midWrite 4).cs.write = some ⟨3, Vector.replicate 16 7, 4⟩ ∧
    (State.reset.withCs { State.reset.cs with mark := true }).osm.op = .loading ∧ (straps 1 5).cfgEn = false := by
  decide +kernel

theorem test_wit_AdmissionFits : State.reset.admission.ae.draw = 0 ∧ (drawing 400 400).admission.ae.draw = 400 ∧
    State.reset.osm.op.alarmsTaken = false ∧ (drawing 400 400).osm.op.alarmsTaken = true := by
  decide +kernel

/-- Channel 0 asking to run in a state, with 400 A applied and a phase. -/
def ready (st : ChannelState) (p : Phase) : State :=
  let s := withChannel st true 0 60000
  ((s.withAe { s.ae with draw := 400 }).withLcm { s.lcm with spacing := 200 }).withCc { s.cc with phase := p }

/-- A channel that can start, from the shed list and from OFF; none can where its min-off runs. -/
theorem test_wit_AdmissionFits_starts :
    (∀ s ∈ [ready .shed .none, ready .off .none, ready .off .held, ready .off .offset, drawing 400 400],
      s.load ≤ s.ae.draw ∧ 0 < s.ae.draw) ∧
    (ready .shed .none).shedOrder = [] ++ 0 :: [] ∧ (ready .shed .none).CanStart 0 ∧
    (ready .off .none).byPriority = [] ++ 0 :: [] ∧ (ready .off .none).CanStart 0 ∧
    (∀ d, (ready .off .none).onList d ≠ true) ∧
    (∀ c, ¬ (drawing 400 400).CanStart c) ∧
    (∃ c, (withChannel .on true 0 0).runs c = true ∧ (withChannel .on true 0 0).admission.runs c = false) := by
  unfold State.CanStart
  decide +kernel

/-- The premises of the step lemma together, at a state from which a channel starts. -/
theorem test_wit_AdmissionFits_step :
    let s := (ready .off .none).withIa (ready .off .none).evaluated
    s.PlacedOk ∧ s.ForcedOk ∧ s.ActiveOk ∧ s.CutsOk ∧ s.LoadsOk ∧ s.DriverSettled := by
  unfold State.PlacedOk State.ForcedOk State.ActiveOk State.CutsOk State.LoadsOk State.DriverSettled
  decide +kernel

theorem test_wit_AdmissionFits_interlock : ((ready .off .none).withIa (ready .off .none).evaluated).InterlockOk := by
  refine fun _ => ⟨fun b _ hb => ?_, by decide +kernel, by decide +kernel, by decide +kernel, by decide +kernel⟩
  have h : (((ready .off .none).withIa (ready .off .none).evaluated).entry 5).beacon = none := by decide +kernel
  rw [show ((ready .off .none).withIa (ready .off .none).evaluated).osm.number = 5 from rfl] at hb
  rw [h] at hb
  cases hb

/-- R147: reduction sheds a channel of 20 A within its min-on of 1 s against an applied draw of 10 A, and SHORT_CYCLE is in force;
at its min-on, or against an applied draw of 0, it is not. -/
theorem test_short_cycle_is_raised :
    let s := fun n d => let s := withChannel .on true n 0
      let t := s.withSettings { s.settings with
        chans := s.settings.chans.set 0 { switchedRecord 0 with minOn := 1, rated := 20 } }
      t.withAe { t.ae with draw := d }
    ((s 999 10).admission.chan 0).state = .shed ∧ (s 999 10).admission.inForce .shortCycle 0 = true ∧
    ((s 1000 10).admission.chan 0).state = .shed ∧ (s 1000 10).admission.inForce .shortCycle 0 = false ∧
    ((s 999 0).admission.chan 0).state = .shed ∧ (s 999 0).admission.inForce .shortCycle 0 = false := by decide +kernel

/-- R142, Table 7-4 at 1500 ms: the min-off of 0 of a channel just shed starts nothing by itself. -/
theorem test_min_off_zero :
    let s := ready .shed .none
    let t := s.withSettings { s.settings with chans := s.settings.chans.set 0 { switchedRecord 0 with minOff := 0 } }
    ((after (.minOffElapsed 0) t).chan 0).state = .shed := by decide +kernel

theorem test_wit_AlarmRaiseAndClear :
    (∃ e ∈ (someAlarms 1 0 false .activeAck).au.entries, (someAlarms 1 0 false .activeAck).isOwnKey .bounce 0 e = true) ∧
    (∀ s ∈ [someAlarms 7 8 false .activeAck, someAlarms 7 9 false .activeAck, someAlarms 8 8 false .clearedUnack,
      someAlarms 8 0 false .activeAck, someAlarms 8 8 true .clearedUnack],
      ∀ e ∈ s.au.entries, s.isOwnKey .poleDrop 1 e = false) ∧
    (someAlarms 7 8 false .activeAck).au.entries.length < 16 ∧
    16 ≤ (someAlarms 7 9 false .activeAck).au.entries.length ∧
    ((someAlarms 7 9 false .activeAck).au.entries.filter (someAlarms 7 9 false .activeAck).ownAlarm).length < 8 ∧
    8 ≤ ((someAlarms 8 0 false .activeAck).au.entries.filter (someAlarms 8 0 false .activeAck).ownAlarm).length := by
  decide +kernel

theorem test_wit_AlarmRaiseAndClear_drop : (someAlarms 3 8 false .activeAck).osm.op.alarmsTaken = true ∧
    (someAlarms 3 8 false .activeAck).AlarmsOk ∧
    (∃ e ∈ ((someAlarms 3 8 false .activeAck).raiseDrop .pos).au.entries,
      ((someAlarms 3 8 false .activeAck).raiseDrop .pos).isOwnKey .poleDrop (poleCode .pos) e = true) ∧
    ((someAlarms 3 8 false .activeAck).raiseDrop .pos).AlarmsOk ∧
    ∃ x ∈ ((someAlarms 3 8 false .activeAck).raiseDrop .pos).au.entries,
      ((someAlarms 3 8 false .activeAck).raiseDrop .pos).isOwnKey .poleDrop (poleCode .pos) x = true ∧
      ((((someAlarms 3 8 false .activeAck).raiseDrop .pos).raiseDrop .pos).au.entries.any (fun e => e.count == 2)) = true := by
  unfold State.AlarmsOk
  decide +kernel

/-- R112, R168: a second dewirement of a pole whose entry stands counts it to 2, and an acknowledgement of count 1 cannot remove
it; an entry that was acknowledged and removed is created anew at count 1, with its next sequence number. -/
theorem test_drop_counts_on :
    let s := ((poleStation .stowed .stowed).dewire .pos).clearCond .poleDrop 1
    let u := s.ackOne .poleDrop 1 1
    (((s.dewire .pos).clearCond .poleDrop 1).ackOne .poleDrop 1 1).au.entries.map AlarmEntry.count = [2] ∧
    u.au.entries = [] ∧ (u.dewire .pos).au.entries.map (fun e => (e.count, e.sequence)) = [(1, 1)] ∧
    ((u.dewire .neg).dewire .pos).au.entries.map (fun e => (e.qualifier, e.count)) = [(2, 1), (1, 1)] := by decide +kernel

/-- R172: in a full table a critical mirrored entry takes the place of an advisory one, another advisory one is not created; the
flag clears at a removal to 12 entries and stands at 13. -/
theorem test_mirror_room :
    let full := someAlarms 7 9 false .activeAck
    let flagged := fun s : State => s.withAu { s.au with overflow := true }
    (full.au.entries.map AlarmEntry.severity).getLast? = some .advisory ∧
    ((full.createMirror { alarm 7 0 true .activeUnack with severity := .critical }).au.entries.map (fun e => e.source)).getLast? =
      some 7 ∧
    (full.createMirror (alarm 7 0 false .activeUnack)).au.overflow = true ∧
    ((flagged (someAlarms 1 12 false .activeAck)).clearOwn .bounce 0).au.overflow = false ∧
    ((flagged (someAlarms 1 13 false .activeAck)).clearOwn .bounce 0).au.overflow = true := by decide +kernel

/-- R166: with eight own latched entries a new one is not created and the overflow flag is set. -/
theorem test_no_room : ((someAlarms 8 0 true .clearedUnack).raiseOwn .lineLost 0).au.overflow = true ∧
    ((someAlarms 8 0 true .clearedUnack).raiseOwn .lineLost 0).au.entries.length = 8 := by decide +kernel

end Sys2Proof.Tests
end

/-! The stages of the grants of R36 to R38: what rounding the floors down loses, and that the class
stage takes nothing back from a floor. -/

namespace Sys2Proof.Machine

/-- A floor division by `d` loses at most `d - 1` over `d`, and nothing of 0. -/
theorem le_mul_div_add_of_ne_zero (u d f : Nat) (hd : 0 < d) :
    f * u ≤ d * (f * u / d) + if f = 0 then 0 else d - 1 := by
  have hdiv := Nat.div_add_mod (f * u) d
  have hmod := Nat.mod_lt (f * u) hd
  split
  · next h => simp [h]
  · omega

/-- R36: of the floor sum times the envelope the rounded grants lose less than one unit for each claim with a floor. -/
theorem floorSum_mul_le (u d : Nat) (hd : 0 < d) (cs : List CountedClaim) :
    floorSum cs * u ≤ d * ((floorGrants u d cs).map Granted.grant).sum +
      (d - 1) * (cs.filter (fun c => c.claim.floor != 0)).length := by
  induction cs with
  | nil => simp [floorSum]
  | cons c cs ih =>
    have hc := le_mul_div_add_of_ne_zero u d c.claim.floor hd
    simp only [floorSum, floorGrants, List.map_cons, List.sum_cons, List.filter_cons, Nat.add_mul, Nat.mul_add] at ih ⊢
    by_cases h0 : c.claim.floor = 0
    · simpa [h0] using ih
    · simp only [h0, if_false] at hc
      simp only [bne_iff_ne, ne_eq, h0, not_false_eq_true, if_true, List.length_cons, Nat.mul_succ]
      omega

/-- A floor sum above 0 comes from a claim with a floor. -/
theorem floorClaims_pos_of_floorSum_pos {cs : List CountedClaim} (h : 0 < floorSum cs) :
    0 < (cs.filter (fun c => c.claim.floor != 0)).length := by
  obtain ⟨f, hf, hpos⟩ := List.exists_mem_ne_zero_of_sum_ne_zero h.ne'
  obtain ⟨c, hc, rfl⟩ := List.mem_map.mp hf
  exact List.length_pos_of_mem (List.mem_filter.mpr ⟨hc, by simpa using hpos⟩)

/-- R36: what the proportional floors leave of the envelope is less than the number of claims with a floor. -/
theorem sub_floorGrants_lt (u : Nat) {cs : List CountedClaim} (h : 0 < floorSum cs) :
    u - ((floorGrants u (floorSum cs) cs).map Granted.grant).sum <
      (cs.filter (fun c => c.claim.floor != 0)).length := by
  have hn := floorClaims_pos_of_floorSum_pos h
  have hle := floorSum_mul_le u (floorSum cs) h cs
  generalize ((floorGrants u (floorSum cs) cs).map Granted.grant).sum = g at hle ⊢
  generalize (cs.filter (fun c => c.claim.floor != 0)).length = n at hn hle ⊢
  generalize floorSum cs = sf at h hle
  have hlt : sf * u < sf * (g + n) := calc
    sf * u ≤ sf * g + (sf - 1) * n := hle
    _ < sf * g + sf * n := Nat.add_lt_add_left (Nat.mul_lt_mul_of_pos_right (Nat.sub_lt h one_pos) hn) _
    _ = sf * (g + n) := (Nat.mul_add ..).symm
  have := Nat.lt_of_mul_lt_mul_left hlt
  omega

/-- Every claim of a list has its floor at least. -/
def FloorsMet (gs : List Granted) : Prop := ∀ g ∈ gs, g.counted.claim.floor ≤ g.grant

/-- A stage that only adds to grants keeps the floors. -/
theorem FloorsMet.map {gs : List Granted} (h : FloorsMet gs) {f : Granted → Granted}
    (hc : ∀ g, (f g).counted = g.counted) (hg : ∀ g, g.grant ≤ (f g).grant) : FloorsMet (gs.map f) := by
  intro _ hm
  obtain ⟨g, hmem, rfl⟩ := List.mem_map.mp hm
  rw [hc]
  exact (h g hmem).trans (hg g)

/-- R38: dealing the leftover keeps the floors. -/
theorem FloorsMet.dealLeftover (k : Nat) {gs : List Granted} (h : FloorsMet gs) (left : Nat) :
    FloorsMet (dealLeftover k left gs) := by
  induction gs generalizing left with
  | nil => exact h
  | cons g gs ih =>
    obtain ⟨hg, hgs⟩ := List.forall_mem_cons.mp h
    rw [Machine.dealLeftover]
    split
    · exact List.forall_mem_cons.mpr ⟨hg.trans (Nat.le_succ _), ih hgs _⟩
    · exact List.forall_mem_cons.mpr ⟨hg, ih hgs _⟩

/-- R37: sharing the remainder in one class keeps the floors, whether the class has its extras whole or in part. -/
theorem FloorsMet.classStage (k : Nat) {p : Nat × List Granted} (h : FloorsMet p.2) : FloorsMet (classStage k p).2 := by
  rw [Machine.classStage]
  split
  · exact h
  · split
    · exact h.map (fun g => by split <;> rfl) (fun g => by split <;> simp)
    · exact (h.map (fun g => by split <;> rfl) (fun g => by split <;> simp)).dealLeftover k _

/-- R37: the class stage starts from the floors and leaves each claim its own. -/
theorem classGrants_floorsMet (w : Nat) (cs : List CountedClaim) : FloorsMet (classGrants w cs) := by
  have hstart : FloorsMet (w, cs.map (fun c => Granted.mk c c.claim.floor)).2 := by
    intro _ hm
    obtain ⟨c, -, rfl⟩ := List.mem_map.mp hm
    exact le_rfl
  exact (((hstart.classStage 0).classStage 1).classStage 2).classStage 3

/-- R36: the envelope does not cover more than the floors. -/
theorem allot_of_le_floorSum {u : Nat} {cs : List CountedClaim} (h : u ≤ floorSum cs) :
    allot u cs = floorGrants u (floorSum cs) cs := if_pos h

/-- R37: the envelope covers the floors and the class stage shares the rest. -/
theorem allot_of_floorSum_lt {u : Nat} {cs : List CountedClaim} (h : floorSum cs < u) :
    allot u cs = classGrants (u - floorSum cs) cs := if_neg h.not_ge

/-- Settles O22: the two stages of `allot`, the first by what its rounding loses, the second by the floors it keeps. -/
theorem floorsAlone : Obligations.FloorsAlone := by
  intro u cs
  constructor
  · intro hle
    rw [allot_of_le_floorSum hle]
    refine ⟨rfl, ?_, sub_floorGrants_lt u⟩
    intro hzero g hg
    obtain ⟨c, -, rfl⟩ := List.mem_map.mp hg
    simp [hzero]
  · intro hlt
    rw [allot_of_floorSum_lt hlt]
    exact ⟨rfl, classGrants_floorsMet _ cs⟩

end Sys2Proof.Machine

/-! The line envelopes of R28 and R50 as one rounded slope, the range a settled field has, and
the usable envelopes of R27, R30 and R49 in each source mode. -/

namespace Sys2Proof.Machine

/-- The rounded-down slope both line envelopes follow: 0 at 0, the whole from the width `d` on, in proportion between. -/
def lineSlope (top d n : Nat) : Nat := top * min n d / d

theorem lineSlope_zero (top d : Nat) : lineSlope top d 0 = 0 := by simp [lineSlope]

theorem lineSlope_of_le (top : Nat) {d n : Nat} (h : n ≤ d) : lineSlope top d n = top * n / d := by
  rw [lineSlope, min_eq_left h]

theorem lineSlope_of_ge (top : Nat) {d n : Nat} (hd : 0 < d) (h : d ≤ n) : lineSlope top d n = top := by
  rw [lineSlope, min_eq_right h, Nat.mul_div_cancel _ hd]

theorem lineSlope_mono (top d : Nat) {m n : Nat} (h : m ≤ n) : lineSlope top d m ≤ lineSlope top d n :=
  Nat.div_le_div_right (Nat.mul_le_mul_left _ (min_le_min_right d h))

theorem lineSlope_le (top d n : Nat) : lineSlope top d n ≤ top :=
  Nat.div_le_of_le_mul (by rw [Nat.mul_comm d]; exact Nat.mul_le_mul_left _ (min_le_right n d))

theorem lineSlope_lt {top d n : Nat} (htop : 0 < top) (h : n < d) : lineSlope top d n < top := by
  rw [lineSlope_of_le top h.le]
  exact Nat.div_lt_of_lt_mul (by rw [Nat.mul_comm d]; exact Nat.mul_lt_mul_of_pos_left h htop)

/-- R28: the draw envelope is the slope of the voltage above the cut. -/
theorem lineDraw_eq_lineSlope {c : Settings} (h : c.vcutLow < c.vkneeLow) (v : Nat) :
    lineDraw c v = lineSlope c.imax (c.vkneeLow - c.vcutLow) (v - c.vcutLow) := by
  rw [lineDraw]
  split
  · exact (lineSlope_of_ge _ (by omega) (by omega)).symm
  · split
    · next hcut => rw [Nat.sub_eq_zero_of_le hcut, lineSlope_zero]
    · exact (lineSlope_of_le _ (by omega)).symm

/-- R50: the regeneration envelope is the slope of the voltage below the cut. -/
theorem lineRegen_eq_lineSlope {c : Settings} (h : c.vkneeHigh < c.vcutHigh) (v : Nat) :
    lineRegen c v = lineSlope c.iregenMax (c.vcutHigh - c.vkneeHigh) (c.vcutHigh - v) := by
  rw [lineRegen]
  split
  · exact (lineSlope_of_ge _ (by omega) (by omega)).symm
  · split
    · next hcut => rw [Nat.sub_eq_zero_of_le hcut, lineSlope_zero]
    · exact (lineSlope_of_le _ (by omega)).symm

/-- R28 at every voltage. -/
theorem lineDraw_shape (c : Settings) (v : Nat) (h : c.vcutLow < c.vkneeLow) :
    (c.vkneeLow ≤ v → lineDraw c v = c.imax) ∧ (v ≤ c.vcutLow → lineDraw c v = 0) ∧
    (c.vcutLow < v → v < c.vkneeLow → lineDraw c v = c.imax * (v - c.vcutLow) / (c.vkneeLow - c.vcutLow)) ∧
    lineDraw c v ≤ c.imax ∧ lineDraw c v ≤ lineDraw c (v + 1) ∧
    (0 < c.imax → lineDraw c (c.vkneeLow - 1) < c.imax) := by
  simp only [lineDraw_eq_lineSlope h]
  refine ⟨fun hv => lineSlope_of_ge _ (by omega) (by omega), fun hv => ?_, fun _ hv => lineSlope_of_le _ (by omega),
    lineSlope_le .., lineSlope_mono _ _ (by omega), fun hpos => lineSlope_lt hpos (by omega)⟩
  rw [Nat.sub_eq_zero_of_le hv, lineSlope_zero]

/-- R50 at every voltage. -/
theorem lineRegen_shape (c : Settings) (v : Nat) (h : c.vkneeHigh < c.vcutHigh) :
    (v ≤ c.vkneeHigh → lineRegen c v = c.iregenMax) ∧ (c.vcutHigh ≤ v → lineRegen c v = 0) ∧
    (c.vkneeHigh < v → v < c.vcutHigh →
      lineRegen c v = c.iregenMax * (c.vcutHigh - v) / (c.vcutHigh - c.vkneeHigh)) ∧
    lineRegen c v ≤ c.iregenMax ∧ lineRegen c (v + 1) ≤ lineRegen c v ∧ (c.iregenMax = 0 → lineRegen c v = 0) := by
  simp only [lineRegen_eq_lineSlope h]
  refine ⟨fun hv => lineSlope_of_ge _ (by omega) (by omega), fun hv => ?_, fun hv _ => lineSlope_of_le _ (by omega),
    lineSlope_le .., lineSlope_mono _ _ (by omega), fun hzero => ?_⟩
  · rw [Nat.sub_eq_zero_of_le hv, lineSlope_zero]
  · exact Nat.le_zero.mp (hzero ▸ lineSlope_le ..)

theorem le_clamp {lo hi : Nat} (h : lo ≤ hi) (v : Nat) : lo ≤ clamp lo hi v := le_min (le_max_right v lo) h

theorem clamp_le (lo hi v : Nat) : clamp lo hi v ≤ hi := min_le_right _ _

/-- R196: the envelope parameters of a settled image are in range, and each knee stands at least 20 from its cut. -/
theorem settle_envelope_ranges (r : Role) (m : Memory) :
    50 ≤ (settle r m).imax ∧ (settle r m).imax ≤ 600 ∧ 300 ≤ (settle r m).vcutLow ∧ (settle r m).vcutLow ≤ 600 ∧
    (settle r m).vcutLow + 20 ≤ (settle r m).vkneeLow ∧ (settle r m).vkneeLow ≤ 1023 ∧
    (settle r m).iregenMax ≤ 400 ∧ 600 ≤ (settle r m).vkneeHigh ∧ (settle r m).vkneeHigh ≤ 1000 ∧
    (settle r m).vkneeHigh + 20 ≤ (settle r m).vcutHigh ∧ (settle r m).vcutHigh ≤ 1023 := by
  have hcut : (settle r m).vcutLow ≤ 600 := clamp_le ..
  have hknee : (settle r m).vkneeHigh ≤ 1000 := clamp_le ..
  exact ⟨le_clamp (by decide) _, clamp_le .., le_clamp (by decide) _, hcut, le_clamp (by omega) _, clamp_le ..,
    clamp_le .., le_clamp (by decide) _, hknee, le_clamp (by omega) _, clamp_le ..⟩

section
variable {s : State} {x : Snapshot}

/-- R29: the special-work cap of an envelope. -/
def State.capped (s : State) (x : Snapshot) (e : Nat) : Nat := if s.specialUsed x then min e s.settings.isw else e

theorem drawEnvelope_of_wire (h : s.sourceUsed x = .wire) :
    s.drawEnvelope x = s.capped x (lineDraw s.settings (s.voltageUsed x)) := by
  simp only [State.drawEnvelope, State.capped, h]

theorem drawEnvelope_of_battery (h : s.sourceUsed x = .battery) :
    s.drawEnvelope x = s.capped x (s.batteryUsed x).1 := by
  simp only [State.drawEnvelope, State.capped, h]

theorem drawEnvelope_of_dead (h : s.sourceUsed x = .gap ∨ s.sourceUsed x = .none) : s.drawEnvelope x = 0 := by
  obtain h | h := h <;> simp [State.drawEnvelope, h]

theorem usableRegenOf_of_wire (h : s.sourceUsed x = .wire) :
    s.usableRegenOf x = lineRegen s.settings (s.voltageUsed x) - s.settings.reserve := by
  simp only [State.usableRegenOf, h]

theorem usableRegenOf_of_battery (h : s.sourceUsed x = .battery) :
    s.usableRegenOf x = (s.batteryUsed x).2 - s.settings.reserve := by
  simp only [State.usableRegenOf, h]

theorem usableRegenOf_of_dead (h : s.sourceUsed x = .gap ∨ s.sourceUsed x = .none) : s.usableRegenOf x = 0 := by
  obtain h | h := h <;> simp [State.usableRegenOf, h]

end

/-- The optional part read from an entry while it is heard. -/
def Entry.heardPart (e : Entry) : Option Part := e.heardBeacon.map Beacon.part

theorem Entry.heardPart_eq (e : Entry) : e.heardPart = match e.state with
    | .fresh => e.beacon.map Beacon.part
    | .stale => e.beacon.map Beacon.part
    | .phantom => none
    | .empty => none := by
  cases h : e.state <;> simp [heardPart, heardBeacon, heard, h]

/-- R13: the pole part is that of the part heard. -/
theorem polePartOf_eq (t : PeerTable) (n : Nat) : polePartOf t n = match (entryOf t n).heardPart with
    | some (.pole p) => some p
    | _ => none := by
  rw [polePartOf, Entry.heardPart]
  cases (entryOf t n).heardBeacon with
  | none => rfl
  | some b => cases b with | mk part => cases part <;> rfl

/-- R13: the console record is that of the part heard. -/
theorem consolePartOf_eq (t : PeerTable) (n : Nat) : consolePartOf t n = match (entryOf t n).heardPart with
    | some (.console c) => some c
    | _ => none := by
  rw [consolePartOf, Entry.heardPart]
  cases (entryOf t n).heardBeacon with
  | none => rfl
  | some b => cases b with | mk part => cases part <;> rfl

/-- R26, R48: the lowest number of a role, by the stored beacons. -/
theorem lowestOfRole_eq (t : PeerTable) (r : Role) :
    lowestOfRole t r = stationNumbers.find? (fun n => (entryOf t n).beacon.any (fun b => b.part.role == r)) := by
  refine congrArg (List.find? · stationNumbers) (funext fun n => ?_)
  rw [storedRole]
  cases (entryOf t n).beacon <;> rfl

/-- R26: the battery record is that of the part heard from a FRESH entry. -/
theorem batteryRecordOf_eq (t : PeerTable) : batteryRecordOf t = match lowestOfRole t .battery with
    | some n => if (entryOf t n).state = .fresh then
        (match (entryOf t n).heardPart with
          | some (.battery d a) => (d, a)
          | _ => (0, 0))
      else (0, 0)
    | none => (0, 0) := by
  rw [batteryRecordOf]
  cases lowestOfRole t .battery with
  | none => rfl
  | some n =>
    by_cases h : (entryOf t n).state = .fresh
    · have hfresh : (entryOf t n).freshBeacon = (entryOf t n).beacon := if_pos h
      have hheard : (entryOf t n).heardPart = (entryOf t n).beacon.map Beacon.part := by rw [Entry.heardPart_eq, h]
      simp only [hfresh, hheard, h, if_true]
      cases (entryOf t n).beacon with
      | none => rfl
      | some b => cases b with | mk part => cases part <;> rfl
    · have hfresh : (entryOf t n).freshBeacon = none := if_neg h
      simp only [hfresh, h, if_false]

/-- Settles O21: the shapes of the two envelopes, the settled ranges, and the usable envelopes by source mode once what the
statement reads from the snapshot is known for what the model reads. -/
theorem lineEnvelopes : Obligations.LineEnvelopes := by
  refine ⟨lineDraw_shape, lineRegen_shape, settle_envelope_ranges, ?wire, ?usable, ⟨rfl, rfl, rfl, rfl, rfl, rfl⟩⟩
  case wire =>
    intro s x h
    refine ⟨fun hspecial => ?_, usableRegenOf_of_wire h⟩
    rw [drawEnvelope_of_wire h, State.capped, hspecial]
    rfl
  case usable =>
    intro s x heard pole mode volt special record
    have hheard : heard = fun n => (entryOf x.entries n).heardPart := funext fun n => (Entry.heardPart_eq _).symm
    have hpole : pole = polePartOf x.entries s.settings.poleStation := by
      simp only [pole, hheard, polePartOf_eq] <;> rfl
    have hmode : mode = s.sourceUsed x := by
      simp only [mode, hpole, State.sourceUsed, sourceOf]
      cases polePartOf x.entries s.settings.poleStation <;> rfl
    have hvolt : volt = s.voltageUsed x := by
      simp only [volt, hpole, State.voltageUsed]
      cases polePartOf x.entries s.settings.poleStation <;> rfl
    have hspecial : special = s.specialUsed x := by
      simp only [special, hheard, State.specialUsed, consolePartOf_eq]
      cases (entryOf x.entries s.settings.consoleStation).heardPart with
      | none => rfl
      | some part => cases part <;> rfl
    have hrecord : record = s.batteryUsed x := by
      simp only [record, hheard, State.batteryUsed, batteryRecordOf_eq, lowestOfRole_eq] <;> rfl
    rw [hmode, hvolt, hspecial, hrecord]
    refine ⟨fun h => ⟨?_, usableRegenOf_of_wire h⟩, fun h => ⟨?_, usableRegenOf_of_battery h⟩,
      fun h => ⟨?_, usableRegenOf_of_dead h⟩⟩
    · rw [State.usableDraw, drawEnvelope_of_wire h, State.capped]
    · rw [State.usableDraw, drawEnvelope_of_battery h, State.capped]
    · rw [State.usableDraw, drawEnvelope_of_dead h, Nat.zero_sub]

end Sys2Proof.Machine

/-! The step on an empty queue, and what cold reset leaves. -/

namespace Sys2Proof.Machine

/-- Settles O1: the queue's front is taken off before the command runs. -/
theorem stepTakesFront : Obligations.StepTakesFront := fun _ _ _ => rfl

/-- The silence timers count in the check records alone. -/
theorem State.tickChecks_eq (s : State) (l : List Nat) :
    ∃ k, l.foldl State.tickCheck s = s.withCf { s.cf with checks := k } := by
  induction l generalizing s with
  | nil => exact ⟨s.cf.checks, rfl⟩
  | cons n l ih =>
    have hone : ∃ k, s.tickCheck n = s.withCf { s.cf with checks := k } := by
      unfold State.tickCheck
      dsimp only
      split
      · exact ⟨_, rfl⟩
      · exact ⟨s.cf.checks, rfl⟩
    obtain ⟨k, hk⟩ := hone
    obtain ⟨k', hk'⟩ := ih (s.withCf { s.cf with checks := k })
    exact ⟨k', by rw [List.foldl_cons, hk, hk']; rfl⟩

/-- One millisecond, block by block. -/
structure Ticked (s t : State) : Prop where
  settings : t.settings = s.settings
  osm : t.osm = s.tickOsm
  su : t.su = s.su
  pvt : t.pvt = mapTable Entry.tick s.pvt
  ae : t.ae = if s.osm.op.composes then { s.ae with due := s.ae.due + 1 } else s.ae
  cc : t.cc = s.cc.tick s.osm.number
  lcm : t.lcm = s.lcm.tick
  pwu : t.pwu = (if s.polesRun then s.pwu.tick s.settings else s.pwu).tickTrack
  ia : t.ia = s.ia
  au : t.au = s.au
  cf : ∃ k, t.cf = ConsoleUnit.tick { s.cf with checks := k }
  bus : t.bus = s.bus
  cs : t.cs = s.cs.tick
  port : t.port = s.port
  out : t.out = s.out
  freeCount : t.freeCount = s.freeCount
  pending : t.pending = s.pending

theorem State.ticked (s : State) : Ticked s s.tick := by
  obtain ⟨k, hk⟩ := s.tickChecks_eq stationNumbers
  unfold State.tick
  rw [hk]
  exact ⟨rfl, rfl, rfl, rfl, rfl, rfl, rfl, rfl, rfl, rfl, ⟨k, rfl⟩, rfl, rfl, rfl, rfl, rfl, rfl⟩

/-- A table whose elements are all mapped, read at a station number. -/
theorem stationGet_mapTable {α : Type} (d : α) (f : α → α) (t : Vector α 15) (n : Nat) (h : 1 ≤ n ∧ n ≤ 15) :
    stationGet d (mapTable f t) n = f (stationGet d t n) := by
  simp [stationGet, h, mapTable]

theorem State.tick_entry (s : State) {n : Nat} (h : 1 ≤ n ∧ n ≤ 15) : s.tick.entry n = (s.entry n).tick := by
  unfold State.entry
  rw [s.ticked.pvt]
  exact stationGet_mapTable _ _ _ n h

theorem Entry.tick_state (e : Entry) : e.tick.state = e.state := by
  unfold Entry.tick
  split <;> simp_all

theorem Entry.tick_age (e : Entry) :
    e.tick.age = if e.state = .empty then e.age else min 15001 (e.age + 1) := by
  unfold Entry.tick countUp
  split <;> simp_all

theorem CutUnit.tick_cuts (n : Nat) (c : CutUnit) : (c.tick n).cuts = c.cuts := by
  unfold CutUnit.tick
  split <;> rfl

theorem ConfigStore.tick_eq (c : ConfigStore) :
    c.tick = { c with write := c.write.map (fun w => { w with elapsed := min 5 (w.elapsed + 1) }) } := rfl

/-- An idle step leaves the currents. -/
theorem Ticked.draw {s t : State} (h : Ticked s t) : t.ae.draw = s.ae.draw := by
  rw [h.ae]
  split <;> rfl

/-- Settles O2: the step is `State.tick`, which counts timers alone. -/
theorem idleStepIsOneMillisecond : Obligations.IdleStepIsOneMillisecond := by
  intro s h
  have hstep : step s = .next s.tick := by simp only [step, h]
  have k := s.ticked
  refine ⟨s.tick, hstep, k.pending.trans h, by rw [k.osm]; rfl, by rw [k.osm]; rfl, k.out, ?_, k.draw, ?_, k.settings,
    ?_, fun n h1 h2 => ⟨?_, ?_⟩⟩
  · rw [k.cc, CutUnit.tick_cuts]
  · rw [k.cs, ConfigStore.tick_eq]
  · rw [k.cs, ConfigStore.tick_eq]
  · rw [s.tick_entry ⟨h1, h2⟩, Entry.tick_state]
  · rw [s.tick_entry ⟨h1, h2⟩, Entry.tick_age]

/-- An entry of the table that cold reset leaves is EMPTY, at any number. -/
theorem entryOf_emptyTable (pe n : Nat) :
    (entryOf (emptyTable pe) n).state = .empty ∧ (entryOf (emptyTable pe) n).beacon = none := by
  unfold entryOf stationGet
  split <;> simp [emptyTable, emptyEntry]

theorem State.reset_chan (c : Fin 4) : State.reset.chan c = resetChannel := by
  show (Vector.replicate 4 resetChannel)[c] = resetChannel
  simp

/-- Settles O3: the values of `State.reset`. -/
theorem resetValues : Obligations.ResetValues := by
  refine ⟨rfl, entryOf_emptyTable 20, rfl, rfl, rfl, rfl, rfl, rfl, rfl, rfl, rfl, rfl, rfl, rfl, ?_, rfl, rfl, rfl,
    rfl, rfl, rfl, rfl, rfl, rfl, rfl, rfl, rfl, rfl, rfl, rfl, rfl, rfl, rfl, rfl, rfl⟩
  intro c
  rw [State.reset_chan]
  exact ⟨rfl, rfl⟩

/-- R202: the image a cold reset finds, outside the page of a write it interrupts. -/
theorem State.imageAfterReset_read (s : State) (a : Nat)
    (h : ∀ w, s.cs.write = some w → ¬ (16 * w.page.val ≤ a ∧ a < 16 * w.page.val + 16)) :
    s.imageAfterReset.read a = s.cs.image.read a := by
  unfold State.imageAfterReset
  split
  · rfl
  · next w hw => exact Memory.read_writePage_other _ _ _ a (h w hw)

/-- Settles O4: the blocks are those of `State.reset`, the image by its page writes. -/
theorem coldResetLeavesOnlyTheImage : Obligations.ColdResetLeavesOnlyTheImage := fun s =>
  ⟨_, rfl, rfl, rfl, rfl, rfl, rfl, rfl, rfl, rfl, rfl, rfl, rfl, rfl, rfl, rfl, rfl, rfl, rfl,
    s.imageAfterReset_read⟩

/-- A cold reset keeps the image's canonical form. -/
theorem State.imageAfterReset_wf {s : State} (h : s.cs.image.wf = true) : s.imageAfterReset.wf = true := by
  unfold State.imageAfterReset
  split
  · exact h
  · exact Memory.writePage_wf h _ _

end Sys2Proof.Machine

/-! What a command does: nothing, its own effect followed by the blocks' reaction, or a direct change of one block. Every
statement about all commands is proved from this inversion. -/

namespace Sys2Proof

/-- The rows that wake a station from DORMANT (R199). -/
def Instr.wakes : Instr → Bool
  | .wakeInput | .wakeByFrame _ | .beaconReceived _ | .patternReceived _ | .cutReceived _ | .releaseReceived _
  | .commandReceived _ => true
  | _ => false

/-- The row of a received frame. -/
def Instr.receives (f : Frame) : Instr → Bool
  | .beaconReceived g | .patternReceived g | .cutReceived g | .releaseReceived g | .commandReceived g => g == f
  | _ => false

end Sys2Proof

namespace Sys2Proof.Machine

/-- The frame kind code that a received frame of each kind bears (R187). -/
def Received.code : Received → Nat
  | .beacon _ _ => 0
  | .cut _ _ _ _ => 1
  | .release _ _ _ _ => 2
  | .command _ _ _ _ _ => 3
  | .pattern _ _ => 4

/-- A frame that passes the checks is read as its kind field says. -/
theorem checkFrame_code {f : Frame} {r : Received} (h : checkFrame f = some r) : r.code = f.kind.toNat := by
  unfold checkFrame readPayload at h
  dsimp only at h
  split at h
  case isFalse => cases h
  case isTrue =>
    split at h
    case h_1 hk =>
      obtain ⟨b, -, rfl⟩ := Option.map_eq_some_iff.mp h
      exact hk.symm
    case h_2 hk _ => cases h; exact hk.symm
    case h_3 hk _ => cases h; exact hk.symm
    case h_4 hk _ =>
      split at h
      · obtain ⟨b, -, rfl⟩ := Option.map_eq_some_iff.mp h
        exact hk.symm
      · cases h
    case h_5 hk => cases h; exact hk.symm
    case h_6 => cases h

/-- The rows that are the expiry of a timer of the pole watch unit: the pole dewired, and the unit's own act. -/
inductive PoleTimer (s : State) : Instr → Option Pole → State → Prop
  | hook (p : Pole) : (s.pole p).state = .raising → PoleTimer s (.poleHookTimeout p) none s.abandonRaise
  | raise : s.pwu.operation = .raise → PoleTimer s .raiseTimeout none s.abandonRaise
  | drain : s.pwu.operation = .lowerDrain → PoleTimer s .drainTimeout none s.endDrain
  | retrieve (p : Pole) : (s.pole p).state.falling = true →
      PoleTimer s (.retrieveTimeout p) none (s.onset .retrieveFail (poleCode p))
  | forgive (p : Pole) : (s.pole p).state = .onWire → PoleTimer s (.forgivenessExpiry p) none (State.forgive p s)
  | gap : s.pwu.line = .gap → PoleTimer s .gapTimeout none s.loseLine
  | source : PoleTimer s .sourceChangeTimeout none (s.withPwu { s.pwu with sourceTimer := none })
  | suspect (p : Pole) : (s.pole p).state = .suspect →
      PoleTimer s (.suspectExpiry p) (if s.inWindowOf p then none else some p) (s.expireWindow p)

/-- The own effect of a command to which the blocks react, with its cue. -/
inductive Effect (s : State) : Instr → Cue → State → Prop
  | maintenance (x : Straps) : s.osm.op = .loading → Effect s (.loadingEnd x) noCue (s.enterMaintenance x)
  | faulted (x : Straps) : s.osm.op = .loading → Effect s (.loadingEnd x) noCue (s.enterFaulted x)
  | running (x : Straps) : s.osm.op = .loading → s.loadFails x = false →
      Effect s (.loadingEnd x) noCue (s.enterRunning x)
  | sample (x : AnalogSample) : s.osm.op.samples = true →
      Effect s (.analogSample x) (s.sampleCue (s.takeSample x)) (s.takeSample x)
  | input (i : Fin 12) (level : Bool) : s.din i.val ≠ level →
      Effect s (.digitalInputChange i level) noCue (s.takeInput i.val level)
  | wake (c : Instr) : c.wakes = true → s.osm.op = .dormant → Effect s c noCue s.wake
  | duplicate (c : Instr) (f : Frame) : s.osm.op.receives = true → c.receives f = true → Effect s c noCue s.duplicateFound
  | beacon (f : Frame) (n : Nat) (b : Beacon) : s.osm.op.receives = true → checkFrame f = some (.beacon n b) →
      s.isOwn n = false →
      Effect s (.beaconReceived f) (entryCue (applyCutList s.cc.cuts n b.cuts)) (s.takeBeacon n b)
  | pattern (f : Frame) (n : Nat) (p : List Byte) : s.osm.op.receives = true → checkFrame f = some (.pattern n p) →
      s.isOwn n = false → Effect s (.patternReceived f) noCue (s.takePattern n p)
  | cut (f : Frame) (n o : Nat) (c : Option CutCause) (k : Nat) : s.osm.op.receives = true →
      checkFrame f = some (.cut n o c k) → s.isOwn n = false → Effect s (.cutReceived f) noCue (s.takeCut n o c k)
  | release (f : Frame) (n o : Nat) (c : Option CutCause) (k : Nat) : s.osm.op.receives = true →
      checkFrame f = some (.release n o c k) → s.isOwn n = false →
      Effect s (.releaseReceived f) noCue (s.takeRelease n o c k)
  | command (f : Frame) (n o g k : Nat) (kind : CommandKind) : s.osm.op.receives = true → f.kind = 3 →
      checkFrame f = some (.command n o g k kind) → s.isOwn n = false → s.commandTaken n o g kind = true →
      Effect s (.commandReceived f) noCue (s.takeCommand k kind)
  | ignored (f : Frame) : s.osm.op.receives = true → Effect s (.commandReceived f) noCue s
  | judged (k : Byte) (kind : CommandKind) : s.osm.op.judges = true →
      Effect s (kind.row k) noCue (s.takeCommand k.toNat kind)
  | stale (n : Fin 16) : s.staleDue n.val = true → Effect s (.entryStale n) noCue (s.becomeStale n.val)
  | phantom (n : Fin 16) : s.phantomDue n.val = true →
      Effect s (.entryPhantom n) (entryCue (dropOrigin s.cc.cuts n.val)) (s.becomePhantom n.val)
  | hold (n : Fin 16) : s.holdOver n.val = true →
      Effect s (.phantomHoldExpiry n) (entryCue (dropOrigin s.cc.cuts n.val)) (s.becomeEmpty n.val)
  | silence (n : Fin 16) : s.silenceDue n.val = true → Effect s (.patternSilenceTimeout n) noCue
      ((s.setCheck n.val { s.check n.val with stopped := true }).onset .patternError n.val)
  | restoring : s.cc.phase = .offset → Effect s .restorationOffsetExpiry { noCue with admission := true } s.beginRestoring
  | computed (k : CompKind) : s.ae.computing = some k →
      Effect s .allotmentComputationEnd { noCue with place := true, compose := k == .periodic } (s.endComputation k)
  | spacing : Effect s .startSpacingExpiry { noCue with admission := true } (s.withLcm { s.lcm with spacingRuns := false })
  | started (c : Fin 4) : (s.record c).present = true → (s.chan c).state = .starting →
      Effect s (.startingComplete c) noCue (s.setChan c { s.chan c with state := .on })
  | minOn (c : Fin 4) : s.runs c = true → s.minOnElapsed c = true → Effect s (.minOnElapsed c) noCue (s.minOnReached c)
  | minOff (c : Fin 4) : (s.record c).present = true → (s.chan c).state.running = false → s.minOffElapsed c = true →
      Effect s (.minOffElapsed c) { noCue with admission := s.minOffAdmits c } (s.minOffReached c)
  | cycle (c : Fin 4) : (s.chan c).cyclePending = true → (s.chan c).cycle = 0 →
      Effect s (.cycleComplete c) noCue (s.setChan c { s.chan c with cyclePending := false })
  | tail : s.tailDue = true →
      Effect s .specialWorkTailExpiry noCue (s.withCf { s.cf with special := false, tail := none })
  | poles (c : Instr) (w : Option Pole) (u : State) : s.polesRun = true → PoleTimer s c w u →
      Effect s c noCue (u.finishPoles w)
  | bounce (p : Pole) : Effect s (.bounceExpiry p) noCue (s.expireBounces p)
  | active : s.osm.op = .listening → s.keyOn = true → Effect s .listenInExpiry noCue (s.enterOp .active)
  | parked : s.osm.op = .listening → s.keyOn = false → Effect s .listenInExpiry noCue s.enterParked
  | dormant : s.osm.op = .parked → Effect s .dormancyExpiry noCue s.enterDormant

/-- A change of one block that the others do not react to. -/
inductive Direct (s : State) : Instr → State → Prop
  | periodic : s.osm.op.composes = true →
      Direct s .allotmentEventPeriodic ((s.withAe { s.ae with due := s.ae.due - s.periodInForce }).allotmentEvent .periodic)
  | setpoint : Direct s .setpointPulsePeriodStart (s.withAe { s.ae with setpointOut := s.ae.setpoint })
  | track (c : Nat) :
      Direct s .trackingStep (s.withPwu { s.pwu with trackClock := some c, trackWaits := true }).trackPoles
  | trackWaits (c : Nat) : Direct s .trackingStep (s.withPwu { s.pwu with trackClock := some c, trackWaits := true })
  | carrier : Direct s .carrierSlotBoundary (s.withLcm { s.lcm with
      slot := (s.lcm.slot + 1) % 8
      slotClock := s.lcm.slotClock - 125
      chans := mapTable Channel.takeWindow s.lcm.chans }).refreshOutputs
  | flash : Direct s .flashClockPhase
      (s.withCf { s.cf with flashOn := !s.cf.flashOn, flashClock := s.cf.flashClock - 500 }).refreshOutputs
  | start : s.osm.op.composes = true → s.osm.number ≠ 0 → Direct s .transmitStart s.beginSending
  | lost : Direct s .arbitrationLost (s.stopSending BusUnit.loseArbitration)
  | abort : Direct s .transmitAbort (s.stopSending BusUnit.putBack).drawBackoff
  | complete : Direct s .transmitComplete (s.withBus { s.bus with sending := none })
  | readImage : Direct s .readImage (s.answer (if s.cs.write.isSome then .busy else .image s.cs.image.bytes))
  | readBusy : Direct s .readBusy (s.answer (.busyState s.cs.write.isSome s.cs.outcome s.cs.mark))
  | readSnapshot : Direct s .readSnapshot (s.answer (.snapshot s.snapshotData))
  | writePage (p : Fin 16) (b : Vector Byte 16) (wp : Bool) : Direct s (.writePage p b wp)
      (((s.withCs (s.cs.judgeWrite (s.osm.op == .maintenance) wp p b)).answer
        (.written (Config.freeWriteStatus s.freeCount))).withFreeCount (s.freeCount + 1))
  | pageDone (w : PageWrite) : s.cs.write = some w → Direct s .pageWriteComplete (s.withCs (s.cs.finishWrite w))

/-- What cold reset leaves (R195, R202). -/
def State.coldReset (s : State) : State :=
  { State.reset with
    cs := ⟨s.imageAfterReset, none, s.cs.mark, .none⟩
    freeCount := s.freeCount + 1
    pending := s.pending }

/-- What a command can do. -/
inductive Outcomes (s : State) (c : Instr) (t : State) : Prop
  | reset : c = .coldReset → t = s.coldReset → Outcomes s c t
  | same : t = s → Outcomes s c t
  | react (cue : Cue) (u : State) : Effect s c cue u → t = State.react cue s u → Outcomes s c t
  | direct : Direct s c t → Outcomes s c t

/-- A guarded effect with its reaction. -/
theorem Outcomes.guarded {s t u : State} {c : Instr} {cue : Cue} {p : Prop} [Decidable p]
    (h : (Host.Outcome.next (if p then State.react cue s u else s) : Host.Outcome State Fault Refusal) = .next t)
    (e : p → Effect s c cue u) : Outcomes s c t := by
  injection h with h
  split at h
  · next hp => exact .react _ _ (e hp) h.symm
  · exact .same h.symm

/-- A guarded direct change. -/
theorem Outcomes.guardedDirect {s t u : State} {c : Instr} {p : Prop} [Decidable p]
    (h : (Host.Outcome.next (if p then u else s) : Host.Outcome State Fault Refusal) = .next t)
    (e : p → Direct s c u) : Outcomes s c t := by
  injection h with h
  split at h
  · next hp => exact .direct (h ▸ e hp)
  · exact .same h.symm

/-- The row of a received frame: a wake, a frame of the own number, or what the frame of the row's kind does. -/
theorem Outcomes.received {s t : State} {c : Instr} {kind : Nat} {f : Frame} {act : State → Received → State}
    (h : (Host.Outcome.next (s.receive kind f act) : Host.Outcome State Fault Refusal) = .next t)
    (hw : c.wakes = true) (hc : c.receives f = true)
    (e : ∀ r, s.osm.op.receives = true → checkFrame f = some r → r.code = kind → s.isOwn r.station = false →
      Effect s c (s.frameCue r) (act s r)) : Outcomes s c t := by
  injection h with h
  unfold State.receive at h
  split at h
  case isTrue hd =>
    unfold State.wakeOnFrame at h
    split at h
    · exact .react _ _ (.wake c hw hd) h.symm
    · exact .same h.symm
  case isFalse =>
    split at h
    case isFalse => exact .same h.symm
    case isTrue hr =>
      split at h
      · exact .same h.symm
      · next r hf =>
        cases ho : s.isOwn r.station with
        | true =>
          have hcue : s.frameCue r = noCue := by
            cases r with
            | beacon n b => exact if_pos ho
            | _ => rfl
          rw [ho, if_pos rfl, hcue] at h
          exact .react _ _ (.duplicate c f hr.1 hc) h.symm
        | false =>
          rw [ho, if_neg (by decide)] at h
          exact .react _ _ (e r hr.1 hf ((checkFrame_code hf).trans hr.2) ho) h.symm

/-- A row of a command taken. -/
theorem Outcomes.judged {s t : State} {k : Byte} {kind : CommandKind}
    (h : (Host.Outcome.next (s.judge k kind) : Host.Outcome State Fault Refusal) = .next t) :
    Outcomes s (kind.row k) t :=
  .guarded h (fun hj => .judged k kind hj)

/-- A row of a timer of the pole watch unit. -/
theorem Outcomes.poleTimer {s t : State} {c : Instr} {due : Bool} {w : Option Pole} {act : State → State}
    (h : (Host.Outcome.next (s.poleTimer due w act) : Host.Outcome State Fault Refusal) = .next t)
    (e : due = true → PoleTimer s c w (act s)) : Outcomes s c t :=
  .guarded h (fun hp => .poles c w _ (Bool.and_eq_true_iff.mp hp).1 (e (Bool.and_eq_true_iff.mp hp).2))

/-- What a command can do: the inversion of `exec`. -/
theorem exec_outcomes {c : Instr} {s t : State} (h : exec c s = .next t) : Outcomes s c t := by
  cases c with
  | coldReset => injection h with h; exact .reset rfl h.symm
  | loadingEnd x =>
    injection h with h
    split at h
    · next hl =>
      split at h
      · exact .react _ _ (.maintenance x hl) h.symm
      · split at h
        · exact .react _ _ (.faulted x hl) h.symm
        · next hf => exact .react _ _ (.running x hl (by simpa using hf)) h.symm
    · exact .same h.symm
  | analogSample x => exact .guarded h (.sample x)
  | digitalInputChange i level =>
    injection h with h
    split at h
    · exact .same h.symm
    · next hd => exact .react _ _ (.input i level hd) h.symm
  | wakeInput => exact .guarded h (.wake _ rfl)
  | wakeByFrame p => exact .guarded h (fun hd => .wake _ rfl hd.1)
  | beaconReceived f =>
    refine .received h rfl (beq_self_eq_true f) fun r hr hf hk ho => ?_
    cases r with
    | beacon n b => 
      replace ho : s.isOwn n = false := ho
      rw [State.frameCue, if_neg (ne_true_of_eq_false ho)]
      exact .beacon f n b hr hf ho
    | _ => cases hk
  | patternReceived f =>
    refine .received h rfl (beq_self_eq_true f) fun r hr hf hk ho => ?_
    cases r with
    | pattern n p => exact .pattern f n p hr hf ho
    | _ => cases hk
  | patternSilenceTimeout n => exact .guarded h (.silence n)
  | cutReceived f =>
    refine .received h rfl (beq_self_eq_true f) fun r hr hf hk ho => ?_
    cases r with
    | cut n o c k => exact .cut f n o c k hr hf ho
    | _ => cases hk
  | releaseReceived f =>
    refine .received h rfl (beq_self_eq_true f) fun r hr hf hk ho => ?_
    cases r with
    | release n o c k => exact .release f n o c k hr hf ho
    | _ => cases hk
  | restorationOffsetExpiry => exact .guarded h (fun hp => .restoring hp.1)
  | commandReceived f =>
    refine .received h rfl (beq_self_eq_true f) fun r hr hf hk ho => ?_
    cases r with
    | command n o g k kind =>
      have hkind : f.kind = 3 := BitVec.eq_of_toNat_eq (by rw [← checkFrame_code hf]; rfl)
      dsimp only
      split
      · next ht => exact .command f n o g k kind hr hkind hf ho ht
      · exact .ignored f hr
    | _ => cases hk
  | raisePoles k => exact .judged h
  | lowerPoles k => exact .judged h
  | clearLockout k p => exact .judged h
  | ackAlarms k rs => exact .judged h
  | patternOn k => exact .judged h
  | patternOff k => exact .judged h
  | entryStale n => exact .guarded h (.stale n)
  | entryPhantom n => exact .guarded h (.phantom n)
  | phantomHoldExpiry n => exact .guarded h (.hold n)
  | allotmentEventPeriodic => exact .guardedDirect h (fun hp => .periodic hp.1)
  | allotmentComputationEnd =>
    injection h with h
    split at h
    · next k hk => exact .react _ _ (.computed k hk) h.symm
    · exact .same h.symm
  | poleHookTimeout p =>
    exact .poleTimer h fun hd => .hook p (beq_iff_eq.mp (Bool.and_eq_true_iff.mp hd).1)
  | raiseTimeout => exact .poleTimer h fun hd => .raise (beq_iff_eq.mp (Bool.and_eq_true_iff.mp hd).1)
  | drainTimeout => exact .poleTimer h fun hd => .drain (beq_iff_eq.mp (Bool.and_eq_true_iff.mp hd).1)
  | retrieveTimeout p => exact .poleTimer h fun hd => .retrieve p (Bool.and_eq_true_iff.mp hd).1
  | forgivenessExpiry p => exact .poleTimer h fun hd => .forgive p (beq_iff_eq.mp (Bool.and_eq_true_iff.mp hd).1)
  | gapTimeout => exact .poleTimer h fun hd => .gap (beq_iff_eq.mp (Bool.and_eq_true_iff.mp hd).1)
  | sourceChangeTimeout => exact .poleTimer h fun _ => .source
  | trackingStep =>
    injection h with h
    split at h
    · dsimp only at h
      split at h
      · split at h
        · exact .direct (h ▸ .track _)
        · exact .direct (h ▸ .trackWaits _)
      · exact .same h.symm
    · exact .same h.symm
  | suspectExpiry p => exact .poleTimer h fun hd => .suspect p (beq_iff_eq.mp (Bool.and_eq_true_iff.mp hd).1)
  | bounceExpiry p => injection h with h; exact .react _ _ (.bounce p) h.symm
  | startSpacingExpiry => exact .guarded h (fun _ => .spacing)
  | startingComplete c => exact .guarded h (fun hp => .started c hp.1 hp.2.1)
  | minOnElapsed c => exact .guarded h (fun hp => .minOn c hp.1 hp.2)
  | minOffElapsed c => exact .guarded h (fun hp => .minOff c hp.1 (by simpa using hp.2.1) hp.2.2.1)
  | cycleComplete c => exact .guarded h (fun hp => .cycle c hp.1 hp.2)
  | carrierSlotBoundary => exact .guardedDirect h (fun _ => .carrier)
  | specialWorkTailExpiry => exact .guarded h .tail
  | transmitStart => exact .guardedDirect h (fun hp => .start hp.1 hp.2)
  | arbitrationLost => injection h with h; exact .direct (h ▸ .lost)
  | transmitAbort => exact .guardedDirect h (fun _ => .abort)
  | transmitComplete => injection h with h; exact .direct (h ▸ .complete)
  | listenInExpiry =>
    injection h with h
    split at h
    · next hl =>
      split at h
      · next hk => exact .react _ _ (.active hl.1 hk) h.symm
      · next hk => exact .react _ _ (.parked hl.1 (by simpa using hk)) h.symm
    · exact .same h.symm
  | dormancyExpiry => exact .guarded h (fun hp => .dormant hp.1)
  | readImage => injection h with h; exact .direct (h ▸ .readImage)
  | readBusy => injection h with h; exact .direct (h ▸ .readBusy)
  | readSnapshot => injection h with h; exact .direct (h ▸ .readSnapshot)
  | writePage p b w => injection h with h; exact .direct (h ▸ .writePage p b w)
  | pageWriteComplete =>
    injection h with h
    split at h
    · next w hw =>
      split at h
      · exact .direct (h ▸ .pageDone w hw)
      · exact .same h.symm
    · exact .same h.symm
  | flashClockPhase => exact .guardedDirect h (fun _ => .flash)
  | setpointPulsePeriodStart => injection h with h; exact .direct (h ▸ .setpoint)

/-- A step is an idle millisecond or a command on the rest of the queue: a predicate that ignores the queue is kept by every
step if both keep it. -/
theorem step_keeps {P : State → Prop} (hq : ∀ s l, P s → P (s.withPending l)) (htick : ∀ s, P s → P s.tick)
    (hexec : ∀ c s t, P s → exec c s = .next t → P t) : ∀ s t, P s → step s = .next t → P t := by
  intro s t hs h
  unfold step at h
  split at h
  · injection h with h
    exact h ▸ htick s hs
  · next c rest _ => exact hexec c _ t (hq s rest hs) h

end Sys2Proof.Machine

/-! What the load channel manager's operations are built of: the changes of one channel they make, the bookkeeping of the
manager itself, and the onset and the end of SHORT_CYCLE. -/

namespace Sys2Proof.Machine

/-- The changes of one channel by shedding, restoration, requests and the placing of a share, each with what holds of the
channel as it is made. The changes that requests make and those that restoration makes are marked. -/
inductive ChannelStep (asks rises : Bool) (r : ChannelRecord) (ch : Channel) : Channel → Prop
  | shed : r.present = true → ch.state.running = true → ChannelStep asks rises r ch (ch.leave (shedState r))
  | wait : asks = true → r.present = true → ch.state.running = true ∨ ch.state.listed = true →
      ChannelStep asks rises r ch (ch.leave .waiting)
  | off : asks = true → r.present = true → ch.state.listed = true → ChannelStep asks rises r ch (ch.leave .off)
  | position (p : Nat) : r.present = true → ch.state.listed = true → ChannelStep asks rises r ch { ch with shedPos := some p }
  | lower (d : Nat) : r.present = true → ch.state.running = true → r.kind = .modulated → d ≤ ch.duty →
      ChannelStep asks rises r ch (ch.lowered d)
  | raise (d : Nat) : rises = true → r.present = true → ch.state.running = true → r.kind = .modulated → ch.duty ≤ d →
      d ≤ ch.effective → ChannelStep asks rises r ch { ch with duty := d }
  | start (d : Nat) : rises = true → r.present = true → ch.state.listed = true ∨ ch.state = .off → ch.asks = true →
      d ≤ ch.effective → (r.kind ≠ .modulated → d = 0) →
      ChannelStep asks rises r ch { ch with state := .starting, minOn := 0, duty := d, shedPos := none }
  | place (p e : Nat) : ChannelStep asks rises r ch { ch with placed := p, sinkDuty := e }
  | request (q : Nat) : asks = true → r.present = true → ChannelStep asks rises r ch { ch with request := q }

/-- The changes of shedding and of placing, which raise no current. -/
abbrev ShedStep := ChannelStep false false

/-- The changes of an admission event. -/
abbrev AdmitStep := ChannelStep false true

/-- The changes that follow the requests. -/
abbrev RequestStep := ChannelStep true false

/-- The placing of a part of the share. -/
def PlaceStep (_ : ChannelRecord) (a b : Channel) : Prop := ∃ p e, b = { a with placed := p, sinkDuty := e }

/-- The changes of one channel by the start and the end of an inhibit (R148). -/
inductive InhibitStep (r : ChannelRecord) (ch : Channel) : Channel → Prop
  | inhibit : r.present = true → ch.state ≠ .inhibited →
      InhibitStep r ch { ch.leave .inhibited with cyclePending := false, cycle := 0 }
  | free : r.present = true → ch.state = .inhibited → InhibitStep r ch (ch.leave .off)

/-- Operations built of changes of one channel, of the manager's own bookkeeping and of SHORT_CYCLE. -/
inductive Loads (C : ChannelRecord → Channel → Channel → Prop) : State → State → Prop
  | refl (s : State) : Loads C s s
  | trans {s t u : State} : Loads C s t → Loads C t u → Loads C s u
  | chan (s : State) (c : Fin 4) (ch : Channel) : C (s.record c) (s.chan c) ch → Loads C s (s.setChan c ch)
  | unit (s : State) (x : LoadUnit) : x.chans = s.lcm.chans →
      (x.carrierOn, x.slot, x.slotClock, x.spacing, x.spacingRuns) =
        (s.lcm.carrierOn, s.lcm.slot, s.lcm.slotClock, s.lcm.spacing, s.lcm.spacingRuns) → Loads C s (s.withLcm x)
  | spaced (s : State) : (∃ r a b, C r a b ∧ a.state ≠ .starting ∧ b.state = .starting) →
      Loads C s (s.withLcm { s.lcm with spacing := 0, spacingRuns := true })
  | record (s : State) (l : List Placed) : Loads C s (s.withCc { s.cc with restRecord := l })
  | onset (s : State) (c : Fin 4) : Loads C s (s.onset .shortCycle c.val)
  | clear (s : State) (c : Fin 4) : Loads C s (s.clearShort c)

section
variable {C D : ChannelRecord → Channel → Channel → Prop} {s t u : State}

theorem Loads.mono (h : Loads C s t) (hc : ∀ r a b, C r a b → D r a b) : Loads D s t := by
  induction h with
  | refl s => exact .refl s
  | trans _ _ ih ih' => exact .trans ih ih'
  | chan s c ch h => exact .chan s c ch (hc _ _ _ h)
  | unit s x h k => exact .unit s x h k
  | spaced s h =>
    obtain ⟨r, a, b, h, k⟩ := h
    exact .spaced s ⟨r, a, b, hc _ _ _ h, k⟩
  | record s l => exact .record s l
  | onset s c => exact .onset s c
  | clear s c => exact .clear s c

theorem Loads.foldl {α : Type} {f : State → α → State} (h : ∀ s a, Loads C s (f s a)) (l : List α) (s : State) :
    Loads C s (l.foldl f s) := by
  induction l generalizing s with
  | nil => exact .refl s
  | cons a l ih => exact (h s a).trans (ih _)

theorem Loads.ite {p : Prop} [Decidable p] (h : p → Loads C s t) (k : ¬ p → Loads C s u) :
    Loads C s (if p then t else u) := by
  split
  · exact h ‹_›
  · exact k ‹_›

/-- The operations change the load channel manager, the alarm unit and the restoration record alone. -/
theorem Loads.only (h : Loads C s t) : LoadOnly s t := by
  induction h with
  | refl s => exact .refl s
  | trans _ _ ih ih' => exact ih.trans ih'
  | chan s c ch => exact .setChan s c ch
  | unit s x => exact .withLcm s x
  | spaced s => exact .withLcm s _
  | record s l => exact .record s l
  | onset s c => exact .onset s _ _
  | clear s c => exact .clearShort s c

theorem Loads.settings (h : Loads C s t) : t.settings = s.settings := by
  obtain ⟨l, a, r, rfl⟩ := h.only
  rfl

theorem Loads.recordOf (h : Loads C s t) (c : Fin 4) : t.record c = s.record c := by
  rw [State.record, State.record, h.settings]

/-- An onset or an end of a condition leaves the channels. -/
@[simp] theorem State.onset_chan (s : State) (k : AlarmKind) (q : Nat) (c : Fin 4) : (s.onset k q).chan c = s.chan c := by
  obtain ⟨a, ha, -⟩ := s.onset_only k q
  rw [ha]; rfl

@[simp] theorem State.clearCond_chan (s : State) (k : AlarmKind) (q : Nat) (c : Fin 4) :
    (s.clearCond k q).chan c = s.chan c := by
  obtain ⟨a, ha, -⟩ := s.clearCond_only k q
  rw [ha]; rfl

@[simp] theorem State.clearShort_chan (s : State) (c d : Fin 4) : (s.clearShort c).chan d = s.chan d :=
  s.clearCond_chan _ _ d

/-- What holds between a channel and itself and along changes of it holds along the operations. -/
theorem Loads.chans {R : ChannelRecord → Channel → Channel → Prop} (hr : ∀ r a, R r a a)
    (ht : ∀ r a b c, R r a b → R r b c → R r a c) (hc : ∀ r a b, C r a b → R r a b) (h : Loads C s t) (c : Fin 4) :
    R (s.record c) (s.chan c) (t.chan c) := by
  induction h with
  | refl s => exact hr _ _
  | trans h _ ih ih' => exact ht _ _ _ _ ih (h.recordOf c ▸ ih')
  | chan s d ch h =>
    rw [State.chan_setChan]
    split
    · next e => subst e; exact hc _ _ _ h
    · exact hr _ _
  | unit s x h => rw [show (s.withLcm x).chan c = s.chan c by simp only [State.chan, State.withLcm_lcm, h]]; exact hr _ _
  | spaced s => exact hr _ _
  | record s l => exact hr _ _
  | onset s d => rw [State.onset_chan]; exact hr _ _
  | clear s d => rw [State.clearShort_chan]; exact hr _ _

end

/-- The changes of a channel by shedding and restoration neither begin nor end an inhibit. -/
theorem ChannelStep.inhibited {asks rises : Bool} {r : ChannelRecord} {a b : Channel} (h : ChannelStep asks rises r a b) :
    b.state = .inhibited ↔ a.state = .inhibited := by
  cases h with
  | shed _ h => cases hs : a.state <;> simp_all [Channel.leave, shedState, ChannelState.running] <;> split <;> simp
  | wait _ _ h => cases hs : a.state <;> simp_all [Channel.leave, ChannelState.running, ChannelState.listed]
  | off _ _ h => cases hs : a.state <;> simp_all [Channel.leave, ChannelState.listed]
  | position p => rfl
  | lower d => rfl
  | raise d => rfl
  | start d _ _ h => cases hs : a.state <;> simp_all [ChannelState.listed]
  | place p e => rfl
  | request q => rfl

/-- What shedding may do every other operation may do. -/
theorem Loads.ofShed {asks rises : Bool} {s t : State} (h : Loads ShedStep s t) : Loads (ChannelStep asks rises) s t := by
  refine h.mono fun r a b hc => ?_
  cases hc with
  | shed h1 h2 => exact .shed h1 h2
  | wait h => cases h
  | off h => cases h
  | position p h1 h2 => exact .position p h1 h2
  | lower d h1 h2 h3 h4 => exact .lower d h1 h2 h3 h4
  | raise d h => cases h
  | start d h => cases h
  | place p e => exact .place p e
  | request q h => cases h

theorem Loads.ofPlace {asks rises : Bool} {s t : State} (h : Loads PlaceStep s t) : Loads (ChannelStep asks rises) s t := by
  refine h.mono fun r a b hc => ?_
  obtain ⟨p, e, rfl⟩ := hc
  exact .place p e

/-- An inhibit begins and ends at the start and the end of its outputs alone. -/
theorem Loads.inhibited {asks rises : Bool} {s t : State} (h : Loads (ChannelStep asks rises) s t) (c : Fin 4) :
    (t.chan c).state = .inhibited ↔ (s.chan c).state = .inhibited :=
  h.chans (R := fun _ a b => b.state = .inhibited ↔ a.state = .inhibited) (fun _ _ => .rfl)
    (fun _ _ _ _ h k => k.trans h) (fun _ _ _ h => h.inhibited) c

section
variable (s : State) (c : Fin 4)

theorem State.runs_iff : s.runs c = true ↔ (s.record c).present = true ∧ (s.chan c).state.running = true :=
  Bool.and_eq_true_iff

theorem State.onList_iff : s.onList c = true ↔ (s.record c).present = true ∧ (s.chan c).state.listed = true :=
  Bool.and_eq_true_iff

theorem Loads.stop (h : s.runs c = true) : Loads ShedStep s (s.stop c) := by
  have hset := Loads.chan (C := ShedStep) s c _ (.shed ((s.runs_iff c).mp h).1 ((s.runs_iff c).mp h).2)
  exact .ite (fun _ => hset.trans (.clear _ c)) (fun _ => hset)

theorem Loads.stopAll : Loads ShedStep s s.stopAll :=
  .foldl (fun t c => .ite (Loads.stop t c) (fun _ => .refl t)) _ s

theorem Loads.placeShed : Loads ShedStep s s.placeShed := by
  refine .foldl (fun t c => .ite (fun h => ?_) (fun _ => .refl t)) _ s
  obtain ⟨hp, hl⟩ := (t.onList_iff c).mp (Bool.and_eq_true_iff.mp h).1
  exact (Loads.chan t c _ (.position _ hp hl)).trans (.unit _ _ rfl rfl)

theorem Loads.resetCounter : Loads ShedStep s s.resetCounter := .ite (fun _ => .refl s) (fun _ => .unit s _ rfl rfl)

theorem Loads.finishShed : Loads ShedStep s s.finishShed := (Loads.placeShed s).trans (Loads.resetCounter _)

theorem Loads.dropRecord (s0 : State) : Loads ShedStep s (State.dropRecord s0 s) := .record s _

/-- The state in which a running channel is stopped is on the shed list. -/
theorem shedState_listed (r : ChannelRecord) : (shedState r).listed = true := by
  unfold shedState
  split <;> rfl

@[simp] theorem State.stop_chan (d : Fin 4) :
    (s.stop c).chan d = if c = d then (s.chan c).leave (shedState (s.record c)) else s.chan d := by
  unfold State.stop
  dsimp only
  split <;> simp [State.chan_setChan]

theorem Loads.returnShed (p : Placed) : Loads ShedStep s (s.returnShed p) := by
  refine .ite (fun h => ?_) (fun _ => .refl s)
  have hstop := Loads.stop s p.channel h
  refine (hstop.trans (.chan _ p.channel _ (.position _ ?_ ?_))).trans (.unit _ _ rfl rfl)
  · rw [hstop.recordOf]; exact ((s.runs_iff _).mp h).1
  · rw [State.stop_chan, if_pos rfl]; exact shedState_listed _

theorem Loads.leaveList (h : s.onList c = true) : Loads RequestStep s (s.leaveList c) := by
  obtain ⟨hp, hl⟩ := (s.onList_iff c).mp h
  refine (Loads.chan s c _ ?_).trans (.clear _ c)
  split
  · exact .off rfl hp hl
  · exact .wait rfl hp (.inr hl)

theorem Loads.endRequest : Loads RequestStep s (s.endRequest c) :=
  .ite (fun h => .ite
      (fun _ => (Loads.chan s c _ (.wait rfl ((s.runs_iff c).mp h).1 (.inl ((s.runs_iff c).mp h).2))).trans (.clear _ c))
      (fun _ => .refl s))
    (fun _ => .ite (Loads.leaveList s c) (fun _ => .refl s))

theorem Loads.fitDuty : Loads ShedStep s (s.fitDuty c) := by
  refine .ite (fun h => ?_) (fun _ => .refl s)
  simp only [Bool.and_eq_true, beq_iff_eq, decide_eq_true_eq] at h
  obtain ⟨⟨⟨hr, hk⟩, -⟩, hd⟩ := h
  exact .chan s c _ (.lower _ ((s.runs_iff c).mp hr).1 ((s.runs_iff c).mp hr).2 hk hd.le)

theorem Loads.refreshOne (h : (s.record c).present = true) : Loads RequestStep s (s.refreshOne c) := by
  unfold State.refreshOne
  dsimp only
  refine .ite (fun _ => (Loads.fitDuty s c).ofShed) (fun _ => ?_)
  have hset := Loads.chan (C := RequestStep) s c _ (.request (s.wantedRequest c) rfl h)
  exact .ite (fun _ => hset.trans (Loads.endRequest _ c)) (fun _ => hset.trans (Loads.fitDuty _ c).ofShed)

/-- What each present channel undergoes in turn. -/
theorem Loads.foldPresent {C : ChannelRecord → Channel → Channel → Prop} {f : State → Fin 4 → State}
    (h : ∀ s c, (s.record c).present = true → Loads C s (f s c)) : Loads C s (s.present.foldl f s) := by
  have key : ∀ (l : List (Fin 4)) (t : State), (∀ c ∈ l, (t.record c).present = true) → Loads C t (l.foldl f t) := by
    intro l
    induction l with
    | nil => exact fun t _ => .refl t
    | cons c l ih =>
      intro t hl
      have hc := h t c (hl c List.mem_cons_self)
      exact hc.trans (ih _ fun d hd => by rw [hc.recordOf]; exact hl d (List.mem_cons_of_mem _ hd))
  exact key _ s fun c hc => (List.mem_filter.mp hc).2

theorem Loads.refreshRequests : Loads RequestStep s s.refreshRequests :=
  (Loads.foldPresent s Loads.refreshOne).trans (Loads.resetCounter _).ofShed

theorem lowerTo_le (fits : Nat → Bool) (n : Nat) : lowerTo fits n ≤ n := by
  induction n using lowerTo.induct fits with
  | case1 => exact le_rfl
  | case2 => exact le_rfl
  | case3 n h => rw [lowerTo, if_pos h]
  | case4 n h ih => rw [lowerTo, if_neg h]; exact ih.trans (Nat.le_succ _)

theorem Loads.lowerDuty : Loads ShedStep s (s.lowerDuty c) := by
  refine .ite (fun h => ?_) (fun _ => .refl s)
  simp only [Bool.and_eq_true, beq_iff_eq] at h
  obtain ⟨⟨hr, hk⟩, -⟩ := h
  exact .chan s c _ (.lower _ ((s.runs_iff c).mp hr).1 ((s.runs_iff c).mp hr).2 hk (lowerTo_le _ _))

theorem Loads.shedStep (pick : State → Fin 4 → Bool) (short : Bool) :
    Loads ShedStep s (State.shedStep pick short s c) := by
  refine .ite (fun h => ?_) (fun _ => .refl s)
  simp only [Bool.and_eq_true] at h
  obtain ⟨⟨⟨-, hr⟩, -⟩, -⟩ := h
  exact .ite (fun _ => (Loads.stop s c hr).trans (.onset _ c)) (fun _ => Loads.stop s c hr)

theorem Loads.reduce : Loads ShedStep s s.reduce :=
  (((Loads.foldl Loads.lowerDuty _ s).trans (.foldl (fun t c => Loads.shedStep t c _ _) _ _)).trans
    (.foldl (fun t c => Loads.shedStep t c _ _) _ _)).trans (.foldl (fun t c => Loads.shedStep t c _ _) _ _)

theorem Loads.recordRestart : Loads ShedStep s (s.recordRestart c) := .ite (fun _ => .record s _) (fun _ => .refl s)

theorem largestDuty_le (rated limit n : Nat) : largestDuty rated limit n ≤ n := by
  induction n with
  | zero => exact le_rfl
  | succ n ih =>
    rw [largestDuty]
    split
    · exact le_rfl
    · exact ih.trans (Nat.le_succ n)

theorem State.startDuty_le : s.startDuty c ≤ (s.chan c).effective := by
  unfold State.startDuty
  split
  · exact largestDuty_le _ _ _
  · exact Nat.zero_le _

@[simp] theorem State.recordRestart_chan (d : Fin 4) : (s.recordRestart c).chan d = s.chan d := by
  unfold State.recordRestart
  split <;> rfl

theorem Loads.start (hs : (s.chan c).state.listed = true ∨ (s.chan c).state = .off) (hm : s.mayStart c = true) :
    Loads AdmitStep s (s.start c) := by
  have hrec := Loads.recordRestart s c
  simp only [State.mayStart, State.ready, Bool.and_eq_true] at hm
  obtain ⟨⟨⟨⟨hp, ha⟩, -⟩, -⟩, -⟩ := hm
  have hstart : AdmitStep (s.record c) (s.chan c)
      { s.chan c with state := .starting, minOn := 0, duty := s.startDuty c, shedPos := none } :=
    .start _ rfl hp hs ha (s.startDuty_le c) (fun hk => if_neg hk)
  have hnot : (s.chan c).state ≠ .starting := by
    intro h
    rw [h] at hs
    obtain h | h := hs <;> cases h
  refine (hrec.ofShed.trans (.chan _ c _ ?_)).trans (.spaced _ ⟨_, _, _, hstart, hnot, rfl⟩)
  rw [hrec.recordOf, State.recordRestart_chan]
  exact hstart

theorem Loads.raiseDuty (reserved : Nat) : Loads AdmitStep s (State.raiseDuty reserved s c) := by
  refine .ite (fun h => ?_) (fun _ => .refl s)
  simp only [Bool.and_eq_true, beq_iff_eq, decide_eq_true_eq] at h
  obtain ⟨⟨hr, hk⟩, hd⟩ := h
  exact .chan s c _ (.raise _ rfl ((s.runs_iff c).mp hr).1 ((s.runs_iff c).mp hr).2 hk (le_max_left _ _)
    (max_le hd.le (largestDuty_le _ _ _)))

/-- Insertion into an ordered list adds the channel alone. -/
theorem insertChannel_perm (le : Fin 4 → Fin 4 → Bool) (l : List (Fin 4)) : (insertChannel le c l).Perm (c :: l) := by
  induction l with
  | nil => exact .refl _
  | cons d l ih =>
    rw [insertChannel]
    split
    · exact .refl _
    · exact (ih.cons d).trans (.swap c d l)

theorem orderChannels_perm (le : Fin 4 → Fin 4 → Bool) (l : List (Fin 4)) : (orderChannels le l).Perm l := by
  induction l with
  | nil => exact .refl _
  | cons d l ih => exact (insertChannel_perm d le _).trans (ih.cons d)

theorem mem_channelNumbers : c ∈ channelNumbers := by revert c; decide

theorem State.mem_present : c ∈ s.present ↔ (s.record c).present = true := by
  simp [State.present, mem_channelNumbers]

theorem State.mem_byPriority : c ∈ s.byPriority ↔ (s.record c).present = true :=
  ((orderChannels_perm _ _).mem_iff).trans (s.mem_present c)

theorem State.mem_shedOrder : c ∈ s.shedOrder ↔ s.onList c = true := by
  rw [State.shedOrder, (orderChannels_perm _ _).mem_iff, List.mem_filter]
  exact and_iff_right (mem_channelNumbers c)

/-- The channel that restoration starts, if one can start: of the shed list first, else one that is OFF. -/
def State.restart (s : State) : Option (Fin 4) :=
  (s.shedOrder.find? s.mayStart).or (s.byPriority.find? (fun c => (s.chan c).state == ChannelState.off && s.mayStart c))

theorem State.restart_some {c : Fin 4} (h : s.restart = some c) :
    ((s.chan c).state.listed = true ∨ (s.chan c).state = .off) ∧ s.mayStart c = true := by
  rw [State.restart, Option.or_eq_some_iff] at h
  obtain h | ⟨-, h⟩ := h
  · have hm := List.mem_of_find?_eq_some h
    exact ⟨.inl ((s.onList_iff c).mp ((s.mem_shedOrder c).mp hm)).2, List.find?_some h⟩
  · have hm := List.find?_some h
    simp only [Bool.and_eq_true, beq_iff_eq] at hm
    exact ⟨.inr hm.1, hm.2⟩

/-- The state after restoration's start, if one can be made. -/
def State.restarted (s : State) : State :=
  match s.restart with
  | some c => s.start c
  | none => s

/-- Restoration: a start if one can be made, the reserved current, the duty raises. -/
theorem State.restore_eq : s.restore = if s.mayRestore then
    (s.restarted.byPriority.foldl (State.raiseDuty s.restarted.reservedCurrent) s.restarted).withLcm
      { (s.restarted.byPriority.foldl (State.raiseDuty s.restarted.reservedCurrent) s.restarted).lcm with
        reserved := s.restarted.reservedCurrent }
    else s := by
  have hstart : s.restarted = match s.shedOrder.find? s.mayStart with
      | some c => s.start c
      | none => match s.byPriority.find? (fun c => (s.chan c).state == ChannelState.off && s.mayStart c) with
        | some c => s.start c
        | none => s := by
    unfold State.restarted State.restart
    cases s.shedOrder.find? s.mayStart with
    | some c => rfl
    | none => cases s.byPriority.find? (fun c => (s.chan c).state == ChannelState.off && s.mayStart c) <;> rfl
  rw [hstart]
  rfl

theorem Loads.restarted : Loads AdmitStep s s.restarted := by
  unfold State.restarted
  split
  · next c h => exact Loads.start s c (s.restart_some h).1 (s.restart_some h).2
  · exact .refl s

theorem Loads.restore : Loads AdmitStep s s.restore := by
  rw [State.restore_eq]
  exact .ite (fun _ => ((Loads.restarted s).trans (.foldl (fun t c => Loads.raiseDuty t c _) _ _)).trans (.unit _ _ rfl rfl))
    (fun _ => .refl s)

theorem Loads.admission : Loads AdmitStep s s.admission :=
  .ite
    (fun _ => .ite (fun _ => (((Loads.stopAll s).trans (Loads.dropRecord _ _)).trans (Loads.finishShed _)).ofShed) (fun _ => .refl s))
    (fun _ => .ite (fun _ => (((Loads.reduce s).trans (Loads.dropRecord _ _)).trans (Loads.finishShed _)).ofShed)
      (fun _ => ((Loads.reduce s).ofShed.trans (Loads.restore _)).trans (Loads.resetCounter _).ofShed))

theorem Loads.admissions (cue : Cue) (os : List Inhibits) (s0 : State) :
    Loads AdmitStep s (State.admissions cue os s0 s) := by
  have h : Loads AdmitStep s (if s.ae.draw = s0.ae.draw then s else s.admission) :=
    .ite (fun _ => .refl s) (fun _ => Loads.admission s)
  exact .ite (fun _ => h.trans (Loads.admission _)) (fun _ => h)

theorem Loads.placeOn (p : Nat) : Loads PlaceStep s (s.placeOn c p) :=
  .ite (fun _ => .chan s c _ ⟨_, _, rfl⟩) (fun _ => .chan s c _ ⟨_, _, rfl⟩)

theorem Loads.spread (limit : State → Fin 4 → Nat) (l : List (Fin 4)) (left : Nat) :
    Loads PlaceStep s (State.spread limit s left l).1 := by
  induction l generalizing s left with
  | nil => exact .refl s
  | cons c l ih => exact (Loads.placeOn s c _).trans (ih _ _)

theorem Loads.settleShare (cue : Cue) : Loads PlaceStep s (s.settleShare cue) :=
  .ite (fun _ => (Loads.spread s _ _ _).trans (.unit _ _ rfl rfl)) (fun _ => (Loads.spread s _ _ _).trans (.unit _ _ rfl rfl))

theorem Loads.inhibitOne (o : Inhibits) (h : (s.record c).present = true) :
    Loads InhibitStep s (State.inhibitOne o s c) := by
  unfold State.inhibitOne
  dsimp only
  refine .ite (fun _ => .ite (fun _ => .refl s) (fun hi => ?_)) (fun _ => .ite (fun hi => ?_) (fun _ => .refl s))
  · have hset := Loads.chan s c _ (InhibitStep.inhibit h hi)
    exact .ite (fun _ => hset.trans (.clear _ c)) (fun _ => hset)
  · exact .chan s c _ (.free h hi)

theorem Loads.applyInhibits (o : Inhibits) : Loads InhibitStep s (s.applyInhibits o) :=
  (Loads.foldPresent s (fun t c => Loads.inhibitOne t c o)).trans (.ite (fun _ => .refl _) (fun _ => .unit _ _ rfl rfl))

end

/-- The array keeps the last evaluation, and the channels follow each (R158). -/
theorem Loads.evaluate (os : List Inhibits) (s : State) :
    Loads InhibitStep (if s.osm.op.evaluates then s.withIa s.evaluated else s) (s.evaluate os) := by
  unfold State.evaluate
  split
  · exact .foldl Loads.applyInhibits _ _
  · exact .refl s

/-- The forced stop at the start of a cut set, after the forcing (R124, R128). -/
theorem State.beginHeld_eq (s : State) : ∃ t, Loads ShedStep (s.zeroDraw.withCc { s.cc with phase := .held, offset := 0 }) t ∧
    s.beginHeld = t.withCc { t.cc with restSet := [], restRecord := [] } := by
  unfold State.beginHeld
  simp only [State.zeroDraw_cc]
  exact ⟨_, ((Loads.foldl Loads.returnShed _ _).trans ((Loads.stopAll _).trans (Loads.finishShed _))), rfl⟩

end Sys2Proof.Machine

/-! The changes a station's operations are built of, each of one block, each with what every operation keeps of that block.
What only some commands change is a change of its own, named by what it is special to. -/

namespace Sys2Proof.Machine

/-- The changes that belong to particular commands. -/
inductive Special where
  | moves
  | admits
  | computes
  | sleeps
  | flags
  | raises
  | frees (p : Pole)
  | heights
  | counts
  | places
  | loads
  | results
  | duplicates
  | counter
  | heat
  | readings
  | inputs
  | ports
  | stores
  | pages
deriving DecidableEq

/-- A duty is held by a running MODULATED channel alone, and an absent channel is OFF and asks for nothing. -/
def Channel.Rests (r : ChannelRecord) (a : Channel) : Prop :=
  (a.state.running = false ∨ r.kind ≠ .modulated → a.duty = 0) ∧ (r.present = false → a.state = .off ∧ a.request = 0)

/-- A change of a channel: no current rises and no idle channel asks or moves but in a pass over the blocks. -/
structure Channel.Eases (admits : Prop) (r : ChannelRecord) (a b : Channel) : Prop where
  rests : a.Rests r → b.Rests r
  load : admits ∨ loadCurrent r b ≤ loadCurrent r a
  idle : admits ∨ (a.state = .off ∧ a.request = 0 → b.state = .off ∧ b.request = 0)

/-- A change of the allotment engine outside a computation: no grant changes and no current rises. -/
structure Allotment.Eases (o : OpState) (a b : Allotment) : Prop where
  grants : b.grants = a.grants
  grant : b.grant = a.grant
  draw : b.draw ≤ a.draw
  regen : b.regen ≤ a.regen
  setpoint : b.setpoint = a.setpoint ∨ b.setpoint ≤ 1023
  setpointOut : b.setpointOut = a.setpointOut ∨ b.setpointOut = a.setpoint
  idle : o = .loading → a.computing = none → a.waiting = none → b.computing = none ∧ b.waiting = none

/-- A change of a pole record by the pole watch unit's own rules: no reference, no count, no way out of LOCKED_OUT or into
RAISING, and none out of LOWERING while the first sample is waited for. -/
structure PoleRecord.Moves (waits : Prop) (a b : PoleRecord) : Prop where
  height : b.height = a.height
  count : b.count = a.count
  locked : a.state = .lockedOut → b.state = .lockedOut
  raising : b.state = .raising → a.state = .raising
  lowering : waits → a.state = .lowering → b.state = .lowering

/-- Two pole records agree but for timers, history and the note of the SUSPECT cut. -/
def PoleRecord.core (r : PoleRecord) : PoleState × Nat × Nat := (r.state, r.height, r.count)

/-- The frames of the transmit queue are within their slots, by the unit alone. -/
def BusUnit.Fits (b : BusUnit) : Prop :=
  b.urgentSlots.length + b.driven .urgent ≤ 2 ∧ b.commandSlots.length + b.driven .command ≤ 3

/-- A change of the transmit side: within the slots, with the last result and the duplicate flag. -/
structure BusUnit.Queues (a b : BusUnit) : Prop where
  fits : a.Fits → b.Fits
  sequence : a.sequence < 256 → b.sequence < 256
  backoff : a.backoff ≤ 15 → b.backoff ≤ 15
  lastResult : b.lastResult = a.lastResult
  duplicate : b.duplicate = a.duplicate

/-- The poles wait for their first sample after LOADING, or LOADING lasts. -/
def State.waits (s : State) : Prop := s.pwu.loadPending = true ∨ s.osm.op = .loading

/-- R6, R4: an entry shows the own role, or no part. -/
def State.shows (s : State) (e : Entry) : Prop :=
  ∀ b, e.beacon = some b → b.part.role = s.osm.role ∨ b.part = .auxiliary

/-- R6, R4: the own entry shows the own role, or no part. -/
def State.OwnShown (s : State) : Prop := s.osm.number ≠ 0 → s.shows (s.entry s.osm.number)

/-- One change of one block. -/
inductive Change (E : List Special) (s : State) : State → Prop
  | osm (x : OpMachine) : x.carried = s.osm.carried → x.op = s.osm.op → Change E s (s.withOsm x)
  | moved (x : OpMachine) : .moves ∈ E → x.carried = s.osm.carried → (x.op = .loading → s.osm.op = .loading) →
      Change E s (s.withOsm x)
  | loaded (x : OpMachine) (c : Settings) (w : Bool) : .loads ∈ E → s.osm.op = .loading → x.op ≠ .loading →
      Change E s (((s.withOsm x).withSettings c).withPwu { s.pwu with loadPending := w })
  | su (x : SampleUnit) : x.ain = s.su.ain → x.din = s.su.din → Change E s (s.withSu x)
  | reading (x : SampleUnit) : .readings ∈ E → x.din = s.su.din → Change E s (s.withSu x)
  | input (x : SampleUnit) : .inputs ∈ E → x.ain = s.su.ain → Change E s (s.withSu x)
  | pvt (x : PeerTable) : (s.OwnShown → (s.withPvt x).OwnShown) → Change E s (s.withPvt x)
  | ae (x : Allotment) : s.ae.Eases s.osm.op x → Change E s (s.withAe x)
  | computed (x : Allotment) : .computes ∈ E → s.ae.computing ≠ none → x.computing = s.ae.computing →
      (s.ae.draw ≤ s.ae.grant → x.draw ≤ x.grant) → (s.ae.grant ≤ s.settings.stationMax → x.grant ≤ s.settings.stationMax) →
      x.setpoint = s.ae.setpoint → x.setpointOut = s.ae.setpointOut → Change E s (s.withAe x)
  | slept (x : Allotment) : .sleeps ∈ E → x.grant = 0 → x.draw = 0 → x.regen = 0 → x.computing = none → x.waiting = none →
      x.setpoint ≤ 1023 → x.setpointOut = s.ae.setpointOut → Change E s (s.withAe x)
  | cc (x : CutUnit) : (s.CutsOk → (s.withCc x).CutsOk) → (s.cc.counter < 256 → x.counter < 256) → Change E s (s.withCc x)
  | lcm (x : LoadUnit) : (∀ c : Fin 4, x.chans[c].steady = (s.chan c).steady) → (s.lcm.slot < 8 → x.slot < 8) →
      (∀ c : Fin 4, (s.chan c).Eases (.admits ∈ E) (s.record c) x.chans[c]) → Change E s (s.withLcm x)
  | flags (x : LoadUnit) : .flags ∈ E → x.slot = s.lcm.slot →
      (∀ c : Fin 4, (s.chan c).Eases (.admits ∈ E) (s.record c) x.chans[c]) → Change E s (s.withLcm x)
  | pole (p : Pole) (r : PoleRecord) : (s.pole p).Moves s.waits r → Change E s (s.setPole p r)
  | raised (p : Pole) (r : PoleRecord) : .raises ∈ E → (s.pole p).state = .stowed → r.core = (.raising, (s.pole p).core.2) →
      Change E s (s.setPole p r)
  | freed (p : Pole) (r : PoleRecord) : .frees p ∈ E → (s.pole p).state = .lockedOut → r.state = .stowed →
      r.height = (s.pole p).height → r.count = 0 → Change E s (s.setPole p r)
  | height (p : Pole) (r : PoleRecord) : .heights ∈ E → r.state = (s.pole p).state ∨ (s.pole p).state = .seeking ∧
      r.state = .onWire → r.count = (s.pole p).count → Change E s (s.setPole p r)
  | count (p : Pole) (r : PoleRecord) : .counts ∈ E → r.height = (s.pole p).height →
      ((s.pole p).count ≤ 15 → r.count ≤ 15) → r.state = (s.pole p).state ∨ (s.pole p).state = .suspect ∧ r.state = .dewired →
      Change E s (s.setPole p r)
  | placed (a b : PoleRecord) : .places ∈ E → s.pwu.loadPending = true → s.osm.op ≠ .loading →
      a.state ≠ .raising → b.state ≠ .raising → a.core.2 = s.pwu.pos.core.2 → b.core.2 = s.pwu.neg.core.2 →
      Change E s (s.withPwu { s.pwu with pos := a, neg := b, loadPending := false })
  | pwu (x : PoleUnit) : x.pos.core = s.pwu.pos.core → x.neg.core = s.pwu.neg.core →
      (x.loadPending = true → s.pwu.loadPending = true) → Change E s (s.withPwu x)
  | ia (x : Interlock) : Change E s (s.withIa x)
  | au (a : AlarmUnit) : (s.AlarmsOk → (s.withAu a).AlarmsOk) → Change E s (s.withAu a)
  | cf (x : ConsoleUnit) : x.heat = s.cf.heat → x.commandCounter = s.cf.commandCounter → Change E s (s.withCf x)
  | counter (x : ConsoleUnit) : .counter ∈ E → x.heat = s.cf.heat → x.commandCounter < 256 → Change E s (s.withCf x)
  | heat (x : ConsoleUnit) : .heat ∈ E → x.heat ≤ 8 → x.commandCounter = s.cf.commandCounter → Change E s (s.withCf x)
  | bus (x : BusUnit) : s.bus.Queues x → Change E s (s.withBus x)
  | result (r : Option (Nat × Nat)) : .results ∈ E → Change E s (s.withBus { s.bus with lastResult := r })
  | duplicate : .duplicates ∈ E → Change E s (s.withBus { s.bus with duplicate := true })
  | out (x : Outputs) : Change E s (s.withOut x)
  | port (x : PortAnswer) : .ports ∈ E → Change E s (s.withPort x)
  | stored (x : ConfigStore) : .stores ∈ E → x.image = s.cs.image → Change E s (s.withCs x)
  | paged (x : ConfigStore) : .pages ∈ E → (s.cs.image.wf = true → x.image.wf = true) → Change E s (s.withCs x)
  | free (n : Nat) : Change E s (s.withFreeCount n)

/-- What a sequence of changes leads to. -/
def Changes (E : List Special) : State → State → Prop := Relation.ReflTransGen (Change E)

namespace Channel.Eases

variable {P Q : Prop} {r : ChannelRecord} {a b c : Channel}

theorem mono (h : Channel.Eases P r a b) (k : P → Q) : Channel.Eases Q r a b := 
  ⟨h.rests, h.load.imp_left k, h.idle.imp_left k⟩

theorem trans (h : Channel.Eases P r a b) (k : Channel.Eases P r b c) : Channel.Eases P r a c :=
  ⟨fun ha => k.rests (h.rests ha), h.load.elim .inl fun hab => k.load.imp_right fun hbc => hbc.trans hab,
    h.idle.elim .inl fun hab => k.idle.imp_right fun hbc ha => hbc (hab ha)⟩

theorem loadCurrent_congr (hs : b.state = a.state) (hd : b.duty = a.duty) : loadCurrent r b = loadCurrent r a := by
  unfold loadCurrent
  rw [hs, hd]

/-- A change that keeps the state, the duty and the request. -/
theorem of_same (hs : b.state = a.state) (hd : b.duty = a.duty) (hq : b.request = a.request) : Channel.Eases P r a b := by
  refine ⟨fun h => ?_, .inr (loadCurrent_congr hs hd).le, .inr fun h => by rwa [hs, hq]⟩
  unfold Channel.Rests at h ⊢
  rw [hs, hd, hq]
  exact h

theorem refl (a : Channel) : Channel.Eases P r a a := of_same rfl rfl rfl

theorem loadCurrent_idle (h : b.state.running = false) : loadCurrent r b = 0 := by
  unfold loadCurrent
  rw [h, Bool.and_false]
  rfl

/-- A channel that comes to a rest. -/
theorem of_idle (hs : b.state.running = false) (hd : b.duty = 0) (hp : r.present = false → b.state = .off ∧ b.request = 0)
    (hi : P ∨ (a.state = .off ∧ a.request = 0 → b.state = .off ∧ b.request = 0)) : Channel.Eases P r a b :=
  ⟨fun _ => ⟨fun _ => hd, hp⟩, .inr ((loadCurrent_idle hs).trans_le (Nat.zero_le _)), hi⟩

theorem of_stop {st : ChannelState} (hst : st.running = false) (hp : r.present = true) (ha : P ∨ a.state ≠ .off) :
    Channel.Eases P r a (a.leave st) :=
  of_idle hst rfl (fun k => absurd (hp.symm.trans k) (by simp)) (ha.imp_right fun h k => absurd k.1 h)

theorem dutyCurrent_mono (rated : Nat) {d e : Nat} (h : d ≤ e) : dutyCurrent rated d ≤ dutyCurrent rated e :=
  Nat.div_le_div_right (Nat.mul_le_mul_left _ h)

/-- A channel whose duty falls. -/
theorem of_lower (hs : b.state = a.state) (hd : b.duty ≤ a.duty) (hq : b.request = a.request) : Channel.Eases P r a b := by
  refine ⟨fun h => ?_, .inr ?_, .inr fun h => by rwa [hs, hq]⟩
  · unfold Channel.Rests at h ⊢
    rw [hs, hq]
    exact ⟨fun k => Nat.le_zero.mp (hd.trans (h.1 k).le), h.2⟩
  · unfold loadCurrent
    rw [hs]
    split
    · split
      · exact le_rfl
      · exact le_rfl
      · exact dutyCurrent_mono _ hd
      · exact le_rfl
    · exact le_rfl

/-- A present channel that goes on running. -/
theorem of_run (ha : a.state.running = true) (hb : b.state.running = true) (hd : b.duty = a.duty) (hp : r.present = true) :
    Channel.Eases P r a b := by
  refine ⟨fun h => ⟨fun k => hd.trans (h.1 (k.imp_left fun e => absurd (hb.symm.trans e) (by simp))),
    fun k => absurd (hp.symm.trans k) (by simp)⟩, .inr (le_of_eq ?_), .inr fun h => by rw [h.1] at ha; cases ha⟩
  unfold loadCurrent
  rw [ha, hb, hd]

end Channel.Eases

section
variable {E F : List Special} {s t u : State}

theorem Changes.refl (s : State) : Changes E s s := Relation.ReflTransGen.refl

theorem Changes.trans (h : Changes E s t) (k : Changes E t u) : Changes E s u := Relation.ReflTransGen.trans h k

theorem Change.one (h : Change E s t) : Changes E s t := .single h

theorem Change.mono (hE : ∀ k ∈ E, k ∈ F) (h : Change E s t) : Change F s t := by
  cases h with
  | osm x h k => exact .osm x h k
  | moved x h k l => exact .moved x (hE _ h) k l
  | loaded x c w h k l => exact .loaded x c w (hE _ h) k l
  | su x h k => exact .su x h k
  | reading x h k => exact .reading x (hE _ h) k
  | input x h k => exact .input x (hE _ h) k
  | pvt x h => exact .pvt x h
  | ae x h => exact .ae x h
  | computed x h a b c d e f => exact .computed x (hE _ h) a b c d e f
  | slept x h a b c d e f g => exact .slept x (hE _ h) a b c d e f g
  | cc x h k => exact .cc x h k
  | lcm x h k l => exact .lcm x h k fun c => (l c).mono (hE _)
  | flags x h k l => exact .flags x (hE _ h) k fun c => (l c).mono (hE _)
  | pole p r h => exact .pole p r h
  | raised p r h a b => exact .raised p r (hE _ h) a b
  | freed p r h a b c d => exact .freed p r (hE _ h) a b c d
  | height p r h a b => exact .height p r (hE _ h) a b
  | count p r h a b c => exact .count p r (hE _ h) a b c
  | placed a b h c d e f g i => exact .placed a b (hE _ h) c d e f g i
  | pwu x h a b => exact .pwu x h a b
  | ia x => exact .ia x
  | au a h => exact .au a h
  | cf x h k => exact .cf x h k
  | counter x h a b => exact .counter x (hE _ h) a b
  | heat x h a b => exact .heat x (hE _ h) a b
  | bus x h => exact .bus x h
  | result r h => exact .result r (hE _ h)
  | duplicate h => exact .duplicate (hE _ h)
  | out x => exact .out x
  | port x h => exact .port x (hE _ h)
  | stored x h k => exact .stored x (hE _ h) k
  | paged x h k => exact .paged x (hE _ h) k
  | free n => exact .free n

theorem Changes.mono (h : Changes E s t) (hE : ∀ k ∈ E, k ∈ F) : Changes F s t := by
  induction h with
  | refl => exact .refl s
  | tail _ k ih => exact ih.trans (k.mono hE).one

/-- Changes special to no command are among those of any. -/
theorem Changes.any (h : Changes [] s t) : Changes E s t := h.mono (by simp)

theorem Changes.foldl {α : Type} {f : State → α → State} (h : ∀ s a, Changes E s (f s a)) (l : List α) (s : State) :
    Changes E s (l.foldl f s) := by
  induction l generalizing s with
  | nil => exact .refl s
  | cons a l ih => exact (h s a).trans (ih _)

theorem Changes.ite {p : Prop} [Decidable p] (h : p → Changes E s t) (k : ¬ p → Changes E s u) :
    Changes E s (if p then t else u) := by
  split
  · exact h ‹_›
  · exact k ‹_›

/-- What each change keeps, a sequence of changes keeps. -/
theorem Changes.keeps {P : State → Prop} (hc : ∀ s t, Change E s t → P s → P t) (h : Changes E s t) (hs : P s) : P t := by
  induction h with
  | refl => exact hs
  | tail _ k ih => exact hc _ _ k ih

/-- What each change leaves as it was, a sequence of changes leaves. -/
theorem Changes.same {α : Type} {f : State → α} (hc : ∀ s t, Change E s t → f t = f s) (h : Changes E s t) : f t = f s :=
  h.keeps (P := fun t => f t = f s) (fun _ _ k hs => (hc _ _ k).trans hs) rfl

end

end Sys2Proof.Machine

/-! The alarm table's bounds along raises, clears, acknowledgements, mirrored reports and orphans (R164 to R172). -/

namespace Sys2Proof.Machine

/-- Two entries of the table are of one kind, source and qualifier. -/
def AlarmEntry.sameKey (a b : AlarmEntry) : Prop := a.kind = b.kind ∧ a.source = b.source ∧ a.qualifier = b.qualifier

/-- R164: the bounds of the alarm table of station n. -/
structure AlarmsFit (n : Nat) (es : List AlarmEntry) : Prop where
  all : es.length ≤ 16
  own : (es.filter (fun e => e.source == n)).length ≤ 8
  keys : es.Pairwise (fun a b => ¬ a.sameKey b)

theorem State.alarmsOk_iff (s : State) :
    s.AlarmsOk ↔ AlarmsFit s.osm.number s.au.entries ∧ (s.osm.op = .loading → s.au.entries = []) :=
  ⟨fun ⟨a, b, c, d⟩ => ⟨⟨a, b, c⟩, d⟩, fun ⟨⟨a, b, c⟩, d⟩ => ⟨a, b, c, d⟩⟩

namespace AlarmsFit

variable {n : Nat} {es fs : List AlarmEntry}

theorem sublist (h : AlarmsFit n es) (k : fs.Sublist es) : AlarmsFit n fs :=
  ⟨k.length_le.trans h.all, (k.filter _).length_le.trans h.own, h.keys.sublist k⟩

/-- Entries changed in their state, count and marks. -/
theorem map (h : AlarmsFit n es) (f : AlarmEntry → AlarmEntry) (hf : ∀ e, (f e).sameKey e) : AlarmsFit n (es.map f) := by
  refine ⟨by simpa using h.all, ?_, ?_⟩
  · have hs : (fun e => e.source == n) ∘ f = fun e => e.source == n := funext fun e => by simp [(hf e).2.1]
    rw [List.filter_map, List.length_map, hs]
    exact h.own
  · rw [List.pairwise_map]
    refine h.keys.imp fun {a b} hab k => hab ?_
    obtain ⟨a1, a2, a3⟩ := hf a
    obtain ⟨b1, b2, b3⟩ := hf b
    obtain ⟨k1, k2, k3⟩ := k
    exact ⟨a1 ▸ b1 ▸ k1, a2 ▸ b2 ▸ k2, a3 ▸ b3 ▸ k3⟩

/-- An entry of a new kind, source and qualifier. -/
theorem append (h : AlarmsFit n es) {e : AlarmEntry} (hl : es.length ≤ 15)
    (ho : e.source = n → (es.filter (fun x => x.source == n)).length ≤ 7) (hk : ∀ x ∈ es, ¬ x.sameKey e) :
    AlarmsFit n (es ++ [e]) := by
  refine ⟨by rw [List.length_append]; exact Nat.succ_le_succ hl, ?_, ?_⟩
  · rw [List.filter_append, List.length_append]
    by_cases hs : e.source = n
    · rw [List.filter_singleton, beq_iff_eq.mpr hs]
      exact Nat.succ_le_succ (ho hs)
    · simpa [hs] using h.own
  · rw [List.pairwise_append]
    refine ⟨h.keys, List.pairwise_singleton _ _, fun a ha b hb => ?_⟩
    rw [List.mem_singleton.mp hb]
    exact hk a ha

end AlarmsFit

/-- The entries that a removal leaves. -/
theorem AlarmUnit.remove_entries (a : AlarmUnit) (p : AlarmEntry → Bool) :
    (a.remove p).entries = a.entries.filter (fun e => !p e) := by
  unfold AlarmUnit.remove
  dsimp only
  split
  · rfl
  · next h =>
    have hs := List.filter_sublist (p := fun e => !p e) (l := a.entries)
    exact (hs.eq_of_length_le (Nat.le_of_not_lt h)).symm

@[simp] theorem AlarmUnit.create_entries (a : AlarmUnit) (e : AlarmEntry) :
    (a.create e).entries = a.entries ++ [{ e with sequence := a.nextSeq }] := rfl

/-- The removal of one entry of a list. -/
theorem length_filter_ne {es : List AlarmEntry} {x : AlarmEntry} {p : AlarmEntry → Bool} (hx : x ∈ es) (hp : p x = true) :
    (es.filter (fun e => !p e)).length + 1 ≤ es.length :=
  List.length_filter_lt_length_iff_exists.mpr ⟨x, hx, by simp [hp]⟩

theorem sameEntry_self (x : AlarmEntry) : sameEntry x x = true := by simp [sameEntry]

section
variable (s : State) (k : AlarmKind) (q : Nat)

theorem State.isOwnKey_iff (e : AlarmEntry) :
    s.isOwnKey k q e = true ↔ e.source = s.osm.number ∧ e.kind = k ∧ e.qualifier = q := by
  simp [State.isOwnKey, State.ownAlarm, and_assoc]

/-- An entry made in the room of another, which is removed. -/
theorem AlarmsFit.replace {n : Nat} {a : AlarmUnit} (h : AlarmsFit n a.entries) {x e : AlarmEntry}
    (hx : x ∈ a.entries) (ho : e.source = n → x.source = n ∨ (a.entries.filter (fun y => y.source == n)).length ≤ 7)
    (hk : ∀ y ∈ a.entries, ¬ y.sameKey e) : AlarmsFit n ((a.remove (sameEntry x)).create e).entries := by
  rw [AlarmUnit.create_entries, AlarmUnit.remove_entries]
  have hsub := List.filter_sublist (p := fun y => !sameEntry x y) (l := a.entries)
  have hlen := length_filter_ne hx (sameEntry_self x)
  refine (h.sublist hsub).append (by have := h.all; omega) (fun he => ?_) fun y hy => hk y (hsub.mem hy)
  obtain hxn | hfew := ho he
  · have hown : x ∈ a.entries.filter (fun y => y.source == n) := List.mem_filter.mpr ⟨hx, by simp [hxn]⟩
    have hless := length_filter_ne hown (sameEntry_self x)
    rw [List.filter_filter] at hless ⊢
    simp only [Bool.and_comm] at hless ⊢
    have := h.own
    omega
  · exact (hsub.filter _).length_le.trans hfew

/-- R166: the creation of an own entry, where none of its kind and qualifier stands. -/
theorem State.createOwn_fits (h : AlarmsFit s.osm.number s.au.entries) (hk : ∀ e ∈ s.au.entries, s.isOwnKey k q e = false) :
    AlarmsFit s.osm.number (s.createOwn k q).au.entries := by
  have hkey : ∀ e ∈ s.au.entries, ¬ e.sameKey (s.newAlarm k q) := by
    intro e he ⟨h1, h2, h3⟩
    have := (s.isOwnKey_iff k q e).mpr ⟨h2, h1, h3⟩
    rw [hk e he] at this
    cases this
  have hfree : ∀ st x, s.oldestFree st = some x → x ∈ s.au.entries ∧ x.source = s.osm.number := by
    intro st x hx
    refine ⟨List.mem_of_find?_eq_some hx, ?_⟩
    have := List.find?_some hx
    simp only [State.ownAlarm, Bool.and_eq_true, beq_iff_eq] at this
    exact this.1.1
  unfold State.createOwn
  dsimp only
  split
  · split
    · next x hx => exact h.replace (hfree _ x hx).1 (fun _ => .inl (hfree _ x hx).2) hkey
    · split
      · next x hx => exact h.replace (hfree _ x hx).1 (fun _ => .inl (hfree _ x hx).2) hkey
      · exact h
  · next hfew =>
    have hown : (s.au.entries.filter (fun e => e.source == s.osm.number)).length ≤ 7 := by
      have : s.ownAlarm = fun e => e.source == s.osm.number := rfl
      rw [this] at hfew
      omega
    split
    · next hfull =>
      split
      · next x hx => exact h.replace (List.mem_of_find?_eq_some hx) (fun _ => .inr hown) hkey
      · next hnone =>
        have hall : s.au.entries.filter (fun e => e.source == s.osm.number) = s.au.entries := by
          rw [List.filter_eq_self]
          intro e he
          simpa [State.ownAlarm] using List.find?_eq_none.mp hnone e he
        rw [hall] at hown
        omega
    · next hroom => exact h.append (by omega) (fun _ => hown) hkey

/-- R166: a raise. -/
theorem State.raiseOwn_fits (h : AlarmsFit s.osm.number s.au.entries) :
    AlarmsFit s.osm.number (s.raiseOwn k q).au.entries := by
  unfold State.raiseOwn
  split
  · refine h.map _ fun e => ?_
    split <;> exact ⟨rfl, rfl, rfl⟩
  · next hn =>
    refine s.createOwn_fits k q h fun e he => ?_
    simp only [List.any_eq_true, not_exists, not_and, Bool.not_eq_true] at hn
    exact hn e he

theorem AlarmsFit.remove {n : Nat} {a : AlarmUnit} (h : AlarmsFit n a.entries) (p : AlarmEntry → Bool) :
    AlarmsFit n (a.remove p).entries := by
  rw [AlarmUnit.remove_entries]
  exact h.sublist List.filter_sublist

/-- R167: a clear. -/
theorem State.clearOwn_fits (h : AlarmsFit s.osm.number s.au.entries) :
    AlarmsFit s.osm.number (s.clearOwn k q).au.entries := by
  unfold State.clearOwn
  refine (h.remove _).map _ fun e => ?_
  split <;> exact ⟨rfl, rfl, rfl⟩

/-- R168: one acknowledgement. -/
theorem State.ackOne_fits (c : Nat) (h : AlarmsFit s.osm.number s.au.entries) :
    AlarmsFit s.osm.number (s.ackOne k q c).au.entries := by
  unfold State.ackOne
  refine (h.remove _).map _ fun e => ?_
  split <;> exact ⟨rfl, rfl, rfl⟩

/-- R175: the acknowledgement at the station itself. -/
theorem State.ackLocal_fits (h : AlarmsFit s.osm.number s.au.entries) :
    AlarmsFit s.osm.number s.ackLocal.au.entries := by
  unfold State.ackLocal
  refine ((h.remove _).remove _).map _ fun e => ?_
  split <;> exact ⟨rfl, rfl, rfl⟩

/-- R170: one record of a report of another station. -/
theorem State.mirrorOne_fits (n : Nat) (r : AlarmRecord) (hn : n ≠ s.osm.number)
    (h : AlarmsFit s.osm.number s.au.entries) : AlarmsFit s.osm.number (s.mirrorOne n r).au.entries := by
  unfold State.mirrorOne
  dsimp only
  split
  · refine h.map _ fun e => ?_
    split <;> exact ⟨rfl, rfl, rfl⟩
  · next hnone =>
    simp only [List.any_eq_true, not_exists, not_and, Bool.and_eq_true, beq_iff_eq] at hnone
    have hkey : ∀ x ∈ s.au.entries, ∀ e : AlarmEntry, e.kind = r.kind → e.source = n → e.qualifier = r.qualifier →
        ¬ x.sameKey e :=
      fun x hx e h1 h2 h3 ⟨k1, k2, k3⟩ => hnone x hx ⟨k2.trans h2, k1.trans h1⟩ (k3.trans h3)
    unfold State.createMirror
    split
    · split
      · next x hx =>
        exact h.replace (List.mem_of_find?_eq_some hx) (fun he => absurd he hn)
          (fun y hy => hkey y hy _ rfl rfl rfl)
      · exact h
    · next hroom =>
      exact h.append (by omega) (fun he => absurd he hn) (fun x hx => hkey x hx _ rfl rfl rfl)

end

end Sys2Proof.Machine

/-! The shared operations as sequences of changes: alarms, loads, cuts, poles, the bus, the operating state. -/

namespace Sys2Proof.Machine

section
variable {E : List Special} (s : State)

/-- A change of the alarm unit alone that keeps the table's bounds. -/
theorem Changes.alarms {t : State} (ht : ∃ a, t = s.withAu a)
    (hf : AlarmsFit s.osm.number s.au.entries → AlarmsFit s.osm.number t.au.entries)
    (hl : s.osm.op = .loading → s.au.entries = [] → t.au.entries = []) : Changes E s t := by
  obtain ⟨a, rfl⟩ := ht
  refine (Change.au a fun h => ?_).one
  rw [State.alarmsOk_iff] at h ⊢
  exact ⟨hf h.1, fun ho => hl ho (h.2 ho)⟩

theorem Changes.onset (k : AlarmKind) (q : Nat) : Changes E s (s.onset k q) := by
  obtain ⟨a, ha, -⟩ := s.onset_only k q
  refine Changes.alarms s ⟨a, ha⟩ (fun h => ?_) fun ho h => ?_
  · unfold State.onset
    split
    · exact State.raiseOwn_fits (s.withAu { s.au with inForce := s.au.inForce ++ [(k, q)] }) k q h
    · exact h
  · unfold State.onset
    rw [ho]
    exact h

theorem Changes.raiseDrop (p : Pole) : Changes E s (s.raiseDrop p) := by
  obtain ⟨a, ha, -⟩ := s.raiseDrop_only p
  refine Changes.alarms s ⟨a, ha⟩ (fun h => ?_) fun ho h => ?_
  · unfold State.raiseDrop
    split
    · split
      · exact State.raiseOwn_fits s _ _ h
      · exact State.raiseOwn_fits
          (s.withAu { s.au with inForce := s.au.inForce ++ [(.poleDrop, poleCode p)] }) _ _ h
    · exact h
  · unfold State.raiseDrop
    rw [ho]
    exact h

theorem Changes.clearCond (k : AlarmKind) (q : Nat) : Changes E s (s.clearCond k q) := by
  obtain ⟨a, ha, -⟩ := s.clearCond_only k q
  refine Changes.alarms s ⟨a, ha⟩ (fun h => ?_) fun ho h => ?_
  · unfold State.clearCond
    split
    · exact State.clearOwn_fits (s.withAu { s.au with inForce := s.au.inForce.filter (fun p => p != (k, q)) }) k q h
    · exact h
  · unfold State.clearCond
    rw [ho]
    exact h

theorem Changes.ackOne (k : AlarmKind) (q c : Nat) : Changes E s (s.ackOne k q c) :=
  Changes.alarms s ⟨_, rfl⟩ (s.ackOne_fits k q c) fun _ h => by
    simp [State.ackOne, AlarmUnit.remove_entries, h]

theorem Changes.ackLocal : Changes E s s.ackLocal :=
  Changes.alarms s ⟨_, rfl⟩ s.ackLocal_fits fun _ h => by
    simp [State.ackLocal, AlarmUnit.remove_entries, h]

theorem Changes.ackAll (rs : List AckRecord) : Changes E s (s.ackAll rs).1 := by
  induction rs generalizing s with
  | nil => exact .refl s
  | cons r rs ih =>
    rw [State.ackAll]
    split
    · exact ih s
    · exact (Changes.ackOne s _ _ _).trans (ih _)

theorem State.mirrorOne_only (n : Nat) (r : AlarmRecord) : ∃ a, s.mirrorOne n r = s.withAu a := by
  unfold State.mirrorOne State.createMirror
  dsimp only
  repeat' split
  all_goals exact ⟨_, rfl⟩

/-- R170: a report, record by record, after what it does not list has left. -/
theorem State.mirrorReport_eq (n : Nat) (rs : List AlarmRecord) : ∃ p : AlarmEntry → Bool, ∃ l : List AlarmRecord,
    ∃ o : State → Bool, s.mirrorReport n rs =
      let t := l.foldl (fun t r => t.mirrorOne n r) (s.withAu { s.au with entries := s.au.entries.filter p })
      if o t then t.withAu { t.au with overflow := false } else t := by
  refine ⟨fun e => !unreported n (firstRecords [] rs) e, firstRecords [] rs, fun t => decide
    ((s.au.entries.filter (fun e => !unreported n (firstRecords [] rs) e)).length < s.au.entries.length ∧
      t.au.entries.length ≤ 12), ?_⟩
  unfold State.mirrorReport
  simp only [decide_eq_true_eq]

theorem Changes.mirrorReport (n : Nat) (rs : List AlarmRecord) (hn : n ≠ s.osm.number) (ho : s.osm.op ≠ .loading) :
    Changes E s (s.mirrorReport n rs) := by
  obtain ⟨p, l, o, he⟩ := s.mirrorReport_eq n rs
  have hfold : ∀ (l : List AlarmRecord) (t : State), n ≠ t.osm.number → t.osm.op ≠ .loading →
      Changes E t (l.foldl (fun t r => t.mirrorOne n r) t) := by
    intro l
    induction l with
    | nil => exact fun t _ _ => .refl t
    | cons r l ih =>
      intro t hn ho
      obtain ⟨a, ha⟩ := t.mirrorOne_only n r
      refine (Changes.alarms t ⟨a, ha⟩ (t.mirrorOne_fits n r hn) fun h => absurd h ho).trans (ih _ ?_ ?_)
      · rw [ha]; exact hn
      · rw [ha]; exact ho
  rw [he]
  have hkept : Changes E s (s.withAu { s.au with entries := s.au.entries.filter p }) :=
    Changes.alarms s ⟨_, rfl⟩ (fun h => h.sublist List.filter_sublist) fun h => absurd h ho
  refine (hkept.trans (hfold l _ hn ho)).trans (.ite (fun _ => ?_) fun _ => .refl _)
  exact Changes.alarms _ ⟨_, rfl⟩ id fun _ h => h

theorem Changes.markOrphans (n : Nat) : Changes E s (s.markOrphans n) := by
  refine Changes.alarms s ⟨_, rfl⟩ (fun h => h.map _ fun e => ?_) fun _ h => ?_
  · split <;> exact ⟨rfl, rfl, rfl⟩
  · simp [State.markOrphans, h]

theorem Changes.removeAlarms (p : AlarmEntry → Bool) : Changes E s (s.withAu (s.au.remove p)) :=
  Changes.alarms s ⟨_, rfl⟩ (fun h => h.remove p) fun _ h => by simp [AlarmUnit.remove_entries, h]

theorem Changes.dropOrphans (n : Nat) : Changes E s (s.dropOrphans n) :=
  .ite (fun _ => .refl s) fun _ => Changes.removeAlarms s _

theorem Changes.alarmsDormant : Changes E s s.alarmsDormant :=
  ((Changes.foldl (fun t (p : AlarmKind × Nat) => Changes.clearCond t p.1 p.2) _ s).trans (Changes.removeAlarms _ _)).trans
    (Changes.alarms _ ⟨_, rfl⟩ id fun _ h => h)

/-- The operations of the load channel manager. -/
theorem Loads.changes {C : ChannelRecord → Channel → Channel → Prop} (hC : ∀ r a b, C r a b → b.steady = a.steady)
    (hL : ∀ r a b, C r a b → a.Eases (.admits ∈ E) r b)
    {s t : State} (h : Loads C s t) : Changes E s t := by
  induction h with
  | refl s => exact .refl s
  | trans _ _ ih ih' => exact ih.trans ih'
  | chan s c ch h =>
    refine (Change.lcm { s.lcm with chans := s.lcm.chans.set c ch } (fun d => ?_) id fun d => ?_).one
    · have := s.chan_setChan c d ch
      simp only [State.chan, State.setChan, State.withLcm_lcm] at this ⊢
      rw [this]
      split
      · next e => rw [← e]; exact hC _ _ _ h
      · rfl
    · have := s.chan_setChan c d ch
      simp only [State.chan, State.setChan, State.withLcm_lcm] at this ⊢
      rw [this]
      split
      · next e => rw [← e]; exact hL _ _ _ h
      · exact .refl _
  | unit s x h k =>
    simp only [Prod.mk.injEq] at k
    exact (Change.lcm x (fun d => by rw [h]; rfl) (k.2.1 ▸ id) fun d => by rw [h]; exact .refl _).one
  | spaced s => exact (Change.lcm { s.lcm with spacing := 0, spacingRuns := true } (fun _ => rfl) id fun _ => .refl _).one
  | record s l => exact (Change.cc { s.cc with restRecord := l } id id).one
  | onset s c => exact Changes.onset s _ _
  | clear s c => exact Changes.clearCond s _ _

end

end Sys2Proof.Machine

/-! The cut set's bounds along originations, releases and what is heard (R115 to R125), and its operations as sequences of
changes. -/

namespace Sys2Proof.Machine

/-- R115, R123: the bounds of the cut set of station n. -/
structure CutsFit (n : Nat) (es : List CutEntry) : Prop where
  all : es.length ≤ 8
  keys : es.Pairwise (fun a b => ¬ (a.origin = b.origin ∧ a.cause = b.cause))
  own : ∀ e ∈ es, e.own = (e.origin == n)

theorem State.cutsOk_iff (s : State) :
    s.CutsOk ↔ CutsFit s.osm.number s.cc.cuts ∧ (s.cc.cuts ≠ [] ↔ s.cc.phase = .held) ∧
      (s.osm.op = .loading → s.cc.cuts = []) :=
  ⟨fun ⟨a, b, c, d, e⟩ => ⟨⟨a, b, c⟩, d, e⟩, fun ⟨⟨a, b, c⟩, d, e⟩ => ⟨a, b, c, d, e⟩⟩

theorem dropOldestPeer_sublist (es : List CutEntry) : (dropOldestPeer es).Sublist es := by
  induction es with
  | nil => exact .slnil
  | cons e es ih =>
    rw [dropOldestPeer]
    split
    · exact ih.cons_cons e
    · exact List.sublist_cons_self e es

theorem length_dropOldestPeer {es : List CutEntry} {x : CutEntry} (hx : x ∈ es) (ho : x.own = false) :
    (dropOldestPeer es).length + 1 = es.length := by
  induction es with
  | nil => cases hx
  | cons e es ih =>
    rw [dropOldestPeer]
    split
    · next he =>
      obtain rfl | hx := List.mem_cons.mp hx
      · rw [ho] at he; cases he
      · rw [List.length_cons, ih hx, List.length_cons]
    · rfl

theorem CutEntry.isOf_iff (e : CutEntry) (o : Nat) (c : CutCause) : e.isOf o c = true ↔ e.origin = o ∧ e.cause = c := by
  simp [CutEntry.isOf]

/-- The eight causes of Table 6-2. -/
def allCauses : List CutCause := poleCauses ++ [.driver]

theorem mem_allCauses (c : CutCause) : c ∈ allCauses := by cases c <;> decide

namespace CutsFit

variable {n : Nat} {es fs : List CutEntry}

theorem nil : CutsFit n [] := ⟨Nat.zero_le _, .nil, fun _ h => nomatch h⟩

theorem sublist (h : CutsFit n es) (k : fs.Sublist es) : CutsFit n fs :=
  ⟨k.length_le.trans h.all, h.keys.sublist k, fun e he => h.own e (k.mem he)⟩

theorem append (h : CutsFit n es) {e : CutEntry} (hl : es.length ≤ 7) (ho : e.own = (e.origin == n))
    (hk : ∀ x ∈ es, ¬ (x.origin = e.origin ∧ x.cause = e.cause)) : CutsFit n (es ++ [e]) := by
  refine ⟨by rw [List.length_append]; exact Nat.succ_le_succ hl, ?_, ?_⟩
  · rw [List.pairwise_append]
    refine ⟨h.keys, List.pairwise_singleton _ _, fun a ha b hb => ?_⟩
    rw [List.mem_singleton.mp hb]
    exact hk a ha
  · intro x hx
    obtain hx | hx := List.mem_append.mp hx
    · exact h.own x hx
    · rw [List.mem_singleton.mp hx]; exact ho

/-- R123: eight own entries bear the eight causes, so a set in which a cause is not held has a peer's entry to drop. -/
theorem exists_peer (h : CutsFit n es) (hl : 8 ≤ es.length) {c : CutCause} (hc : ownCause es c = false) :
    ∃ x ∈ es, x.own = false := by
  by_contra hall
  simp only [not_exists, not_and, Bool.not_eq_false] at hall
  have horig : ∀ e ∈ es, e.origin = n := fun e he => beq_iff_eq.mp ((h.own e he).symm.trans (hall e he))
  have hnodup : (es.map CutEntry.cause).Nodup := by
    rw [List.Nodup, List.pairwise_map]
    refine h.keys.imp_of_mem fun {a b} ha hb hab e => hab ⟨?_, e⟩
    rw [horig a ha, horig b hb]
  have hmiss : c ∉ es.map CutEntry.cause := by
    rintro hm
    obtain ⟨e, he, rfl⟩ := List.mem_map.mp hm
    have : ownCause es e.cause = true := List.any_eq_true.mpr ⟨e, he, by simp [hall e he]⟩
    rw [this] at hc
    cases hc
  have hsub : ∀ d ∈ c :: es.map CutEntry.cause, d ∈ allCauses := fun d _ => mem_allCauses d
  have hlen := ((List.nodup_cons.mpr ⟨hmiss, hnodup⟩).subperm hsub).length_le
  rw [List.length_cons, List.length_map] at hlen
  have : allCauses.length = 8 := rfl
  omega

/-- R116, R117, R123: the set after an origination. -/
theorem originated (h : CutsFit n es) {c : CutCause} (hc : ownCause es c = false) (k : Nat) :
    CutsFit n ((if 8 ≤ es.length then dropOldestPeer es else es) ++ [⟨n, c, k, true⟩]) := by
  have hkey : ∀ x ∈ es, ¬ (x.origin = n ∧ x.cause = c) := by
    intro x hx ⟨h1, h2⟩
    have : ownCause es c = true := List.any_eq_true.mpr ⟨x, hx, by simp [h.own x hx, h1, h2]⟩
    rw [this] at hc
    cases hc
  split
  · next hl =>
    obtain ⟨x, hx, ho⟩ := h.exists_peer hl hc
    have hlen := length_dropOldestPeer hx ho
    have hall := h.all
    exact (h.sublist (dropOldestPeer_sublist es)).append (by omega) (by simp)
      fun y hy => hkey y ((dropOldestPeer_sublist es).mem hy)
  · next hl => exact h.append (by omega) (by simp) hkey

/-- R119: the set after a CUT of another station. -/
theorem entered (h : CutsFit n es) {o : Nat} (ho : o ≠ n) (c : CutCause) (k : Nat) : CutsFit n (enterCut es o c k) := by
  have hnone : ∀ fs : List CutEntry, (∀ x ∈ fs, x.isOf o c = false) →
      ∀ x ∈ fs, ¬ (x.origin = o ∧ x.cause = c) := by
    intro fs hfs x hx hk
    have := (x.isOf_iff o c).mpr hk
    rw [hfs x hx] at this
    cases this
  have hown : (false : Bool) = (o == n) := by simp [ho]
  unfold enterCut
  split
  · exact h
  · split
    · next hany =>
      obtain ⟨x, hx, hxo⟩ := List.any_eq_true.mp hany
      have hlen : (es.filter (fun e => !e.isOf o c)).length + 1 ≤ es.length :=
        List.length_filter_lt_length_iff_exists.mpr ⟨x, hx, by simp [hxo]⟩
      have hall := h.all
      exact (h.sublist List.filter_sublist).append (by omega) hown
        (hnone _ fun y hy => by simpa using (List.mem_filter.mp hy).2)
    · next hany =>
      have hes : ∀ x ∈ es, x.isOf o c = false := by simpa using hany
      split
      · next hl => exact h.append (by omega) hown (hnone es hes)
      · split
        · next hpeer =>
          obtain ⟨x, hx, hxo⟩ := List.any_eq_true.mp hpeer
          have hlen := length_dropOldestPeer hx (by simpa using hxo)
          have hall := h.all
          exact (h.sublist (dropOldestPeer_sublist es)).append (by omega) hown
            (hnone _ fun y hy => hes y ((dropOldestPeer_sublist es).mem hy))
        · exact h

/-- R121: the set after the cut list of a beacon of another station. -/
theorem listed (h : CutsFit n es) {o : Nat} (ho : o ≠ n) (l : List CutRecord) : CutsFit n (applyCutList es o l) := by
  refine sublist ?_ List.filter_sublist
  induction l generalizing es with
  | nil => exact h
  | cons r l ih => exact ih (h.entered ho _ _)

end CutsFit

section
variable {E : List Special} (s : State)

theorem State.zeroDraw_withCc (x : CutUnit) : (s.withCc x).zeroDraw = s.zeroDraw.withCc x := by
  have h : ∀ t : State, (t.withCc x).clearCond .sinkShort 0 = (t.clearCond .sinkShort 0).withCc x := by
    intro t
    unfold State.clearCond
    split
    · next hc =>
      rw [if_pos (show (t.osm.op.alarmsTaken && t.inForce .sinkShort 0) = true from hc)]
      rfl
    · next hc => rw [if_neg (show ¬ (t.osm.op.alarmsTaken && t.inForce .sinkShort 0) = true from hc)]
  exact h (s.withAe { s.ae with draw := 0, regen := 0, share := 0, shareBase := 0 })

theorem Allotment.Eases.refl (o : OpState) (a : Allotment) : a.Eases o a :=
  ⟨rfl, rfl, le_rfl, le_rfl, .inl rfl, .inl rfl, fun _ h k => ⟨h, k⟩⟩

theorem Changes.zeroDraw : Changes E s s.zeroDraw :=
  (Change.ae { s.ae with draw := 0, regen := 0, share := 0, shareBase := 0 }
    ⟨rfl, rfl, Nat.zero_le _, Nat.zero_le _, .inl rfl, .inl rfl, fun _ h k => ⟨h, k⟩⟩).one.trans
    (Changes.clearCond _ _ _)

theorem Changes.forceZero : Changes E s s.forceZero := .ite (fun _ => Changes.zeroDraw s) fun _ => .refl s

theorem ChannelStep.steady {asks rises : Bool} {r : ChannelRecord} {a b : Channel} (h : ChannelStep asks rises r a b) : b.steady = a.steady := by
  cases h <;> rfl

theorem InhibitStep.steady {r : ChannelRecord} {a b : Channel} (h : InhibitStep r a b) : b.steady = a.steady := by
  cases h <;> rfl

/-- Only an admission event raises a current. -/
theorem ChannelStep.eases {asks rises : Bool} {r : ChannelRecord} {a b : Channel} (h : ChannelStep asks rises r a b) :
    a.Eases (asks = true ∨ rises = true) r b := by
  cases h with
  | shed hp hs =>
    refine .of_stop ?_ hp (.inr fun k => by rw [k] at hs; cases hs)
    unfold shedState
    split <;> rfl
  | wait ha hp => exact .of_stop rfl hp (.inl (.inl ha))
  | off ha hp => exact .of_stop rfl hp (.inl (.inl ha))
  | position p => exact .of_same rfl rfl rfl
  | lower d _ _ _ hd => exact .of_lower rfl hd rfl
  | raise d hr hp hs hk =>
    exact ⟨fun h => ⟨fun k => k.elim (fun e => absurd (hs.symm.trans e) (by simp)) fun e => absurd hk e, h.2⟩, .inl (.inr hr), .inl (.inr hr)⟩
  | start d hr hp _ _ _ hd =>
    exact ⟨fun _ => ⟨fun k => k.elim nofun hd, fun k => absurd (hp.symm.trans k) (by simp)⟩, .inl (.inr hr), .inl (.inr hr)⟩
  | place p e => exact .of_same rfl rfl rfl
  | request q ha hp => exact ⟨fun h => ⟨h.1, fun k => absurd (hp.symm.trans k) (by simp)⟩, .inr le_rfl, .inl (.inl ha)⟩

/-- Shedding starts nothing and follows no request. -/
theorem ShedStep.eases {P : Prop} {r : ChannelRecord} {a b : Channel} (h : ShedStep r a b) : a.Eases P r b :=
  (ChannelStep.eases h).mono fun h => h.elim Bool.false_ne_true.elim Bool.false_ne_true.elim

theorem InhibitStep.eases {P : Prop} (hP : P) {r : ChannelRecord} {a b : Channel} (h : InhibitStep r a b) : a.Eases P r b := by
  cases h with
  | inhibit hp => exact .of_idle rfl rfl (fun k => absurd (hp.symm.trans k) (by simp)) (.inl hP)
  | free hp => exact .of_stop rfl hp (.inl hP)

theorem Loads.steps {asks rises : Bool} {s t : State} (h : Loads (ChannelStep asks rises) s t)
    (hE : .admits ∈ E) : Changes E s t :=
  h.changes (fun _ _ _ => ChannelStep.steady) fun _ _ _ h => h.eases.mono fun _ => hE

theorem Loads.sheds {s t : State} (h : Loads ShedStep s t) : Changes E s t :=
  h.changes (fun _ _ _ => ChannelStep.steady) fun _ _ _ => ShedStep.eases

theorem Loads.inhibits {s t : State} (h : Loads InhibitStep s t) (hE : .admits ∈ E) : Changes E s t :=
  h.changes (fun _ _ _ => InhibitStep.steady) fun _ _ _ => InhibitStep.eases hE

/-- The cut unit with its contents, its phase and its offset replaced, within the bounds of the set. -/
theorem Changes.cuts (cuts : List CutEntry) (p : Phase) (o : Nat)
    (hf : CutsFit s.osm.number s.cc.cuts → CutsFit s.osm.number cuts)
    (hp : (s.cc.cuts ≠ [] ↔ s.cc.phase = .held) → (cuts ≠ [] ↔ p = .held))
    (hl : s.osm.op = .loading → s.cc.cuts = [] → cuts = []) :
    Changes E s (s.withCc { s.cc with cuts := cuts, phase := p, offset := o }) := by
  refine (Change.cc { s.cc with cuts := cuts, phase := p, offset := o } (fun h => ?_) id).one
  rw [State.cutsOk_iff] at h ⊢
  obtain ⟨h1, h2, h3⟩ := h
  exact ⟨hf h1, hp h2, fun ho => hl ho (h3 ho)⟩

theorem Changes.putCuts (cuts : List CutEntry) (hf : CutsFit s.osm.number s.cc.cuts → CutsFit s.osm.number cuts)
    (hl : s.osm.op = .loading → s.cc.cuts = [] → cuts = []) : Changes E s (s.putCuts cuts) := by
  unfold State.putCuts
  refine .ite (fun h => ?_) fun h => .ite (fun k => ?_) fun k => ?_
  · have hset := Changes.cuts (E := E) s cuts .held 0 hf (fun _ => ⟨fun _ => rfl, fun _ => h.2⟩) hl
    obtain ⟨t, hload, heq⟩ := State.beginHeld_eq (s.withCc { s.cc with cuts := cuts })
    rw [heq]
    rw [State.zeroDraw_withCc] at hload
    refine ((hset.trans ?_).trans hload.sheds).trans (Change.cc { t.cc with restSet := [], restRecord := [] } id id).one
    have hzero := Changes.zeroDraw (E := E) (s.withCc { s.cc with cuts := cuts, phase := .held, offset := 0 })
    rwa [State.zeroDraw_withCc] at hzero
  · exact Changes.cuts s cuts .offset 0 hf (fun _ => by simp [k.2.1]) hl
  · refine Changes.cuts s cuts s.cc.phase s.cc.offset hf (fun hp => ?_) hl
    rw [← hp]
    by_cases h1 : s.cc.cuts = []
    · exact ⟨fun hc => absurd ⟨h1, hc⟩ h, fun hc => absurd h1 hc⟩
    · exact ⟨fun _ => h1, fun _ hc => k ⟨h1, hc, hp.mp h1⟩⟩

theorem BusUnit.putUrgent_queues (b : BusUnit) (m : Message) : b.Queues (b.putUrgent m) := by
  unfold BusUnit.putUrgent
  split
  · next h =>
    refine ⟨fun ⟨_, hc⟩ => ⟨?_, hc⟩, id, id, rfl, rfl⟩
    show (b.urgentSlots ++ [m]).length + b.driven .urgent ≤ 2
    rw [List.length_append]
    exact (by omega : b.urgentSlots.length + 1 + b.driven .urgent ≤ 2)
  · next h =>
    have hdriven : ∀ k, BusUnit.driven { b with
        urgentSlots := b.urgentSlots.drop 1 ++ [m]
        sending := b.sending.map (fun x =>
          if x.slot = .urgent then { x with dropped := true, displaced := b.urgentSlots.head? } else x) } k = b.driven k := by
      intro k
      unfold BusUnit.driven
      cases hs : b.sending with
      | none => rfl
      | some x =>
        dsimp only [Option.map_some]
        split <;> rfl
    refine ⟨fun ⟨hu, hc⟩ => ⟨?_, by rw [hdriven]; exact hc⟩, id, id, rfl, rfl⟩
    rw [hdriven]
    show (b.urgentSlots.drop 1 ++ [m]).length + b.driven .urgent ≤ 2
    have hone : b.driven .urgent ≤ 1 := by
      unfold BusUnit.driven
      split
      · split <;> omega
      · omega
    rw [List.length_append, List.length_drop]
    exact (by omega : b.urgentSlots.length - 1 + 1 + b.driven .urgent ≤ 2)

theorem Changes.pushUrgent (m : Message) : Changes E s (s.pushUrgent m) :=
  (Change.bus _ (BusUnit.putUrgent_queues _ _)).one

theorem Changes.originate (c : CutCause) (ho : s.osm.op ≠ .loading) : Changes E s (s.originate c) := by
  unfold State.originate
  refine .ite (fun _ => .refl s) fun hc => ?_
  rw [State.holdsCut_eq, Bool.not_eq_true] at hc
  have hcount := (Change.cc (E := E) (s := s) { s.cc with counter := (freeNumber s.heldNumbers 9 s.cc.counter + 1) % 256 } id
    fun _ => Nat.mod_lt _ (by decide)).one
  exact (hcount.trans (Changes.putCuts _ _ (fun h => h.originated hc _) fun h => absurd h ho)).trans
    (Changes.pushUrgent _ _)

theorem Changes.releaseOwn (c : CutCause) : Changes E s (s.releaseOwn c) := by
  unfold State.releaseOwn
  split
  · exact .refl s
  · exact (Changes.putCuts s _ (fun h => h.sublist List.filter_sublist) fun _ h => by simp [h]).trans
      (Changes.pushUrgent _ _)

theorem OpState.serves_not_loading {o : OpState} (h : o.serves = true) : o ≠ .loading := by
  rintro rfl
  cases h

theorem Changes.driverCut : Changes E s s.driverCut :=
  .ite (fun h => .ite (fun _ => Changes.originate s _ (OpState.serves_not_loading h.2)) fun _ => Changes.releaseOwn s _)
    fun _ => .refl s

theorem Changes.settleRestoring : Changes E s s.settleRestoring := by
  refine .ite (fun h => ?_) fun _ => .refl s
  refine (Change.cc { s.cc with phase := .none, restSet := [], restRecord := [] } (fun k => ?_) id).one
  rw [State.cutsOk_iff] at k ⊢
  obtain ⟨h1, h2, h3⟩ := k
  have hno : ¬ s.cc.cuts ≠ [] := fun hc => by rw [h2.mp hc] at h; cases h.1
  exact ⟨h1, ⟨fun hc => absurd hc hno, fun hc => nomatch hc⟩, h3⟩

end

end Sys2Proof.Machine

/-! The pole watch unit's operations as sequences of changes. -/

namespace Sys2Proof.Machine

theorem PoleRecord.Moves.of_core {w : Prop} {a b : PoleRecord} (h : b.core = a.core) : a.Moves w b := by
  simp only [PoleRecord.core, Prod.mk.injEq] at h
  obtain ⟨h1, h2, h3⟩ := h
  exact ⟨h2, h3, fun k => h1.trans k, fun k => h1 ▸ k, fun _ k => h1.trans k⟩

/-- A pole that leaves neither LOCKED_OUT nor, while the first sample is waited for, LOWERING, and does not enter RAISING. -/
theorem PoleRecord.Moves.enter {w : Prop} {r : PoleRecord} {st : PoleState} (hl : r.state = .lockedOut → st = .lockedOut)
    (hr : st ≠ .raising) (hw : w → r.state = .lowering → st = .lowering) : r.Moves w (r.enter st) :=
  ⟨rfl, rfl, hl, fun h => absurd h hr, hw⟩

section
variable {E : List Special} {s t : State}

theorem Change.not_loading (h : Change E s t) (hs : s.osm.op ≠ .loading) : t.osm.op ≠ .loading := by
  cases h with
  | osm x _ k => exact fun e => hs (k.symm.trans e)
  | moved x _ _ k => exact fun e => hs (k e)
  | loaded x c w _ _ k => exact k
  | _ => exact hs

theorem Changes.not_loading (h : Changes E s t) (hs : s.osm.op ≠ .loading) : t.osm.op ≠ .loading :=
  h.keeps (P := fun s => s.osm.op ≠ .loading) (fun _ _ => Change.not_loading) hs

theorem Change.not_waits (h : Change E s t) (hE : .loads ∉ E) (hs : ¬ s.waits) : ¬ t.waits := by
  rw [State.waits, not_or] at hs ⊢
  refine ⟨?_, h.not_loading hs.2⟩
  cases h with
  | loaded x c w k => exact absurd k hE
  | pole p r => cases p <;> exact hs.1
  | raised p r => cases p <;> exact hs.1
  | freed p r => cases p <;> exact hs.1
  | height p r => cases p <;> exact hs.1
  | count p r => cases p <;> exact hs.1
  | placed a b => exact Bool.false_ne_true
  | pwu x _ _ k => exact fun e => hs.1 (k e)
  | _ => exact hs.1

theorem Changes.not_waits (h : Changes E s t) (hE : .loads ∉ E) (hs : ¬ s.waits) : ¬ t.waits :=
  h.keeps (P := fun s => ¬ s.waits) (fun _ _ k => k.not_waits hE) hs

end

section
variable {E : List Special} (s : State)

/-- A change of the unit beside its records' states, references and counts. -/
theorem Changes.unit (x : PoleUnit) (hp : x.pos = s.pwu.pos := by rfl) (hn : x.neg = s.pwu.neg := by rfl)
    (hl : x.loadPending = s.pwu.loadPending := by rfl) : Changes E s (s.withPwu x) :=
  (Change.pwu x (by rw [hp]) (by rw [hn]) (by rw [hl]; exact id)).one

theorem Changes.enterPole (p : Pole) (st : PoleState) (hl : (s.pole p).state = .lockedOut → st = .lockedOut)
    (hr : st ≠ .raising) (hw : s.waits → (s.pole p).state = .lowering → st = .lowering) :
    Changes E s (s.enterPole p st) := (Change.pole p _ (.enter hl hr hw)).one

theorem Changes.lowerIf (f : PoleState → Bool) (hf : f .lockedOut = false) (p : Pole) :
    Changes E s (State.lowerIf f s p) :=
  .ite (fun h => Changes.enterPole s p _ (fun k => by rw [k, hf] at h; cases h) (by decide) fun _ _ => rfl)
    fun _ => .refl s

theorem Changes.lowerAll (f : PoleState → Bool) (hf : f .lockedOut = false) :
    Changes E s (bothPoles.foldl (State.lowerIf f) s) := .foldl (fun t p => Changes.lowerIf t f hf p) _ s

theorem Changes.endRaise : Changes E s s.endRaise := Changes.unit s _

theorem Changes.abandonRaise : Changes E s s.abandonRaise :=
  ((Changes.lowerAll s _ rfl).trans (Changes.endRaise _)).trans (Changes.onset _ _ _)

theorem Changes.endDrain : Changes E s s.endDrain :=
  (Changes.unit s { s.pwu with operation := .lowerDescent, drainTimer := 0 }).trans (Changes.lowerAll _ _ rfl)

theorem Changes.checkDrain : Changes E s s.checkDrain := .ite (fun _ => Changes.endDrain s) fun _ => .refl s

theorem Changes.beginLowering : Changes E s s.beginLowering :=
  (Changes.unit s { s.pwu with operation := .lowerDrain, drainTimer := 0 }).trans (Changes.checkDrain _)

theorem Changes.beginRaise (hE : .raises ∈ E) (hp : s.pwu.pos.state = .stowed) (hn : s.pwu.neg.state = .stowed) :
    Changes E s s.beginRaise :=
  ((Change.raised .pos _ hE hp rfl).one.trans (Change.raised (s := s.enterPole .pos .raising) .neg _ hE hn rfl).one).trans
    (Changes.unit _ _)

theorem Changes.returnPole (p : Pole) (h : (s.pole p).state = .suspect) : Changes E s (s.returnPole p) := by
  unfold State.returnPole
  dsimp only
  have hset := (Change.pole (E := E) p
    { (s.pole p).enter .onWire with bounces := recordBounce (s.pole p).bounces s.osm.uptime }
    ⟨rfl, rfl, fun k => absurd (h.symm.trans k) (by decide), fun k => PoleState.noConfusion k,
      fun _ k => absurd (h.symm.trans k) (by decide)⟩).one
  have honset : Changes E s (if (recordBounce (s.pole p).bounces s.osm.uptime).length = 4 then
      (s.setPole p { (s.pole p).enter .onWire with bounces := recordBounce (s.pole p).bounces s.osm.uptime }).onset .bounce
        (poleCode p)
      else s.setPole p { (s.pole p).enter .onWire with bounces := recordBounce (s.pole p).bounces s.osm.uptime }) :=
    .ite (fun _ => hset.trans (Changes.onset _ _ _)) fun _ => hset
  refine .ite (fun _ => honset.trans (Changes.enterPole _ _ _ (fun k => ?_) (by decide) fun _ _ => rfl)) fun _ => honset
  have hstate : ∀ t : State, t.pwu = (s.setPole p { (s.pole p).enter .onWire with
      bounces := recordBounce (s.pole p).bounces s.osm.uptime }).pwu → (t.pole p).state = .onWire := by
    intro t ht
    rw [State.pole, ht, ← State.pole, State.pole_setPole, if_pos rfl]
    rfl
  rw [hstate] at k
  · cases k
  · split
    · exact State.onset_pwu _ _ _
    · rfl

theorem Changes.dewire (hE : .counts ∈ E) (p : Pole) (h : (s.pole p).state = .suspect) : Changes E s (s.dewire p) := by
  unfold State.dewire
  dsimp only
  have hset := (Change.count (E := E) (s := s) p { (s.pole p).enter .dewired with count := min 15 ((s.pole p).count + 1) } hE rfl
    (fun _ => Nat.min_le_left _ _) (.inr ⟨h, rfl⟩)).one
  have hdrop := hset.trans (Changes.raiseDrop _ p)
  have hstate : (((s.setPole p { (s.pole p).enter .dewired with
      count := min 15 ((s.pole p).count + 1) }).raiseDrop p).pole p).state = .dewired := by
    rw [State.pole, State.raiseDrop_pwu, ← State.pole, State.pole_setPole, if_pos rfl]
    rfl
  have hfall := hdrop.trans (Changes.enterPole _ p .retrieving (fun k => by rw [hstate] at k; cases k) (by decide)
    fun _ k => by rw [hstate] at k; cases k)
  have hlower := hfall.trans (Changes.lowerIf _ PoleState.up rfl (otherPole p))
  exact .ite (fun _ => hlower.trans (Changes.unit _ _)) fun _ => hlower

theorem Changes.judgeWindow (p : Pole) : Changes E s (s.judgeWindow p) := by
  unfold State.judgeWindow
  split
  · next h =>
    refine .ite (fun _ => .refl s) fun _ => Changes.enterPole s p _ (fun k => ?_) (by decide) fun _ k => ?_
    · rw [h] at k; cases k
    · rw [h] at k; cases k
  · next h => exact .ite (fun _ => Changes.returnPole s p h) fun _ => .refl s
  · exact .refl s

theorem Changes.expireWindow (hE : .counts ∈ E) (p : Pole) (h : (s.pole p).state = .suspect) :
    Changes E s (s.expireWindow p) :=
  .ite (fun _ => Changes.returnPole s p h) fun _ => Changes.dewire s hE p h

theorem Changes.openLine : Changes E s s.openLine := by
  refine .ite (fun _ => .refl s) fun _ => ?_
  have hset := Changes.unit (E := E) s { s.pwu with line := .isOpen, gapTimer := 0 }
  exact .ite (fun _ => hset.trans (Changes.clearCond _ _ _)) fun _ => hset

theorem Changes.clearDown (p : Pole) : Changes E s (s.clearDown p) :=
  .ite (fun _ => (Changes.clearCond s _ _).trans (Changes.clearCond _ _ _)) fun _ => .refl s

theorem Changes.endDescent : Changes E s s.endDescent := by
  unfold State.endDescent
  dsimp only
  have hdown : Changes E s (bothPoles.foldl State.clearDown s) := .foldl Changes.clearDown _ s
  generalize bothPoles.foldl State.clearDown s = t at hdown
  refine .ite (fun _ => ?_) fun _ => hdown
  exact (hdown.trans (.ite (fun _ => Changes.unit t _) fun _ => .refl t)).trans (Changes.clearCond _ _ _)

theorem Changes.updateSource : Changes E s s.updateSource := Changes.unit s _

theorem Changes.originateAll (w : Option Pole) (l : List CutCause) (ho : s.osm.op ≠ .loading) :
    Changes E s (l.foldl (State.originateIf w) s) := by
  induction l generalizing s with
  | nil => exact .refl s
  | cons c l ih =>
    have hone : Changes E s (State.originateIf w s c) := .ite (fun _ => Changes.originate s c ho) fun _ => .refl s
    exact hone.trans (ih _ (hone.not_loading ho))

theorem Changes.syncPoleCuts (w : Option Pole) (ho : s.osm.op ≠ .loading) : Changes E s (s.syncPoleCuts w) :=
  ((Changes.originateAll s w _ ho).trans
    (.foldl (fun t c => .ite (fun _ => .refl t) fun _ => Changes.releaseOwn t c) _ _)).trans
    (Change.pwu _ (by rfl) (by rfl) (by exact id)).one

theorem Changes.finishPoles (w : Option Pole) : Changes E s (s.finishPoles w) := by
  refine .ite (fun h => ?_) fun _ => .refl s
  have hopen : Changes E s s.openLine.endDescent.updateSource :=
    ((Changes.openLine s).trans (Changes.endDescent _)).trans (Changes.updateSource _)
  exact hopen.trans (Changes.syncPoleCuts _ w
    (hopen.not_loading (OpState.serves_not_loading (State.polesRun_role h).2)))

theorem Changes.polesReadTable : Changes E s s.polesReadTable :=
  .ite (fun _ => (Changes.checkDrain s).trans (Changes.finishPoles _ _)) fun _ => .refl s

theorem Changes.ropeChange (p : Pole) : Changes E s (s.ropeChange p) :=
  .ite (fun _ => (Changes.ite (fun _ => Changes.abandonRaise s) fun _ => Changes.judgeWindow s p).trans
    (Changes.finishPoles _ _)) fun _ => .refl s

theorem Changes.judgeRaise (hE : s.pwu.pos.state = .stowed → s.pwu.neg.state = .stowed → .raises ∈ E) :
    Changes E s s.judgeRaise.1 := by
  unfold State.judgeRaise
  dsimp only
  split
  · exact .refl s
  split
  · exact .refl s
  split
  · exact .refl s
  split
  · next h => exact (Changes.beginRaise s (hE h.1 h.2) h.1 h.2).trans (Changes.finishPoles _ _)
  · exact .refl s

theorem Changes.judgeLower : Changes E s s.judgeLower.1 := by
  unfold State.judgeLower
  dsimp only
  split
  · exact .refl s
  split
  · exact .refl s
  split
  · exact ((Changes.lowerAll s _ rfl).trans (Changes.endRaise _)).trans (Changes.finishPoles _ _)
  split
  · exact (Changes.beginLowering s).trans (Changes.finishPoles _ _)
  · exact .refl s

theorem Changes.freePole (p : Pole) (hE : .frees p ∈ E) : Changes E s (s.freePole p) :=
  .ite (fun h => (Change.freed p _ hE h (by rfl) (by rfl) (by rfl)).one.trans (Changes.clearCond _ _ _)) fun _ => .refl s

theorem Changes.freePoles (ps : List Pole) (hE : ∀ p ∈ ps, .frees p ∈ E) : Changes E s (ps.foldl State.freePole s) := by
  induction ps generalizing s with
  | nil => exact .refl s
  | cons p ps ih =>
    exact (Changes.freePole s p (hE p List.mem_cons_self)).trans (ih _ fun q hq => hE q (List.mem_cons_of_mem p hq))

theorem Changes.judgeClear (a : Nat) (hE : ∀ ps, polesNamed a = some ps → s.standstill = true → ∀ p ∈ ps, .frees p ∈ E) :
    Changes E s (s.judgeClear a).1 := by
  unfold State.judgeClear
  split
  · exact .refl s
  · next ps hps =>
    split
    · next hs => exact (Changes.freePoles s ps (hE ps hps hs)).trans (Changes.finishPoles _ _)
    · exact .refl s

theorem Changes.takeElevation (p : Pole) : Changes E s (s.takeElevation p) := (Change.pole p _ (.of_core (by rfl))).one

theorem Changes.trackPole (hE : .heights ∈ E) (p : Pole) : Changes E s (s.trackPole p) :=
  .ite (fun _ => (Change.height p _ hE (.inl (by rfl)) (by rfl)).one) fun _ => .refl s

theorem Changes.trackPoles (hE : .heights ∈ E) : Changes E s s.trackPoles :=
  have hfold : Changes E s (bothPoles.foldl State.trackPole s) := .foldl (fun t p => Changes.trackPole t hE p) _ s
  hfold.trans (Changes.unit _ _)

theorem Changes.takeElevations (hE : .heights ∈ E) : Changes E s s.takeElevations :=
  have hfold : Changes E s (bothPoles.foldl State.takeElevation s) := .foldl Changes.takeElevation _ s
  (hfold.trans (Changes.unit _ _)).trans (.ite (fun _ => Changes.trackPoles _ hE) fun _ => .refl _)

theorem State.placePoles_eq : s.placePoles = if s.pwu.loadPending then s.withPwu { s.pwu with
    pos := s.pwu.pos.enter (if s.elevation .pos < s.settings.ehook then .stowed else .lowering)
    neg := s.pwu.neg.enter (if s.elevation .neg < s.settings.ehook then .stowed else .lowering)
    loadPending := false } else s := rfl

theorem Changes.placePoles (hE : .places ∈ E) (ho : s.osm.op ≠ .loading) :
    Changes E s s.placePoles ∧ ¬ s.placePoles.waits := by
  rw [State.placePoles_eq]
  split
  · next h =>
    refine ⟨(Change.placed _ _ hE h ho ?_ ?_ (by rfl) (by rfl)).one, fun k => ?_⟩
    · show (if _ then _ else _) ≠ _
      split <;> decide
    · show (if _ then _ else _) ≠ _
      split <;> decide
    · obtain k | k := k
      · cases k
      · exact ho k
  · next h => exact ⟨.refl s, fun k => k.elim h ho⟩

theorem Changes.fallPole (p : Pole) (hw : ¬ s.waits) : Changes E s (s.fallPole p) := by
  unfold State.fallPole
  dsimp only
  split
  · next h =>
    have hfall := (Bool.and_eq_true_iff.mp h).1
    have hno : (s.pole p).state ≠ .lockedOut := fun k => by rw [k] at hfall; cases hfall
    split
    · exact (Changes.enterPole s p _ (fun _ => rfl) (by decide) fun k => absurd k hw).trans (Changes.onset _ _ _)
    · exact Changes.enterPole s p _ (fun k => absurd k hno) (by decide) fun k => absurd k hw
  · split
    · next h =>
      have hst := beq_iff_eq.mp (Bool.and_eq_true_iff.mp h).1
      exact Changes.enterPole s p _ (fun k => by rw [hst] at k; cases k) (by decide) fun k => absurd k hw
    · exact .refl s

theorem Changes.fallPoles (hE : .loads ∉ E) (hw : ¬ s.waits) : Changes E s (bothPoles.foldl State.fallPole s) :=
  have hpos := Changes.fallPole s .pos hw
  hpos.trans (Changes.fallPole _ .neg (hpos.not_waits hE hw))

theorem Changes.seekPole (p : Pole) : Changes E s (s.seekPole p) := by
  refine .ite (fun h => ?_) fun _ => .refl s
  have hst := beq_iff_eq.mp (Bool.and_eq_true_iff.mp h).1
  exact Changes.enterPole s p _ (fun k => by rw [hst] at k; cases k) (by decide) fun _ k => by rw [hst] at k; cases k

theorem Changes.checkEmax : Changes E s s.checkEmax := .ite (fun _ => Changes.abandonRaise s) fun _ => .refl s

theorem Changes.checkContact (hE : .heights ∈ E) : Changes E s s.checkContact := by
  refine .ite (fun h => ?_) fun _ => .refl s
  obtain ⟨hp, hn, -⟩ := h
  have hpos := (Change.height .pos { (s.pole .pos).enter .onWire with height := s.elevation .pos, forgive := 0 } hE
    (.inr ⟨hp, rfl⟩) rfl).one
  have hneg := (Change.height (s := s.contactPole .pos) .neg
    { (s.pole .neg).enter .onWire with height := s.elevation .neg, forgive := 0 } hE (.inr ⟨hn, rfl⟩) rfl).one
  exact ((hpos.trans hneg).trans (Changes.endRaise _)).trans (Changes.unit _ _)

theorem Changes.judgeLine : Changes E s s.judgeLine := by
  unfold State.judgeLine
  split
  · exact .ite (fun _ => Changes.unit s _) fun _ => .refl s
  · exact .ite (fun _ => Changes.unit s _) fun _ => .refl s
  · exact .ite (fun _ => (Changes.unit s _).trans (Changes.clearCond _ _ _)) fun _ => .refl s
  · exact .refl s

theorem Changes.samplePolesRun (hp : .places ∈ E) (hh : .heights ∈ E) (hE : .loads ∉ E) (ho : s.osm.op ≠ .loading) :
    Changes E s s.samplePolesRun := by
  obtain ⟨hplace, hw⟩ := Changes.placePoles s hp ho
  have ha := hplace.trans (Changes.fallPoles _ hE hw)
  have hb := ((ha.trans (.foldl Changes.seekPole bothPoles _)).trans (Changes.checkEmax _)).trans (Changes.checkContact _ hh)
  exact (((hb.trans (Changes.judgeLine _)).trans (Changes.updateSource _)).trans
    (.foldl Changes.judgeWindow bothPoles _)).trans (Changes.finishPoles _ _)

theorem Changes.samplePolesIdle (hp : .places ∈ E) (hE : .loads ∉ E) (ho : s.osm.op ≠ .loading) :
    Changes E s s.samplePolesIdle := by
  obtain ⟨hplace, hw⟩ := Changes.placePoles s hp ho
  exact hplace.trans (Changes.fallPoles _ hE hw)

theorem Changes.samplePoles (hp : .places ∈ E) (hh : .heights ∈ E) (hE : .loads ∉ E) (ho : s.osm.op ≠ .loading) :
    Changes E s s.samplePoles := by
  refine .ite (fun _ => ?_) fun _ => .refl s
  have htake := Changes.takeElevations s hh
  exact .ite (fun _ => htake.trans (Changes.samplePolesRun _ hp hh hE (htake.not_loading ho)))
    fun _ => htake.trans (Changes.samplePolesIdle _ hp hE (htake.not_loading ho))

end

end Sys2Proof.Machine

/-! The blocks' reaction, and every command's own effect, as sequences of changes. -/

namespace Sys2Proof.Machine

section
variable {E : List Special} (s : State)

/-- A change of the allotment engine that touches no grant and no current. -/
theorem Changes.engine (x : Allotment) (h : (x.grants, x.grant, x.draw, x.regen) = (s.ae.grants, s.ae.grant, s.ae.draw, s.ae.regen)
      := by rfl)
    (k : (x.setpoint, x.setpointOut, x.computing, x.waiting) =
      (s.ae.setpoint, s.ae.setpointOut, s.ae.computing, s.ae.waiting) := by rfl) : Changes E s (s.withAe x) := by
  simp only [Prod.mk.injEq] at h k
  exact (Change.ae x ⟨h.1, h.2.1, h.2.2.1.le, h.2.2.2.le, .inl k.1, .inl k.2.1, fun _ hc hw =>
    ⟨k.2.2.1.trans hc, k.2.2.2.trans hw⟩⟩).one

theorem Changes.evaluate (hA : .admits ∈ E) (os : List Inhibits) : Changes E s (s.evaluate os) :=
  (Changes.ite (fun _ => (Change.ia _).one) fun _ => .refl s).trans ((Loads.evaluate os s).inhibits hA)

theorem Changes.clampRegen (os : List Inhibits) : Changes E s (s.clampRegen os) := by
  have hclamp := (Change.ae (E := E) (s := s) { s.ae with
    regenRequest := if s.regenBarred s.ia.outputs || (s.osm.op.evaluates && os.any s.regenBarred) then 0 else s.ae.regenRequest
    regen := min s.ae.regen
      (if s.regenBarred s.ia.outputs || (s.osm.op.evaluates && os.any s.regenBarred) then 0 else s.ae.regenRequest)
    barred := s.ae.barred || (s.regenBarred s.ia.outputs || (s.osm.op.evaluates && os.any s.regenBarred)) }
    ⟨rfl, rfl, le_rfl, Nat.min_le_left _ _, .inl rfl, .inl rfl, fun _ h k => ⟨h, k⟩⟩).one
  exact hclamp.trans (Changes.engine _ _)

theorem Changes.rebuildClaims : Changes E s s.rebuildClaims :=
  (Change.lcm { s.lcm with claims := s.builtClaims } (fun _ => rfl) id fun _ => .refl _).one.trans (Changes.engine _ _)

theorem Changes.settleBlocks (hA : .admits ∈ E) (cue : Cue) (s0 : State) : Changes E s (State.settleBlocks cue s0 s) := by
  have hforce := (Changes.driverCut (E := E) s).trans (Changes.forceZero _)
  unfold State.settleBlocks
  exact (((((((hforce.trans (Changes.evaluate _ hA _)).trans ((Loads.refreshRequests _).steps hA)).trans
    (Changes.clampRegen _ _)).trans ((Loads.admissions _ _ _ _).steps hA)).trans (Changes.settleRestoring _)).trans
    (Changes.rebuildClaims _))).trans (Loads.settleShare _ _).ofPlace.sheds

theorem State.OwnShown.setEntry {n : Nat} {e : Entry} (hs : s.OwnShown)
    (h : n = s.osm.number → s.shows (s.entry n) → s.shows e) : (s.setEntry n e).OwnShown := by
  intro h0
  show s.shows ((s.setEntry n e).entry s.osm.number)
  rw [State.entry_setEntry]
  split
  · next hn => exact h hn.1 (hn.1 ▸ hs h0)
  · exact hs h0

theorem Changes.setEntry (n : Nat) (e : Entry) (h : n = s.osm.number → s.shows (s.entry n) → s.shows e) :
    Changes E s (s.setEntry n e) := (Change.pvt _ fun hs => hs.setEntry s h).one

/-- The entry of a station, with its beacon as it is stored or none. -/
theorem Changes.ageEntry (n : Nat) (e : Entry) (h : e.beacon = (s.entry n).beacon ∨ e.beacon = none) :
    Changes E s (s.setEntry n e) :=
  Changes.setEntry s n e fun _ hs b hb => by
    obtain h | h := h
    · exact hs b (h ▸ hb)
    · exact nomatch h.symm.trans hb

theorem State.reperiod_beacon (n : Nat) : (s.reperiod n).beacon = (s.entry n).beacon := by
  unfold State.reperiod
  dsimp only
  split
  · rfl
  · rfl
  · rfl

theorem Changes.reperiodAll : Changes E s s.reperiodAll :=
  .foldl (fun t n => Changes.ageEntry t n _ (.inl (t.reperiod_beacon n))) _ s

theorem Changes.restartDue : Changes E s s.restartDue := Changes.engine s _

theorem Changes.startCarrier : Changes E s s.startCarrier :=
  (Change.lcm { s.lcm with carrierOn := true, slot := 0, slotClock := 0 } (fun _ => rfl) (fun _ => (by decide : 0 < 8))
    fun _ => .refl _).one

theorem Changes.startTracking : Changes E s s.startTracking := .ite (fun _ => Changes.unit s _) fun _ => .refl s

/-- A change of the console functions that keeps the heat duty and the command counter. -/
theorem Changes.console (x : ConsoleUnit) (h : x.heat = s.cf.heat := by rfl)
    (k : x.commandCounter = s.cf.commandCounter := by rfl) : Changes E s (s.withCf x) := (Change.cf x h k).one

theorem Changes.startFlash : Changes E s s.startFlash := .ite (fun _ => Changes.console s _) fun _ => .refl s

theorem Changes.readSpecial : Changes E s s.readSpecial := .ite (fun _ => Changes.console s _) fun _ => .refl s

theorem Changes.enterOp (hE : .moves ∈ E) (o : OpState) (ho : o ≠ .loading) : Changes E s (s.enterOp o) :=
  (Change.moved { s.osm with op := o, listen := 0, dormancy := 0 } hE rfl fun h => absurd h ho).one

theorem Changes.wake (hE : .moves ∈ E) : Changes E s s.wake :=
  (((((Changes.enterOp s hE _ (by decide)).trans (Changes.restartDue _)).trans (Changes.startCarrier _)).trans
    (Changes.startTracking _)).trans (Changes.startFlash _)).trans (Changes.readSpecial _)

theorem Changes.leaveParked (hE : .moves ∈ E) : Changes E s s.leaveParked :=
  ((Changes.enterOp s hE _ (by decide)).trans (Changes.restartDue _)).trans (Changes.reperiodAll _)

/-- A change of a channel that keeps its cap and its pressure flags. -/
theorem Changes.channel (c : Fin 4) (ch : Channel) (h : ch.steady = (s.chan c).steady)
    (he : (s.chan c).Eases (.admits ∈ E) (s.record c) ch) : Changes E s (s.setChan c ch) :=
  (Loads.chan (C := fun r a b => b.steady = a.steady ∧ a.Eases (.admits ∈ E) r b) s c ch ⟨h, he⟩).changes (fun _ _ _ h => h.1)
    fun _ _ _ h => h.2

theorem Changes.parkChannel (c : Fin 4) : Changes E s (s.parkChannel c) := by
  unfold State.parkChannel
  refine .ite (fun hp => (Changes.channel s c _ ?_ ?_).trans (Changes.clearCond _ _ _)) fun _ => .refl s
  · generalize (if (s.chan c).state.running = true then ChannelState.waiting
      else if (s.chan c).state.listed = true then if s.minOffElapsed c = true then .off else .waiting
      else (s.chan c).state) = st
    split <;> rfl
  · have hp : (s.record c).present = true := (Bool.and_eq_true_iff.mp hp).1
    have hst : (if (s.chan c).state.running = true then ChannelState.waiting
        else if (s.chan c).state.listed = true then if s.minOffElapsed c = true then .off else .waiting
        else (s.chan c).state).running = false := by
      split
      · rfl
      · next hr =>
        split
        · split <;> rfl
        · simpa using hr
    have hoff : (s.chan c).state = .off → (if (s.chan c).state.running = true then ChannelState.waiting
        else if (s.chan c).state.listed = true then if s.minOffElapsed c = true then .off else .waiting
        else (s.chan c).state) = (s.chan c).state := fun k => by
      rw [k]
      rfl
    generalize (if (s.chan c).state.running = true then ChannelState.waiting
      else if (s.chan c).state.listed = true then if s.minOffElapsed c = true then .off else .waiting
      else (s.chan c).state) = st at hst hoff ⊢
    have hclear : ∀ a : Channel, a.Eases (.admits ∈ E) (s.record c)
        { a with request := 0, cyclePending := false, cycle := 0, sinkDuty := 0, placed := 0 } := fun a =>
      ⟨fun h => ⟨h.1, fun k => absurd (hp.symm.trans k) (by simp)⟩, .inr le_rfl, .inr fun h => ⟨h.1, rfl⟩⟩
    refine Channel.Eases.trans ?_ (hclear _)
    split
    · exact .refl _
    · next hne => exact .of_stop hst hp (.inr fun k => hne (hoff k))

theorem Changes.enterParked (hE : .moves ∈ E) : Changes E s s.enterParked :=
  ((((Changes.enterOp s hE _ (by decide)).trans (Changes.restartDue _)).trans (Changes.reperiodAll _)).trans
    (.foldl Changes.parkChannel _ _)).trans (Loads.resetCounter _).sheds

/-- The frame that is driven, with its marks changed, holds its slot. -/
theorem BusUnit.driven_mapped {a b : BusUnit} (f : Sending → Sending) (hs : b.sending = a.sending.map f)
    (hf : ∀ x, (f x).slot = x.slot) (k : Slot) : b.driven k = a.driven k := by
  unfold BusUnit.driven
  rw [hs]
  cases a.sending with
  | none => rfl
  | some x => simp only [Option.map_some, hf]

theorem Changes.dropPattern : Changes E s (s.withBus s.bus.dropPattern) := by
  have hdriven := BusUnit.driven_mapped (a := s.bus) (b := s.bus.dropPattern) _ rfl
    fun x => by split <;> rfl
  refine (Change.bus s.bus.dropPattern ⟨fun hf => ?_, id, id, rfl, rfl⟩).one
  unfold BusUnit.Fits at hf ⊢
  rwa [hdriven, hdriven]

theorem Changes.endPattern (hE : .moves ∈ E) : Changes E s s.endPattern :=
  ((Changes.enterOp s hE _ (by decide)).trans (Changes.startCarrier _)).trans (Changes.dropPattern _)

theorem Changes.autoMove (hE : .moves ∈ E) : Changes E s s.autoMove := by
  unfold State.autoMove
  split
  · exact .ite (fun _ => Changes.enterParked s hE) fun _ => .refl s
  · exact .ite (fun _ => Changes.leaveParked s hE) fun _ => .refl s
  · exact .ite (fun _ => .refl s) fun _ => Changes.endPattern s hE
  · exact .ite (fun _ => Changes.wake s hE) fun _ => .refl s
  · exact .refl s

theorem Changes.settleMove (hE : .moves ∈ E) (hA : .admits ∈ E) : Changes E s s.settleMove :=
  .ite (fun _ => .refl s) fun _ => (Changes.autoMove s hE).trans (Changes.settleBlocks _ hA _ _)

theorem Changes.fillOwn (b : Beacon) (h : b.part.role = s.osm.role) : Changes E s (s.fillOwn b) :=
  .ite (fun _ => .refl s) fun _ => Changes.setEntry s _ _ fun _ _ c hc => .inl (by cases hc; exact h)

/-- R187: the part composed is of the own role. -/
theorem State.ownPart_role : s.ownPart.role = s.osm.role := by
  unfold State.ownPart
  split <;> simp_all [Part.role]

/-- A change of the transmit side that touches neither the urgent and command slots nor the frame that is driven. -/
theorem Changes.line (x : BusUnit) (h : (x.urgentSlots, x.commandSlots, x.sending, x.backoff, x.lastResult, x.duplicate) =
      (s.bus.urgentSlots, s.bus.commandSlots, s.bus.sending, s.bus.backoff, s.bus.lastResult, s.bus.duplicate) := by rfl)
    (k : s.bus.sequence < 256 → x.sequence < 256 := by exact id) : Changes E s (s.withBus x) := by
  simp only [Prod.mk.injEq] at h
  obtain ⟨h1, h2, h3, h4, h5, h6⟩ := h
  refine (Change.bus x ⟨fun hf => ?_, k, h4 ▸ id, h5, h6⟩).one
  unfold BusUnit.Fits BusUnit.driven at hf ⊢
  rwa [h1, h2, h3]

theorem Changes.pushBeacon (m : Message) : Changes E s (s.pushBeacon m) := Changes.line s _

theorem Changes.composeBeacon (b : Beacon) (h : b.part.role = s.osm.role) : Changes E s (s.composeBeacon b) :=
  ((Changes.fillOwn s b h).trans (Changes.pushBeacon _ _)).trans
    (Changes.line _ _ (by rfl) (fun _ => Nat.mod_lt _ (by decide)))

/-- R4: an entry that takes a PATTERN frame keeps its part. -/
theorem State.shows_patternEntry (n : Nat) (h : s.shows (s.entry n)) : s.shows (s.patternEntry n) := by
  intro b hb
  obtain rfl := Option.some_injective _ hb
  show ((s.entry n).beacon.getD s.blankBeacon).part.role = _ ∨ ((s.entry n).beacon.getD s.blankBeacon).part = _
  cases hc : (s.entry n).beacon with
  | some c => exact h c hc
  | none => exact .inr rfl

theorem Changes.compose : Changes E s s.compose :=
  .ite (fun _ => .refl s) fun _ => .ite
    (fun _ => (Changes.setEntry s _ _ fun _ => s.shows_patternEntry _).trans (Changes.pushBeacon _ _))
    fun _ => Changes.composeBeacon s _ s.ownPart_role

theorem Changes.startWaiting : Changes E s s.startWaiting := by
  unfold State.startWaiting
  split
  · next k hc hw =>
    exact (Change.ae { s.ae with waiting := none, snapshot := _, computing := some k, sinkOffered := _ }
      ⟨rfl, rfl, le_rfl, le_rfl, .inl rfl, .inl rfl, fun _ _ hn => by rw [hw] at hn; cases hn⟩).one
  · exact .refl s

theorem OpState.composes_not_loading {o : OpState} (h : o.composes = true) : o ≠ .loading := by
  rintro rfl
  cases h

theorem Changes.allotmentEvent (k : CompKind) (ho : s.osm.op.composes = true) : Changes E s (s.allotmentEvent k) :=
  (Change.ae { s.ae with waiting := some (joinKind s.ae.waiting k) } ⟨rfl, rfl, le_rfl, le_rfl, .inl rfl, .inl rfl,
    fun hl => absurd hl (OpState.composes_not_loading ho)⟩).one.trans (Changes.startWaiting _)

theorem Changes.settleEvents (cue : Cue) (s0 : State) : Changes E s (State.settleEvents cue s0 s) :=
  (Changes.ite (fun h => Changes.allotmentEvent s _ (Bool.and_eq_true_iff.mp h).1) fun _ => .refl s).trans
    (Changes.startWaiting _)

theorem Changes.followPoles : Changes E s s.followPoles := by
  unfold State.followPoles
  dsimp only
  split
  · refine .ite (fun h => Changes.setEntry s _ _ fun _ _ c hc => .inl ?_) fun _ => .refl s
    cases hc
    exact h.1.symm
  · exact .refl s

theorem State.setpointDuty_le : s.setpointDuty ≤ 1023 := by
  unfold State.setpointDuty
  split
  · decide
  · split
    · exact (Nat.sub_le _ _).trans (by decide)
    · exact Nat.min_le_left _ _

theorem Changes.settleOutputs : Changes E s s.settleOutputs := by
  have hset : ∀ t : State, Changes E t t.settleSetpoint := fun t =>
    (Change.ae { t.ae with setpoint := t.setpointDuty }
      ⟨rfl, rfl, le_rfl, le_rfl, .inr t.setpointDuty_le, .inl rfl, fun _ h k => ⟨h, k⟩⟩).one
  have hdorm : ∀ t : State, Changes E t t.settleDormancy := fun t =>
    .ite (fun _ => .refl t) fun _ => (Change.osm { t.osm with dormancy := 0 } rfl rfl).one
  exact ((((Changes.followPoles s).trans (hset _)).trans (Changes.engine _ _)).trans (hdorm _)).trans (Change.out _).one

theorem Changes.react (hE : .moves ∈ E) (hA : .admits ∈ E) (cue : Cue) (s0 : State) : Changes E s (State.react cue s0 s) :=
  (((((Changes.settleBlocks s hA cue s0).trans (Changes.settleMove _ hE hA)).trans
    (.ite (fun _ => Changes.fillOwn _ _ (State.ownPart_role _)) fun _ => .refl _)).trans
    (.ite (fun _ => Changes.compose _) fun _ => .refl _)).trans (Changes.settleEvents _ cue s0)).trans
    (Changes.settleOutputs _)

end

end Sys2Proof.Machine

/-! Every command but COLD_RESET is a sequence of the changes that belong to it. -/

namespace Sys2Proof.Machine

/-- What a command of a kind changes beside what any command may. -/
def State.commandSpecials (s : State) : CommandKind → List Special
  | .raisePoles =>
    if s.osm.role = .pole ∧ s.osm.op = .active ∧ s.pwu.pos.state = .stowed ∧ s.pwu.neg.state = .stowed then
      [.results, .raises]
    else [.results]
  | .clearLockout a =>
    if s.osm.role = .pole ∧ s.osm.op = .active ∧ s.standstill = true then
      .results :: ((polesNamed a.toNat).getD []).map .frees
    else [.results]
  | _ => [.results]

/-- What a command changes beside what any command may. -/
def State.specials (s : State) : Instr → List Special
  | .loadingEnd _ => [.loads]
  | .analogSample _ => [.readings, .places, .heights, .flags, .heat]
  | .digitalInputChange _ _ => [.inputs, .counter, .results]
  | .beaconReceived _ | .patternReceived _ | .cutReceived _ | .releaseReceived _ => [.duplicates]
  | .commandReceived f => .duplicates ::
    match checkFrame f with
    | some (.command n o g _ kind) =>
      if f.kind = 3 ∧ s.isOwn n = false ∧ s.commandTaken n o g kind = true then s.commandSpecials kind else []
    | _ => []
  | .raisePoles _ => s.commandSpecials .raisePoles
  | .lowerPoles _ => s.commandSpecials .lowerPoles
  | .clearLockout _ a => s.commandSpecials (.clearLockout a)
  | .ackAlarms _ rs => s.commandSpecials (.ackAlarms rs)
  | .patternOn _ => s.commandSpecials .patternOn
  | .patternOff _ => s.commandSpecials .patternOff
  | .allotmentComputationEnd => [.computes]
  | .forgivenessExpiry _ | .suspectExpiry _ => [.counts]
  | .dormancyExpiry => [.sleeps, .flags]
  | .trackingStep => [.heights]
  | .readImage | .readBusy | .readSnapshot => [.ports]
  | .writePage _ _ _ => [.ports, .stores]
  | .pageWriteComplete => [.pages]
  | _ => []

theorem State.specials_row (s : State) (k : Byte) (kind : CommandKind) : s.specials (kind.row k) = s.commandSpecials kind := by
  cases kind <;> rfl

theorem State.results_mem (s : State) (kind : CommandKind) : .results ∈ s.commandSpecials kind := by
  cases kind with
  | raisePoles =>
    show Special.results ∈ ite _ _ _
    split <;> simp
  | clearLockout a =>
    show Special.results ∈ ite _ _ _
    split <;> simp
  | _ => exact List.mem_singleton_self _

section
variable {E : List Special} (s : State)

theorem Changes.storeResult (hE : .results ∈ E) (number : Nat) (r : Result) : Changes E s (s.storeResult number r) :=
  (Change.result _ hE).one

theorem Changes.poleCommand (hE : .results ∈ E) (number : Nat) (judge : State → State × Result)
    (h : s.osm.role = .pole → s.osm.op = .active → Changes E s (judge s).1) : Changes E s (s.poleCommand number judge) :=
  .ite (fun k => (h k.1 k.2).trans (Changes.storeResult _ hE _ _)) fun _ => Changes.storeResult s hE _ _

theorem Changes.clearChannels : Changes E s s.clearChannels := by
  refine (Change.lcm (s := s) { s.lcm with chans := mapTable Channel.cleared s.lcm.chans, shedCounter := 0, reserved := 0 }
    (fun c => ?_) id fun c => ?_).one.trans (.foldl (fun t c => Changes.clearCond t _ _) _ _)
  · show Channel.steady ((mapTable Channel.cleared s.lcm.chans)[c]) = _
    simp [mapTable, State.chan, Channel.cleared, Channel.leave, Channel.steady]
  · have h : (mapTable Channel.cleared s.lcm.chans)[c] = (s.chan c).cleared := by simp [mapTable, State.chan]
    show Channel.Eases _ _ _ ((mapTable Channel.cleared s.lcm.chans)[c])
    rw [h]
    exact .of_idle rfl rfl (fun _ => ⟨rfl, rfl⟩) (.inr fun _ => ⟨rfl, rfl⟩)

theorem Changes.enterPattern (hm : .moves ∈ E) : Changes E s s.enterPattern := by
  have hclear := ((Changes.enterOp (E := E) s hm .pattern (by decide)).trans (Changes.clearChannels _)).trans
    (Changes.engine _ { (s.enterOp .pattern).clearChannels.ae with regenRequest := 0 })
  exact .ite (fun _ => hclear) fun _ => hclear.trans (Changes.composeBeacon _ _ (State.ownPart_role _))

theorem Changes.takePatternOn (hE : .results ∈ E) (hm : s.patternResult = .done → .moves ∈ E) (number : Nat) : Changes E s (s.takePatternOn number) :=
  have hstore := Changes.storeResult (E := E) s hE number s.patternResult
  .ite (fun h => hstore.trans (Changes.enterPattern _ (hm h))) fun _ => hstore

theorem Changes.takePatternOff (hE : .results ∈ E) (hm : s.osm.op = .pattern → .moves ∈ E) (number : Nat) : Changes E s (s.takePatternOff number) :=
  have hstore := Changes.storeResult (E := E) s hE number .done
  .ite (fun h => hstore.trans (Changes.endPattern _ (hm h))) fun _ => hstore

theorem Changes.takeAcks (hE : .results ∈ E) (number : Nat) (rs : List AckRecord) : Changes E s (s.takeAcks number rs) :=
  (Changes.ackAll s rs).trans (Changes.storeResult _ hE _ _)

/-- A command taken, where what it changes is allowed. -/
theorem Changes.takeCommand (number : Nat) (kind : CommandKind)
    (hm : (kind = .patternOn ∧ s.patternResult = .done) ∨ (kind = .patternOff ∧ s.osm.op = .pattern) → .moves ∈ E)
    (hE : ∀ k ∈ s.commandSpecials kind, k ∈ E) :
    Changes E s (s.takeCommand number kind) := by
  have hres := hE _ (s.results_mem kind)
  cases kind with
  | raisePoles =>
    refine Changes.poleCommand s hres _ _ fun hr ho => Changes.judgeRaise s fun hp hn => hE _ ?_
    rw [State.commandSpecials, if_pos ⟨hr, ho, hp, hn⟩]
    simp
  | lowerPoles => exact Changes.poleCommand s hres _ _ fun _ _ => Changes.judgeLower s
  | clearLockout a =>
    refine Changes.poleCommand s hres _ (fun t => t.judgeClear a.toNat) fun hr ho =>
      Changes.judgeClear s _ fun ps hps hs p hp => hE _ ?_
    rw [State.commandSpecials, if_pos ⟨hr, ho, hs⟩, hps]
    exact List.mem_cons_of_mem _ (List.mem_map.mpr ⟨p, hp, rfl⟩)
  | ackAlarms rs => exact Changes.takeAcks s hres _ _
  | patternOn => exact Changes.takePatternOn s hres (fun h => hm (.inl ⟨rfl, h⟩)) _
  | patternOff => exact Changes.takePatternOff s hres (fun h => hm (.inr ⟨rfl, h⟩)) _

theorem BusUnit.putCommand_queues (b : BusUnit) (m : Message) : b.Queues (b.putCommand m) := by
  unfold BusUnit.putCommand
  split
  · next h =>
    refine ⟨fun ⟨hu, _⟩ => ⟨hu, ?_⟩, id, id, rfl, rfl⟩
    show (b.commandSlots ++ [m]).length + b.driven .command ≤ 3
    rw [List.length_append]
    exact (by omega : b.commandSlots.length + 1 + b.driven .command ≤ 3)
  · exact ⟨id, id, id, rfl, rfl⟩

/-- What a command of another station than the pole station changes. -/
theorem State.commandSpecials_of_role {s : State} (h : s.osm.role ≠ .pole) (kind : CommandKind) :
    s.commandSpecials kind = [.results] := by
  cases kind with
  | raisePoles => exact if_neg fun k => h k.1
  | clearLockout a => exact if_neg fun k => h k.1
  | _ => rfl

theorem Change.role {t : State} (hE : .loads ∉ E) (h : Change E s t) : t.osm.role = s.osm.role := by
  cases h with
  | osm x h =>
    simp only [OpMachine.carried, Prod.mk.injEq] at h
    exact h.1
  | moved x _ h =>
    simp only [OpMachine.carried, Prod.mk.injEq] at h
    exact h.1
  | loaded x c w k => exact absurd k hE
  | _ => rfl

theorem Changes.role {t : State} (hE : .loads ∉ E) (h : Changes E s t) : t.osm.role = s.osm.role :=
  h.same (f := fun s => s.osm.role) fun _ _ => Change.role _ hE

theorem Changes.generate (hr : s.osm.role ≠ .pole) (hc : .counter ∈ E) (hE : .results ∈ E) (target : Nat) (k : CommandKind)
    (hm : (k = .patternOn ∨ k = .patternOff) → .moves ∈ E) :
    Changes E s (s.generate target k) := by
  have hpush : Changes E s ((s.withCf { s.cf with commandCounter := (s.cf.commandCounter + 1) % 256 }).pushCommand
      (.command target s.cf.commandCounter k)) :=
    (Change.counter { s.cf with commandCounter := (s.cf.commandCounter + 1) % 256 } hc rfl (Nat.mod_lt _ (by decide))).one.trans
      (Change.bus _ (BusUnit.putCommand_queues _ _)).one
  refine .ite (fun _ => hpush.trans (Changes.takeCommand _ _ k (fun h => hm (h.imp And.left And.left)) ?_)) fun _ => hpush
  rw [State.commandSpecials_of_role]
  · simpa using hE
  · exact hr

theorem Changes.ackSource (hr : s.osm.role ≠ .pole) (hc : .counter ∈ E) (hE : .results ∈ E) (n : Nat) :
    Changes E s (s.ackSource n) := by
  unfold State.ackSource
  split
  · exact .refl s
  · exact Changes.generate s hr hc hE _ _ fun h => by obtain h | h := h <;> cases h

theorem Changes.ackSources (hr : s.osm.role ≠ .pole) (hc : .counter ∈ E) (hE : .results ∈ E) (hl : .loads ∉ E) (l : List Nat) :
    Changes E s (l.foldl State.ackSource s) := by
  induction l generalizing s with
  | nil => exact .refl s
  | cons n l ih =>
    have hone := Changes.ackSource s hr hc hE n
    exact hone.trans (ih _ (by rw [hone.role _ hl]; exact hr))

theorem Changes.pressAck (hr : s.osm.role ≠ .pole) (hc : .counter ∈ E) (hE : .results ∈ E) (hl : .loads ∉ E) :
    Changes E s s.pressAck :=
  have hlocal := Changes.ackLocal (E := E) s
  .ite (fun _ => hlocal.trans (Changes.ackSources _ (by rw [hlocal.role _ hl]; exact hr) hc hE hl _))
    fun _ => .ite (fun _ => Changes.ackLocal s) fun _ => .refl s

theorem Changes.pressButton (hr : s.osm.role ≠ .pole) (hc : .counter ∈ E) (hE : .results ∈ E) (hl : .loads ∉ E) (i : Nat)
    (hm : i = 4 → .moves ∈ E) :
    Changes E s (s.pressButton i) := by
  refine .ite (fun _ => Changes.pressAck s hr hc hE hl) fun _ => .ite (fun _ => ?_) fun _ => .refl s
  split
  · exact Changes.generate s hr hc hE _ _ fun h => by obtain h | h := h <;> cases h
  · exact Changes.generate s hr hc hE _ _ fun h => by obtain h | h := h <;> cases h
  · exact Changes.generate s hr hc hE _ _ fun h => by obtain h | h := h <;> cases h
  · exact Changes.generate s hr hc hE _ _ fun _ => hm rfl
  · exact .refl s

theorem Changes.consoleInput (hr : s.osm.role ≠ .pole) (hc : .counter ∈ E) (hE : .results ∈ E) (hl : .loads ∉ E) (i : Nat)
    (level : Bool) (hm : i = 4 → .moves ∈ E) : Changes E s (s.consoleInput i level) := by
  refine .ite (fun _ => .ite (fun _ => Changes.console s _ ?_ ?_) fun _ => .refl s) fun _ =>
    .ite (fun _ => Changes.pressButton s hr hc hE hl i hm) fun _ =>
      .ite (fun h => Changes.generate s hr hc hE _ _ fun _ => hm h.1) fun _ => .refl s
  · split <;> rfl
  · split <;> rfl

theorem Changes.edgeChannel (i : Nat) (c : Fin 4) : Changes E s (State.edgeChannel i s c) := by
  unfold State.edgeChannel
  exact .ite (fun _ => Changes.channel s c _ rfl (.of_same rfl rfl rfl)) fun _ => .refl s

theorem Changes.takeInput (hi : .inputs ∈ E) (hc : .counter ∈ E) (hE : .results ∈ E) (hl : .loads ∉ E) (i : Nat)
    (level : Bool) (hm : i = 4 → .moves ∈ E) : Changes E s (s.takeInput i level) := by
  have hread := (Change.input (E := E) (s := s) { s.su with din := setLevel s.su.din i level } hi rfl).one
  unfold State.takeInput
  dsimp only
  generalize s.withSu { s.su with din := setLevel s.su.din i level } = a at hread ⊢
  have hconsole : Changes E s (if a.osm.role = .console then a.consoleInput i level else a) := hread.trans
    (.ite (fun h => Changes.consoleInput a (fun k => nomatch h.symm.trans k) hc hE hl i level hm) fun _ => .refl a)
  have hpole : ∀ t : State, Changes E t (t.poleInput i) := by
    intro t
    unfold State.poleInput
    split
    · exact Changes.ropeChange t _
    · exact Changes.ropeChange t _
    · exact .refl t
  have hrope := hconsole.trans (hpole _)
  exact .ite (fun _ => hrope.trans (.foldl (fun t c => Changes.edgeChannel t i c) _ _)) fun _ => hrope

theorem Changes.judgeHot : Changes E s s.judgeHot :=
  .ite (fun _ => (Changes.engine s { s.ae with hot := true }).trans (Changes.onset _ _ _)) fun _ =>
    .ite (fun _ => (Changes.engine s { s.ae with hot := false }).trans (Changes.clearCond _ _ _)) fun _ => .refl s

/-- A change of a channel's cap or pressure flags. -/
theorem Changes.flagged (hE : .flags ∈ E) (c : Fin 4) (ch : Channel) (he : (s.chan c).Eases (.admits ∈ E) (s.record c) ch) :
    Changes E s (s.setChan c ch) := by
  refine (Change.flags { s.lcm with chans := s.lcm.chans.set c ch } hE rfl fun d => ?_).one
  have h := s.chan_setChan c d ch
  simp only [State.chan, State.setChan, State.withLcm_lcm] at h ⊢
  rw [h]
  split
  · next e => rw [← e]; exact he
  · exact .refl _

theorem Changes.samplePressure (hE : .flags ∈ E) (c : Fin 4) : Changes E s (s.samplePressure c) := by
  unfold State.samplePressure
  dsimp only
  split
  · exact .ite (fun _ => Changes.flagged s hE c _ (.of_same rfl rfl rfl)) fun _ => .refl s
  · exact .refl s

theorem Changes.sampleThermal (hE : .flags ∈ E) (c : Fin 4) : Changes E s (s.sampleThermal c) := by
  unfold State.sampleThermal
  dsimp only
  split
  · refine .ite (fun _ => Changes.flagged s hE c _ ?_) fun _ => .refl s
    split
    · next h => exact .of_lower rfl h.2.le rfl
    · exact .of_same rfl rfl rfl
  · exact .refl s

theorem State.ain_le (i : Nat) : s.ain i ≤ 1023 := by
  unfold State.ain readingOf
  split <;> omega

theorem heatOfReading_le {v : Nat} (h : v ≤ 1023) : heatOfReading v ≤ 8 := by
  unfold heatOfReading
  omega

theorem Changes.takeSample (x : AnalogSample) (hr : .readings ∈ E) (hp : .places ∈ E) (hh : .heights ∈ E) (hf : .flags ∈ E)
    (ht : .heat ∈ E) (hl : .loads ∉ E) (ho : s.osm.op ≠ .loading) : Changes E s (s.takeSample x) := by
  have hread : Changes E s (s.takeReadings x).judgeHot :=
    (Change.reading { s.su with ain := x, valid := true } hr rfl).one.trans (Changes.judgeHot _)
  have hpoles := hread.trans (Changes.samplePoles _ hp hh hl (hread.not_loading ho))
  have hchans := (hpoles.trans (.foldl (fun t c => Changes.samplePressure t hf c) channelNumbers _)).trans
    (.foldl (fun t c => Changes.sampleThermal t hf c) channelNumbers _)
  unfold State.takeSample
  dsimp only
  generalize channelNumbers.foldl State.sampleThermal (channelNumbers.foldl State.samplePressure
    (s.takeReadings x).judgeHot.samplePoles) = t at hchans ⊢
  have hheat : Changes E s t.sampleHeat := hchans.trans (.ite (fun _ =>
    (Change.heat { t.cf with heat := heatOfReading (t.ain 5) } ht (heatOfReading_le (State.ain_le _ _)) rfl).one)
    fun _ => .refl t)
  exact hheat.trans (Changes.engine _ _)

end

end Sys2Proof.Machine

/-! The frames, the timers and the moves of the operating state as sequences of changes, and with them every command. -/

namespace Sys2Proof.Machine

section
variable {E : List Special} (s : State)

theorem Changes.judgeMismatch (n : Nat) : Changes E s (s.judgeMismatch n) :=
  .ite (fun _ => Changes.onset s _ _) fun _ => Changes.clearCond s _ _

theorem Changes.stationFound (n : Nat) : Changes E s (s.stationFound n) :=
  .ite (fun _ => Changes.clearCond s _ _) fun _ => .refl s

theorem Changes.stationLost (n : Nat) : Changes E s (s.stationLost n) :=
  .ite (fun _ => Changes.onset s _ _) fun _ => .refl s

theorem Changes.setCheck (n : Nat) (c : PatternCheck) : Changes E s (s.setCheck n c) := Changes.console s _

theorem Changes.closeCheck (n : Nat) : Changes E s (s.closeCheck n) :=
  (Changes.setCheck s n _).trans (Changes.clearCond _ _ _)

theorem Changes.checkBeacon (n : Nat) (p : Bool) : Changes E s (s.checkBeacon n p) :=
  .ite (fun _ => .ite (fun _ => .ite (fun _ => .refl s) fun _ => Changes.setCheck s n _) fun _ => Changes.closeCheck s n)
    fun _ => .refl s

theorem Changes.checkPattern (n : Nat) (p : List Byte) : Changes E s (s.checkPattern n p) :=
  .ite (fun _ => .ite (fun _ => (Changes.setCheck s n _).trans (Changes.clearCond _ _ _))
    fun _ => (Changes.setCheck s n _).trans (Changes.onset _ _ _)) fun _ => .refl s

theorem Change.number {t : State} (hE : .loads ∉ E) (h : Change E s t) : t.osm.number = s.osm.number := by
  cases h with
  | osm x h =>
    simp only [OpMachine.carried, Prod.mk.injEq] at h
    exact h.2.1
  | moved x _ h =>
    simp only [OpMachine.carried, Prod.mk.injEq] at h
    exact h.2.1
  | loaded x c w k => exact absurd k hE
  | _ => rfl

theorem Changes.number {t : State} (hE : .loads ∉ E) (h : Changes E s t) : t.osm.number = s.osm.number :=
  h.same (f := fun s => s.osm.number) fun _ _ => Change.number _ hE

theorem State.ownShown_emptyTable (pe : Nat) : (s.withPvt (emptyTable pe)).OwnShown := fun _ _ hb =>
  nomatch (entryOf_emptyTable pe _).2.symm.trans hb

theorem Changes.takeBeacon (n : Nat) (b : Beacon) (hE : .loads ∉ E) (hn : n ≠ s.osm.number) (ho : s.osm.op ≠ .loading) :
    Changes E s (s.takeBeacon n b) := by
  have hentry : Changes E s ((s.setEntry n (s.beaconEntry n b)).judgeMismatch n) :=
    (Changes.setEntry s n _ fun h => absurd h hn).trans (Changes.judgeMismatch _ n)
  unfold State.takeBeacon
  dsimp only
  generalize (s.setEntry n (s.beaconEntry n b)).judgeMismatch n = a at hentry ⊢
  have hcuts := hentry.trans (Changes.putCuts a (applyCutList a.cc.cuts n b.cuts)
    (fun h => h.listed (by rw [hentry.number _ hE]; exact hn) _) fun h => absurd h (hentry.not_loading ho))
  have hmirror := hcuts.trans (Changes.mirrorReport _ n b.alarms (by rw [hcuts.number _ hE]; exact hn)
    (hcuts.not_loading ho))
  exact ((hmirror.trans (Changes.stationFound _ n)).trans (Changes.checkBeacon _ n _)).trans (Changes.polesReadTable _)

theorem Changes.takePattern (n : Nat) (p : List Byte) : Changes E s (s.takePattern n p) :=
  (((Changes.setEntry s n _ fun _ => s.shows_patternEntry n).trans (Changes.stationFound _ n)).trans (Changes.checkPattern _ n p)).trans
    (Changes.polesReadTable _)

theorem Changes.takeCut (n o : Nat) (c : Option CutCause) (k : Nat) (hn : n ≠ s.osm.number) (ho : s.osm.op ≠ .loading) :
    Changes E s (s.takeCut n o c k) := by
  unfold State.takeCut
  split
  · exact .ite (fun h => Changes.putCuts s _ (fun hf => hf.entered (h.1 ▸ hn) _ _) fun h => absurd h ho) fun _ => .refl s
  · exact .refl s

theorem Changes.takeRelease (n o : Nat) (c : Option CutCause) (k : Nat) : Changes E s (s.takeRelease n o c k) := by
  unfold State.takeRelease
  split
  · exact .ite (fun _ => Changes.putCuts s _ (fun hf => hf.sublist List.filter_sublist) fun _ h => by simp [removeCut, h])
      fun _ => .refl s
  · exact .refl s

/-- R122: the cuts of a station leave. -/
theorem Changes.dropOrigin (n : Nat) : Changes E s (s.putCuts (dropOrigin s.cc.cuts n)) :=
  Changes.putCuts s _ (fun h => h.sublist List.filter_sublist) fun _ h => by simp [Machine.dropOrigin, h]

theorem Changes.becomeStale (n : Nat) : Changes E s (s.becomeStale n) :=
  (Changes.ageEntry s n _ (.inl (by rfl))).trans (Changes.polesReadTable _)

theorem Changes.becomePhantom (n : Nat) : Changes E s (s.becomePhantom n) :=
  ((((Changes.ageEntry s n _ (.inl (by rfl))).trans (Changes.dropOrigin _ n)).trans (Changes.markOrphans _ n)).trans
    (Changes.stationLost _ n)).trans (Changes.polesReadTable _)

theorem Changes.becomeEmpty (n : Nat) : Changes E s (s.becomeEmpty n) :=
  (((((Changes.ageEntry s n _ (.inr (by rfl))).trans (Changes.clearCond _ _ _)).trans (Changes.dropOrigin _ n)).trans
    (Changes.dropOrphans _ n)).trans (.ite (fun _ => Changes.closeCheck _ n) fun _ => .refl _)).trans
    (Changes.polesReadTable _)

theorem Changes.beginRestoring (h : s.cc.phase = .offset) : Changes E s s.beginRestoring := by
  refine (Change.cc { s.cc with phase := .restoring, offset := 0, restSet := s.shedList, restRecord := [] } (fun k => ?_) id).one
  rw [State.cutsOk_iff] at k ⊢
  obtain ⟨h1, h2, h3⟩ := k
  rw [h] at h2
  exact ⟨h1, ⟨fun hc => absurd (h2.mp hc) (by decide), fun hc => Phase.noConfusion hc⟩, h3⟩

theorem State.ownGrant_le (gs : List Granted) : s.ownGrant gs ≤ s.settings.stationMax := Nat.min_le_right _ _

/-- R40, R41: what a computation leaves lies within its grant. -/
theorem ramp_le_grant (b : Bool) (k prev grant : Nat) : ramp b k prev grant ≤ grant := by
  unfold ramp
  split
  · exact le_rfl
  · next h =>
    split
    · exact Nat.min_le_left _ _
    · exact Nat.le_of_not_lt h

theorem State.computeDraw_le (k : CompKind) : (s.computeDraw k).ae.draw ≤ (s.computeDraw k).ae.grant := by
  show (if s.computesZero then 0 else _) ≤ _
  split
  · exact Nat.zero_le _
  · exact ramp_le_grant _ _ _ _

theorem Changes.endComputation (k : CompKind) (hE : .computes ∈ E) (hk : s.ae.computing = some k) :
    Changes E s (s.endComputation k) := by
  have hne : s.ae.computing ≠ none := by rw [hk]; exact Option.some_ne_none k
  have hcurrents : Changes E s ((s.computeDraw k).computeRegen k) :=
    (Change.computed ((s.computeDraw k).computeRegen k).ae hE hne rfl (fun _ => s.computeDraw_le k)
      (fun _ => s.ownGrant_le _) rfl rfl).one
  have hshort : ∀ t : State, Changes E t t.judgeSinkShort := fun t =>
    .ite (fun _ => .ite (fun _ => Changes.onset t _ _) fun _ => Changes.clearCond t _ _) fun _ => .refl t
  have hshares : ∀ t : State, Changes E t t.computeShares := fun t => Changes.engine t _
  have hend : ∀ t : State, Changes E t (t.withAe { t.ae with computing := none }) := fun t =>
    (Change.ae { t.ae with computing := none } ⟨rfl, rfl, le_rfl, le_rfl, .inl rfl, .inl rfl, fun _ _ h => ⟨rfl, h⟩⟩).one
  exact ((hcurrents.trans (hshort _)).trans (hshares _)).trans (hend _)

theorem Changes.duplicateFound (hE : .duplicates ∈ E) : Changes E s s.duplicateFound :=
  .ite (fun _ => .refl s) fun _ => (Change.duplicate hE).one.trans (Changes.onset _ _ _)

theorem BusUnit.sleep_queues (b : BusUnit) : b.Queues b.sleep := by
  refine ⟨fun _ => ?_, id, id, rfl, rfl⟩
  have hone : ∀ k, b.sleep.driven k ≤ 1 := by
    intro k
    unfold BusUnit.driven
    split
    · split <;> omega
    · omega
  have h1 := hone .urgent
  have h2 := hone .command
  exact ⟨by show 0 + _ ≤ 2; omega, by show 0 + _ ≤ 3; omega⟩

theorem Changes.enterDormant (hm : .moves ∈ E) (hs : .sleeps ∈ E) (hf : .flags ∈ E) : Changes E s s.enterDormant := by
  have hclear : Changes E s (s.alarmsDormant.clearChannels.enterOp .dormant) :=
    ((Changes.alarmsDormant s).trans (Changes.clearChannels _)).trans (Changes.enterOp _ hm _ (by decide))
  unfold State.enterDormant
  dsimp only
  generalize s.alarmsDormant.clearChannels.enterOp .dormant = b at hclear ⊢
  have hcc : b.CutsOk → (b.withCc b.cc.sleep).CutsOk := by
    intro _
    rw [State.cutsOk_iff]
    exact ⟨CutsFit.nil, ⟨fun h => absurd rfl h, fun h => nomatch h⟩, fun _ => rfl⟩
  have h1 := (Change.pvt (E := E) (s := b) (emptyTable b.settings.period) fun _ => State.ownShown_emptyTable b _).one
  have h2 := h1.trans (Change.slept b.ae.sleep hs rfl rfl rfl rfl rfl (by decide : (512 : Nat) ≤ 1023) (by rfl)).one
  have h3 := h2.trans (Change.cc b.cc.sleep (by exact hcc) (by exact id)).one
  have h4 := h3.trans (Change.lcm { b.lcm with slot := 0 } (fun _ => by rfl) (fun _ => (by decide : 0 < 8))
    fun _ => by exact .refl _).one
  have hsleep : ∀ c : Fin 4, (b.chan c).Eases (.admits ∈ E) (b.record c) b.lcm.sleep.chans[c] := fun c => by
    have h : b.lcm.sleep.chans[c] = (b.chan c).sleep := by simp [LoadUnit.sleep, mapTable, State.chan]
    rw [h]
    exact .of_same rfl rfl rfl
  have h5 := h4.trans (Change.flags b.lcm.sleep hf (by rfl) (by exact hsleep)).one
  have h6 := h5.trans (Change.pwu b.pwu.sleep (by rfl) (by rfl) (by exact id)).one
  have h7 := h6.trans (Changes.console _ b.cf.sleep)
  have h8 := h7.trans (Change.bus b.bus.sleep (by exact b.bus.sleep_queues)).one
  exact hclear.trans (h8.trans (Change.su { b.su with valid := false } (by rfl) (by rfl)).one)

/-- The mark that the first sample is waited for may be set with the role that decides it. -/
theorem State.loaded_eq (o : OpState) (r : Role) (n : Nat) (c : Settings) : s.loaded o r n c =
    let t := ((s.withOsm { s.osm with op := o, role := r, number := n, listen := 0, dormancy := 0 }).withSettings c).withPwu
      { s.pwu with loadPending := r == .pole }
    let v := (t.withPvt (emptyTable c.period)).restartDue
    ((if o = .maintenance then v else v.startCarrier).startTracking).startFlash := by
  unfold State.loaded
  dsimp only
  split <;> cases r <;> rfl

theorem Changes.loaded (o : OpState) (r : Role) (n : Nat) (c : Settings) (hE : .loads ∈ E) (hl : s.osm.op = .loading)
    (ho : o ≠ .loading) : Changes E s (s.loaded o r n c) := by
  rw [State.loaded_eq]
  have hload := (Change.loaded (E := E) (s := s) { s.osm with op := o, role := r, number := n, listen := 0, dormancy := 0 } c
    (r == .pole) hE hl ho).one
  have htable := (hload.trans (Change.pvt (emptyTable c.period) fun _ => State.ownShown_emptyTable _ _).one).trans (Changes.restartDue _)
  have hcarrier := htable.trans (.ite (p := o = .maintenance) (fun _ => .refl _) fun _ => Changes.startCarrier _)
  exact (hcarrier.trans (Changes.startTracking _)).trans (Changes.startFlash _)

end

end Sys2Proof.Machine

/-! Every command but COLD_RESET as a sequence of the changes that belong to it. -/

namespace Sys2Proof.Machine

section
variable (s : State)

theorem State.specials_sample (x : AnalogSample) :
    s.specials (.analogSample x) = [.readings, .places, .heights, .flags, .heat] := rfl

theorem State.specials_input (i : Fin 12) (level : Bool) :
    s.specials (.digitalInputChange i level) = [.inputs, .counter, .results] := rfl

theorem State.specials_beacon (f : Frame) : s.specials (.beaconReceived f) = [.duplicates] := rfl

theorem State.specials_command (f : Frame) : s.specials (.commandReceived f) = .duplicates ::
    match checkFrame f with
    | some (.command n o g _ kind) =>
      if f.kind = 3 ∧ s.isOwn n = false ∧ s.commandTaken n o g kind = true then s.commandSpecials kind else []
    | _ => [] := rfl

/-- A frame of any kind may be found to bear the own number. -/
theorem State.duplicates_mem {c : Instr} {f : Frame} (h : c.receives f = true) : .duplicates ∈ s.specials c := by
  cases c with
  | beaconReceived g => exact List.mem_singleton_self _
  | patternReceived g => exact List.mem_singleton_self _
  | cutReceived g => exact List.mem_singleton_self _
  | releaseReceived g => exact List.mem_singleton_self _
  | commandReceived g => exact List.mem_cons_self
  | _ => cases h

end

section
variable {E : List Special} {s : State}

theorem PoleTimer.changes {c : Instr} {w : Option Pole} {u : State} (h : PoleTimer s c w u) :
    Changes (s.specials c) s u := by
  cases h with
  | hook p => exact Changes.abandonRaise s
  | raise => exact Changes.abandonRaise s
  | drain => exact Changes.endDrain s
  | retrieve p => exact Changes.onset s _ _
  | forgive p h =>
    exact (Change.count p _ (List.mem_singleton_self _) (by rfl) (fun k => (Nat.sub_le (s.pole p).count 1).trans k) (.inl (by rfl))).one
  | gap => exact (Changes.unit s { s.pwu with line := .out, gapTimer := 0 }).trans (Changes.onset _ _ _)
  | source => exact Changes.unit s _
  | suspect p h => exact Changes.expireWindow s (List.mem_singleton_self _) p h

theorem OpState.samples_not_loading {o : OpState} (h : o.samples = true) : o ≠ .loading := by
  rintro rfl
  cases h

theorem State.taken_ne_number {f : Frame} {r : Received} (hf : checkFrame f = some r) (ho : s.isOwn r.station = false) :
    r.station ≠ s.osm.number := State.ne_number ho (checkFrame_station hf).2

theorem Changes.minOnReached {E : List Special} (c : Fin 4) (h : s.runs c = true) : Changes E s (s.minOnReached c) :=
  (Changes.ite (fun _ => .refl s) fun _ =>
    Changes.channel s c _ (by rfl) (.of_stop rfl ((s.runs_iff c).mp h).1 (.inr fun k => by
      have hr := ((s.runs_iff c).mp h).2
      rw [k] at hr
      cases hr))).trans (Changes.clearCond _ _ _)

theorem Changes.minOffReached {E : List Special} (c : Fin 4) (h : (s.record c).present = true) :
    Changes E s (s.minOffReached c) := by
  refine Changes.channel s c _ ?_ ?_
  · split <;> rfl
  · split
    · next hw =>
      exact .of_idle rfl rfl (fun k => absurd (h.symm.trans k) (by simp)) (.inr fun k => by rw [hw] at k; cases k.1)
    · exact .of_same rfl rfl rfl

/-- Every command's own effect. -/
theorem Effect.changes {c : Instr} {cue : Cue} {u : State} (h : Effect s c cue u) :
    Changes (.moves :: s.specials c) s u := by
  cases h with
  | maintenance x h => exact Changes.loaded s _ _ _ _ (List.mem_cons_of_mem _ (List.mem_singleton_self _)) h (by decide)
  | faulted x h =>
    exact ((Changes.loaded s _ _ _ _ (List.mem_cons_of_mem _ (List.mem_singleton_self _)) h (by decide)).trans (Changes.readSpecial _)).trans
      (Changes.onset _ _ _)
  | running x h => exact (Changes.loaded s _ _ _ _ (List.mem_cons_of_mem _ (List.mem_singleton_self _)) h (by decide)).trans (Changes.readSpecial _)
  | sample x h =>
    rw [State.specials_sample]
    exact Changes.takeSample s x (by simp) (by simp) (by simp) (by simp) (by simp) (by simp)
      (OpState.samples_not_loading h)
  | input i level =>
    rw [State.specials_input]
    exact Changes.takeInput s (by simp) (by simp) (by simp) (by simp) _ _ fun _ => List.mem_cons_self
  | wake => exact Changes.wake s List.mem_cons_self
  | duplicate c f _ hf =>
    exact Changes.duplicateFound s (List.mem_cons_of_mem _ (s.duplicates_mem hf))
  | beacon f n b hr hf ho =>
    rw [State.specials_beacon]
    exact Changes.takeBeacon s n b (by simp) (State.taken_ne_number hf ho) (OpState.composes_not_loading hr)
  | pattern f n p => exact Changes.takePattern s n p
  | cut f n o c k hr hf ho => exact Changes.takeCut s n o c k (State.taken_ne_number hf ho) (OpState.composes_not_loading hr)
  | release f n o c k => exact Changes.takeRelease s n o c k
  | command f n o g k kind _ hk hf ho ht =>
    refine Changes.takeCommand s k kind (fun _ => List.mem_cons_self) fun x hx => List.mem_cons_of_mem _ ?_
    rw [State.specials_command, hf]
    dsimp only
    rw [if_pos ⟨hk, ho, ht⟩]
    exact List.mem_cons_of_mem _ hx
  | ignored f => exact .refl s
  | judged k kind => exact Changes.takeCommand s _ kind (fun _ => List.mem_cons_self) fun x hx =>
      List.mem_cons_of_mem _ (by rw [State.specials_row]; exact hx)
  | stale n => exact Changes.becomeStale s _
  | phantom n => exact Changes.becomePhantom s _
  | hold n => exact Changes.becomeEmpty s _
  | silence n => exact (Changes.setCheck s _ _).trans (Changes.onset _ _ _)
  | restoring h => exact Changes.beginRestoring s h
  | computed k h => exact Changes.endComputation s k (List.mem_cons_of_mem _ (List.mem_singleton_self _)) h
  | spacing => exact (Change.lcm { s.lcm with spacingRuns := false } (fun _ => rfl) id fun _ => .refl _).one
  | started c hp hs =>
    exact Changes.channel s c _ rfl (.of_run (by rw [hs]; rfl) rfl rfl hp)
  | minOn c hr => exact Changes.minOnReached c hr
  | minOff c hp => exact Changes.minOffReached c hp
  | cycle c => exact Changes.channel s c _ rfl (.of_same rfl rfl rfl)
  | tail => exact Changes.console s _
  | poles c w u _ h => exact (h.changes.mono fun _ => List.mem_cons_of_mem _).trans (Changes.finishPoles _ _)
  | bounce p =>
    have hset : Changes (.moves :: s.specials (.bounceExpiry p)) s (s.setPole p { s.pole p with
        bounces := (s.pole p).bounces.filter (fun t => decide (s.osm.uptime < t + 60000)) }) :=
      (Change.pole p _ (.of_core (by rfl))).one
    exact .ite (fun _ => hset.trans (Changes.clearCond _ _ _)) fun _ => hset
  | active => exact Changes.enterOp s List.mem_cons_self _ (by decide)
  | parked => exact Changes.enterParked s List.mem_cons_self
  | dormant =>
    exact Changes.enterDormant s List.mem_cons_self (List.mem_cons_of_mem _ List.mem_cons_self)
      (List.mem_cons_of_mem _ (List.mem_cons_of_mem _ List.mem_cons_self))

theorem BusUnit.take_fits {b : BusUnit} (hs : b.sending = none) {k : Slot} {m : Message} (ho : b.offer = some (k, m))
    (h : b.Fits) (x : Sending) (hx : x.slot = k) : BusUnit.Fits { b.take k with sending := some x, backoff := 0 } := by
  unfold BusUnit.Fits BusUnit.driven at h ⊢
  rw [hs] at h
  cases k with
  | urgent =>
    unfold BusUnit.offer at ho
    split at ho
    · next l hl =>
      simp only [BusUnit.take, hx, hl, List.drop_succ_cons, List.drop_zero] at h ⊢
      simp only [List.length_cons] at h
      simp
      omega
    · split at ho
      · cases ho
      · simp at ho
  | command =>
    unfold BusUnit.offer at ho
    split at ho
    · cases ho
    · split at ho
      · next l hl =>
        simp only [BusUnit.take, hx, hl, List.drop_succ_cons, List.drop_zero] at h ⊢
        simp only [List.length_cons] at h
        simp
        omega
      · simp at ho
  | beacon => simpa [BusUnit.take, hx] using h

theorem BusUnit.Fits.putBack {b : BusUnit} {x : Sending} (h : b.Fits) (hs : b.sending = some x) :
    BusUnit.Fits ({ b with sending := none }.putBack x) := by
  unfold BusUnit.Fits BusUnit.driven at h ⊢
  rw [hs] at h
  unfold BusUnit.putBack
  cases hk : x.slot <;> simp only [hk, List.length_cons] at h ⊢ <;> simp at h ⊢ <;> omega

theorem BusUnit.Fits.stopped {b : BusUnit} (h : b.Fits) : BusUnit.Fits { b with sending := none } :=
  ⟨(Nat.le_add_right _ _).trans h.1, (Nat.le_add_right _ _).trans h.2⟩

theorem BusUnit.Fits.loseArbitration {b : BusUnit} {x : Sending} (h : b.Fits) (hs : b.sending = some x) :
    BusUnit.Fits ({ b with sending := none }.loseArbitration x) := by
  unfold BusUnit.loseArbitration
  split
  · split
    · next hk =>
      unfold BusUnit.Fits BusUnit.driven at h ⊢
      rw [hs] at h
      simp only [hk] at h ⊢
      cases x.displaced <;> simp at h ⊢ <;> omega
    · exact h.stopped
  · exact h.putBack hs

theorem BusUnit.loseArbitration_same (b : BusUnit) (x : Sending) :
    (b.loseArbitration x).sequence = b.sequence ∧ (b.loseArbitration x).backoff = b.backoff ∧
      (b.loseArbitration x).lastResult = b.lastResult ∧ (b.loseArbitration x).duplicate = b.duplicate := by
  unfold BusUnit.loseArbitration BusUnit.putBack
  repeat' split
  all_goals exact ⟨rfl, rfl, rfl, rfl⟩

theorem BusUnit.putBack_same (b : BusUnit) (x : Sending) :
    (b.putBack x).sequence = b.sequence ∧ (b.putBack x).backoff = b.backoff ∧
      (b.putBack x).lastResult = b.lastResult ∧ (b.putBack x).duplicate = b.duplicate := by
  unfold BusUnit.putBack
  split <;> exact ⟨rfl, rfl, rfl, rfl⟩

theorem Changes.stopSending (s : State) (waits : BusUnit → Sending → BusUnit)
    (hf : ∀ (b : BusUnit) (x : Sending), b.Fits → b.sending = some x → BusUnit.Fits (waits { b with sending := none } x))
    (hs : ∀ (b : BusUnit) (x : Sending), (waits b x).sequence = b.sequence ∧ (waits b x).backoff = b.backoff ∧
      (waits b x).lastResult = b.lastResult ∧ (waits b x).duplicate = b.duplicate) : Changes E s (s.stopSending waits) := by
  unfold State.stopSending
  split
  · exact .refl s
  · next x hx =>
    obtain ⟨h1, h2, h3, h4⟩ := hs { s.bus with sending := none } x
    refine (Change.bus _ ?_).one
    split
    · exact ⟨BusUnit.Fits.stopped, id, id, rfl, rfl⟩
    · exact ⟨fun h => hf _ x h hx, by rw [h1]; exact id, by rw [h2]; exact id, h3, h4⟩

theorem Changes.beginSending (s : State) : Changes E s s.beginSending := by
  unfold State.beginSending
  split
  · next k m hs ho =>
    refine (Change.bus _ ⟨fun h => BusUnit.take_fits hs ho h _ rfl, fun h => ?_, fun _ => Nat.zero_le _, ?_, ?_⟩).one
    · cases k <;> exact h
    · cases k <;> rfl
    · cases k <;> rfl
  · exact .refl s

theorem Direct.changes {c : Instr} {t : State} (h : Direct s c t) : Changes (s.specials c) s t := by
  cases h with
  | periodic h => exact (Changes.engine s _).trans (Changes.allotmentEvent _ _ h)
  | setpoint =>
    exact (Change.ae { s.ae with setpointOut := s.ae.setpoint }
      ⟨rfl, rfl, le_rfl, le_rfl, .inl rfl, .inr rfl, fun _ h k => ⟨h, k⟩⟩).one
  | track c => exact (Changes.unit s _).trans (Changes.trackPoles _ (List.mem_singleton_self _))
  | trackWaits c => exact Changes.unit s _
  | carrier =>
    have hwindow : ∀ c : Fin 4, (mapTable Channel.takeWindow s.lcm.chans)[c] = (s.chan c).takeWindow := fun c => by
      simp [mapTable, State.chan]
    refine (Change.lcm _ (fun c => ?_) (fun _ => Nat.mod_lt _ (by decide)) fun c => ?_).one.trans (Change.out _).one
    · exact (congrArg Channel.steady (hwindow c)).trans rfl
    · show Channel.Eases _ _ _ ((mapTable Channel.takeWindow s.lcm.chans)[c])
      rw [hwindow]
      exact .of_same rfl rfl rfl
  | flash => exact (Changes.console s _).trans (Change.out _).one
  | start => exact Changes.beginSending s
  | lost =>
    exact Changes.stopSending s _ (fun _ _ h hs => h.loseArbitration hs) fun b x => b.loseArbitration_same x
  | abort =>
    have hstop := Changes.stopSending (E := s.specials .transmitAbort) s BusUnit.putBack (fun _ _ h hs => h.putBack hs)
      fun b x => b.putBack_same x
    generalize s.stopSending BusUnit.putBack = t at hstop ⊢
    have hlt := (Config.freeBackoff t.freeCount).isLt
    exact (hstop.trans (Change.bus { t.bus with backoff := (Config.freeBackoff t.freeCount).val }
      ⟨id, id, fun _ => by exact Nat.le_of_lt_succ hlt, rfl, rfl⟩).one).trans (Change.free _).one
  | complete => exact (Change.bus _ ⟨BusUnit.Fits.stopped, id, id, rfl, rfl⟩).one
  | readImage => exact (Change.port _ (List.mem_singleton_self _)).one
  | readBusy => exact (Change.port _ (List.mem_singleton_self _)).one
  | readSnapshot => exact (Change.port _ (List.mem_singleton_self _)).one
  | writePage p b wp =>
    have hjudge : (s.cs.judgeWrite (s.osm.op == .maintenance) wp p b).image = s.cs.image := by
      unfold ConfigStore.judgeWrite
      repeat' split
      all_goals rfl
    exact ((Change.stored _ (List.mem_cons_of_mem _ List.mem_cons_self) hjudge).one.trans
      (Change.port _ List.mem_cons_self).one).trans (Change.free _).one
  | pageDone w =>
    exact (Change.paged _ (List.mem_singleton_self _) fun h => Memory.writePage_wf h _ _).one

end

/-- Every command but COLD_RESET is a sequence of moves and of the changes that belong to it. -/
theorem exec_changes {c : Instr} {s t : State} (h : exec c s = .next t) (hc : c ≠ .coldReset) :
    Changes (.moves :: .admits :: s.specials c) s t := by
  cases exec_outcomes h with
  | reset k => exact absurd k hc
  | same k =>
    subst k
    exact .refl t
  | react cue u e k =>
    have he : Changes (.moves :: .admits :: s.specials c) s u := e.changes.mono (by simp +contextual)
    exact k ▸ he.trans (Changes.react u List.mem_cons_self (List.mem_cons_of_mem _ List.mem_cons_self) cue s)
  | direct d => exact d.changes.mono fun _ h => List.mem_cons_of_mem _ (List.mem_cons_of_mem _ h)

end Sys2Proof.Machine

/-! The invariants along changes, idle steps and cold reset: every step keeps them. -/

namespace Sys2Proof.Machine

section
variable {E : List Special} {s t : State}

theorem Change.cutsOk (h : Change E s t) (hs : s.CutsOk) : t.CutsOk := by
  rw [State.cutsOk_iff] at hs
  obtain ⟨hfit, hphase, hload⟩ := hs
  cases h with
  | osm x h k =>
    rw [State.cutsOk_iff]
    simp only [OpMachine.carried, Prod.mk.injEq] at h
    exact ⟨by rw [State.withOsm_osm, h.2.1]; exact hfit, hphase, fun ho => hload (k.symm.trans ho)⟩
  | moved x _ h k =>
    rw [State.cutsOk_iff]
    simp only [OpMachine.carried, Prod.mk.injEq] at h
    exact ⟨by rw [State.withOsm_osm, h.2.1]; exact hfit, hphase, fun ho => hload (k ho)⟩
  | loaded x c w _ hl ho =>
    rw [State.cutsOk_iff]
    have hnil : s.cc.cuts = [] := hload hl
    refine ⟨?_, hphase, fun k => absurd k ho⟩
    show CutsFit x.number s.cc.cuts
    rw [hnil]
    exact .nil
  | cc x h => exact h (s.cutsOk_iff.mpr ⟨hfit, hphase, hload⟩)
  | _ => exact s.cutsOk_iff.mpr ⟨hfit, hphase, hload⟩

theorem Change.alarmsOk (h : Change E s t) (hs : s.AlarmsOk) : t.AlarmsOk := by
  rw [State.alarmsOk_iff] at hs
  obtain ⟨hfit, hload⟩ := hs
  cases h with
  | osm x h k =>
    rw [State.alarmsOk_iff]
    simp only [OpMachine.carried, Prod.mk.injEq] at h
    exact ⟨by rw [State.withOsm_osm, h.2.1]; exact hfit, fun ho => hload (k.symm.trans ho)⟩
  | moved x _ h k =>
    rw [State.alarmsOk_iff]
    simp only [OpMachine.carried, Prod.mk.injEq] at h
    exact ⟨by rw [State.withOsm_osm, h.2.1]; exact hfit, fun ho => hload (k ho)⟩
  | loaded x c w _ hl ho =>
    rw [State.alarmsOk_iff]
    have hnil : s.au.entries = [] := hload hl
    refine ⟨?_, fun k => absurd k ho⟩
    show AlarmsFit x.number s.au.entries
    rw [hnil]
    exact ⟨Nat.zero_le _, Nat.zero_le _, .nil⟩
  | au a h => exact h (s.alarmsOk_iff.mpr ⟨hfit, hload⟩)
  | _ => exact s.alarmsOk_iff.mpr ⟨hfit, hload⟩

theorem Change.queuesOk (h : Change E s t) (hs : s.QueuesOk) : t.QueuesOk := by
  cases h with
  | bus x h => exact h.fits hs
  | _ => exact hs

/-- The dewire counts lie in the four bits of R81. -/
theorem State.setPole_counts {p : Pole} {r : PoleRecord} (hs : s.pwu.pos.count ≤ 15 ∧ s.pwu.neg.count ≤ 15)
    (hr : (s.pole p).count ≤ 15 → r.count ≤ 15) :
    (s.setPole p r).pwu.pos.count ≤ 15 ∧ (s.setPole p r).pwu.neg.count ≤ 15 := by
  cases p with
  | pos => exact ⟨hr hs.1, hs.2⟩
  | neg => exact ⟨hs.1, hr hs.2⟩

theorem PoleRecord.core_eq {a b : PoleRecord} (h : a.core = b.core) :
    a.state = b.state ∧ a.height = b.height ∧ a.count = b.count := by
  simpa only [PoleRecord.core, Prod.mk.injEq] using h

theorem Change.rangesOk (h : Change E s t) (hs : s.RangesOk) : t.RangesOk := by
  obtain ⟨h1, h2, h3, h4, h5, h6, h7, h8, h9⟩ := hs
  cases h with
  | ae x h =>
    refine ⟨?_, ?_, h3, h4, h5, h6, h7, h8, h9⟩
    · obtain k | k := h.setpoint
      · exact k.trans_le h1
      · exact k
    · obtain k | k := h.setpointOut
      · exact k.trans_le h2
      · exact k.trans_le h1
  | computed x _ _ _ _ _ a b => exact ⟨a.trans_le h1, b.trans_le h2, h3, h4, h5, h6, h7, h8, h9⟩
  | slept x _ _ _ _ _ _ a b => exact ⟨a, b.trans_le h2, h3, h4, h5, h6, h7, h8, h9⟩
  | cc x _ k => exact ⟨h1, h2, h3, h4, k h5, h6, h7, h8, h9⟩
  | lcm x _ k => exact ⟨h1, h2, h3, h4, h5, h6, h7, k h8, h9⟩
  | flags x _ k => exact ⟨h1, h2, h3, h4, h5, h6, h7, k.trans_lt h8, h9⟩
  | pole p r k => exact ⟨h1, h2, h3, h4, h5, h6, h7, h8, State.setPole_counts h9 k.count.trans_le⟩
  | raised p r _ _ k =>
    exact ⟨h1, h2, h3, h4, h5, h6, h7, h8, State.setPole_counts h9 (congrArg (fun x => x.2.2) k : r.count = _).trans_le⟩
  | freed p r _ _ _ _ k => exact ⟨h1, h2, h3, h4, h5, h6, h7, h8, State.setPole_counts h9 fun _ => k ▸ Nat.zero_le _⟩
  | height p r _ _ k => exact ⟨h1, h2, h3, h4, h5, h6, h7, h8, State.setPole_counts h9 k.trans_le⟩
  | count p r _ _ k => exact ⟨h1, h2, h3, h4, h5, h6, h7, h8, State.setPole_counts h9 k⟩
  | placed a b _ _ _ _ _ ha hb =>
    exact ⟨h1, h2, h3, h4, h5, h6, h7, h8, (congrArg Prod.snd ha : a.count = _).trans_le h9.1,
      (congrArg Prod.snd hb : b.count = _).trans_le h9.2⟩
  | pwu x a b =>
    exact ⟨h1, h2, h3, h4, h5, h6, h7, h8, (PoleRecord.core_eq a).2.2.trans_le h9.1, (PoleRecord.core_eq b).2.2.trans_le h9.2⟩
  | cf x a b => exact ⟨h1, h2, h3, h4, h5, b.trans_lt h6, a.trans_le h7, h8, h9⟩
  | counter x _ a b => exact ⟨h1, h2, h3, h4, h5, b, a.trans_le h7, h8, h9⟩
  | heat x _ a b => exact ⟨h1, h2, h3, h4, h5, b.trans_lt h6, a, h8, h9⟩
  | bus x k => exact ⟨h1, h2, k.sequence h3, k.backoff h4, h5, h6, h7, h8, h9⟩
  | _ => exact ⟨h1, h2, h3, h4, h5, h6, h7, h8, h9⟩

/-- A pole whose record is replaced is LOWERING yet, if it was. -/
theorem State.setPole_lowering {p : Pole} {r : PoleRecord} (hs : s.pwu.pos.state = .lowering ∧ s.pwu.neg.state = .lowering)
    (hr : (s.pole p).state = .lowering → r.state = .lowering) :
    (s.setPole p r).pwu.pos.state = .lowering ∧ (s.setPole p r).pwu.neg.state = .lowering := by
  cases p with
  | pos => exact ⟨hr hs.1, hs.2⟩
  | neg => exact ⟨hs.1, hr hs.2⟩

theorem State.waits_setPole {p : Pole} {r : PoleRecord} : (s.setPole p r).waits ↔ s.waits := by
  cases p <;> exact .rfl

theorem Change.polesWait (h : Change E s t) (hs : s.PolesWait) : t.PolesWait := by
  cases h with
  | osm x _ k => exact fun ho => hs (ho.imp_right k.symm.trans)
  | moved x _ _ k => exact fun ho => hs (ho.imp_right k)
  | loaded x c w _ hl ho => exact fun _ => hs (.inr hl)
  | pole p r k =>
    intro ho
    have hw := State.waits_setPole.mp ho
    exact State.setPole_lowering (hs hw) (k.lowering hw)
  | raised p r _ hst _ =>
    intro ho
    exact State.setPole_lowering (hs (State.waits_setPole.mp ho)) fun k => nomatch hst.symm.trans k
  | freed p r _ hst _ _ _ =>
    intro ho
    exact State.setPole_lowering (hs (State.waits_setPole.mp ho)) fun k => nomatch hst.symm.trans k
  | height p r _ hst _ =>
    intro ho
    refine State.setPole_lowering (hs (State.waits_setPole.mp ho)) fun k => ?_
    obtain h | ⟨h, -⟩ := hst
    · exact h.trans k
    · cases h.symm.trans k
  | count p r _ _ _ hst =>
    intro ho
    refine State.setPole_lowering (hs (State.waits_setPole.mp ho)) fun k => ?_
    obtain h | ⟨h, -⟩ := hst
    · exact h.trans k
    · cases h.symm.trans k
  | placed a b _ _ hl => exact fun ho => absurd ho (fun k => k.elim Bool.false_ne_true hl)
  | pwu x a b k =>
    intro ho
    obtain ⟨hp, hn⟩ := hs (ho.imp_left k)
    exact ⟨(PoleRecord.core_eq a).1.trans hp, (PoleRecord.core_eq b).1.trans hn⟩
  | _ => exact hs

theorem Change.imageOk (h : Change E s t) (hs : s.cs.image.wf = true) : t.cs.image.wf = true := by
  cases h with
  | stored x _ k => exact k ▸ hs
  | paged x _ k => exact k hs
  | _ => exact hs

end

section
variable {P : State → Prop}

/-- A predicate that every change, an idle step and a cold reset keep, every step keeps. -/
theorem step_keeps_of_change (hq : ∀ s l, P s → P (s.withPending l)) (htick : ∀ s, P s → P s.tick)
    (hreset : ∀ s, P s → P s.coldReset) (hc : ∀ E s t, Change E s t → P s → P t) :
    ∀ s t, P s → step s = .next t → P t :=
  step_keeps hq htick fun c s t hs h => by
    by_cases hr : c = .coldReset
    · subst hr
      injection h with h
      exact h ▸ hreset s hs
    · exact (exec_changes h hr).keeps (hc _) hs

end

theorem CutUnit.tick_phase (n : Nat) (c : CutUnit) : (c.tick n).phase = c.phase ∧ (c.tick n).counter = c.counter := by
  unfold CutUnit.tick
  split <;> exact ⟨rfl, rfl⟩

/-- Settles O7: the set and its phase along changes (`Change.cutsOk`). -/
theorem stepKeepsCutSet : Obligations.StepKeepsCutSet := by
  refine step_keeps_of_change (fun _ _ h => h) (fun s h => ?_) (fun s _ => ?_) fun _ _ _ => Change.cutsOk
  · have k := s.ticked
    rw [State.cutsOk_iff] at h ⊢
    rw [k.cc, k.osm, CutUnit.tick_cuts, (CutUnit.tick_phase _ _).1]
    exact h
  · exact s.coldReset.cutsOk_iff.mpr ⟨.nil, ⟨fun h => absurd rfl h, fun h => nomatch h⟩, fun _ => rfl⟩

/-- Settles O10: the slots along changes (`Change.queuesOk`). -/
theorem stepKeepsQueueBounds : Obligations.StepKeepsQueueBounds := by
  refine step_keeps_of_change (fun _ _ h => h) (fun s h => ?_) (fun s _ => ?_) fun _ _ _ => Change.queuesOk
  · unfold State.QueuesOk
    rw [s.ticked.bus]
    exact h
  · exact ⟨Nat.zero_le _, Nat.zero_le _⟩

/-- Settles O11: the table along changes (`Change.alarmsOk`). -/
theorem stepKeepsAlarmTable : Obligations.StepKeepsAlarmTable := by
  refine step_keeps_of_change (fun _ _ h => h) (fun s h => ?_) (fun s _ => ?_) fun _ _ _ => Change.alarmsOk
  · have k := s.ticked
    rw [State.alarmsOk_iff] at h ⊢
    rw [k.au, k.osm]
    exact h
  · exact s.coldReset.alarmsOk_iff.mpr ⟨⟨Nat.zero_le _, Nat.zero_le _, .nil⟩, fun _ => rfl⟩

theorem PoleRecord.tick_core (c : Settings) (r : PoleRecord) : (r.tick c).core = r.core := by
  unfold PoleRecord.tick
  split <;> rfl

/-- An idle step leaves the states, the references and the counts of the poles. -/
theorem Ticked.poles {s t : State} (h : Ticked s t) : t.pwu.pos.core = s.pwu.pos.core ∧ t.pwu.neg.core = s.pwu.neg.core ∧
    t.pwu.loadPending = s.pwu.loadPending := by
  rw [h.pwu]
  split
  · exact ⟨PoleRecord.tick_core _ _, PoleRecord.tick_core _ _, rfl⟩
  · exact ⟨rfl, rfl, rfl⟩

/-- Settles O12: the ranges along changes (`Change.rangesOk`). -/
theorem stepKeepsRanges : Obligations.StepKeepsRanges := by
  refine step_keeps_of_change (fun _ _ h => h) (fun s h => ?_) (fun s _ => ?_) fun _ _ _ => Change.rangesOk
  · have k := s.ticked
    obtain ⟨h1, h2, h3, h4, h5, h6, h7, h8, h9⟩ := h
    obtain ⟨hp, hn, -⟩ := k.poles
    obtain ⟨x, hx⟩ := k.cf
    unfold State.RangesOk
    rw [k.ae, k.bus, k.cc, (CutUnit.tick_phase _ _).2, hx, k.lcm, (PoleRecord.core_eq hp).2.2, (PoleRecord.core_eq hn).2.2]
    refine ⟨?_, ?_, h3, h4, h5, h6, h7, h8, h9⟩
    · split <;> exact h1
    · split <;> exact h2
  · have hreset : State.reset.RangesOk := by
      unfold State.RangesOk
      decide
    exact hreset

/-- Settles O13: the poles along changes (`Change.polesWait`). -/
theorem stepKeepsPolesWaiting : Obligations.StepKeepsPolesWaiting := by
  refine step_keeps_of_change (fun _ _ h => h) (fun s h => ?_) (fun s _ => ?_) fun _ _ _ => Change.polesWait
  · have k := s.ticked
    obtain ⟨hp, hn, hl⟩ := k.poles
    unfold State.PolesWait
    rw [(PoleRecord.core_eq hp).1, (PoleRecord.core_eq hn).1, hl, k.osm]
    exact h
  · exact fun _ => ⟨rfl, rfl⟩

/-- Settles O6: every write of the image keeps its form. -/
theorem stepKeepsImageForm : Obligations.StepKeepsImageForm := by
  refine step_keeps_of_change (fun _ _ h => h) (fun s h => ?_) (fun s h => State.imageAfterReset_wf h)
    fun _ _ _ => Change.imageOk
  rw [s.ticked.cs]
  exact h

end Sys2Proof.Machine

/-! What the changes of a command leave: the frames of what is held, of the inputs and of the settings. -/

namespace Sys2Proof.Machine

section
variable {E : List Special} {s t : State}

theorem Change.pending (h : Change E s t) : t.pending = s.pending := by
  cases h <;> rfl

theorem Change.image (hp : .pages ∉ E) (h : Change E s t) : t.cs.image = s.cs.image := by
  cases h with
  | stored x _ k => exact k
  | paged x k => exact absurd k hp
  | _ => rfl

theorem Change.settled (hl : .loads ∉ E) (h : Change E s t) :
    (t.settings, t.osm.carried) = (s.settings, s.osm.carried) := by
  cases h with
  | osm x h => exact congrArg (Prod.mk s.settings) h
  | moved x _ h => exact congrArg (Prod.mk s.settings) h
  | loaded x c w k => exact absurd k hl
  | _ => rfl

theorem Change.ain (hr : .readings ∉ E) (h : Change E s t) : t.su.ain = s.su.ain := by
  cases h with
  | su x h => exact h
  | reading x k => exact absurd k hr
  | input x _ k => exact k
  | _ => rfl

theorem Change.din (hi : .inputs ∉ E) (h : Change E s t) : t.su.din = s.su.din := by
  cases h with
  | su x _ h => exact h
  | reading x _ k => exact k
  | input x k => exact absurd k hi
  | _ => rfl

theorem Change.port_same (hp : .ports ∉ E) (h : Change E s t) : t.port = s.port := by
  cases h with
  | port x k => exact absurd k hp
  | _ => rfl

theorem Change.store_same (hs : .stores ∉ E) (hp : .pages ∉ E) (h : Change E s t) : t.cs = s.cs := by
  cases h with
  | stored x k => exact absurd k hs
  | paged x k => exact absurd k hp
  | _ => rfl

theorem Change.grants_same (hc : .computes ∉ E) (hs : .sleeps ∉ E) (h : Change E s t) :
    (t.ae.grants, t.ae.grant) = (s.ae.grants, s.ae.grant) := by
  cases h with
  | ae x h => exact Prod.ext h.grants h.grant
  | computed x k => exact absurd k hc
  | slept x k => exact absurd k hs
  | _ => rfl

theorem Change.result_same (hr : .results ∉ E) (h : Change E s t) : t.bus.lastResult = s.bus.lastResult := by
  cases h with
  | bus x h => exact h.lastResult
  | result r k => exact absurd k hr
  | _ => rfl

theorem Change.duplicate_same (hd : .duplicates ∉ E) (h : Change E s t) : t.bus.duplicate = s.bus.duplicate := by
  cases h with
  | bus x h => exact h.duplicate
  | duplicate k => exact absurd k hd
  | _ => rfl

theorem Change.duplicate_stays (h : Change E s t) (hs : s.bus.duplicate = true) : t.bus.duplicate = true := by
  cases h with
  | bus x h => exact h.duplicate.trans hs
  | duplicate => rfl
  | _ => exact hs

theorem Change.heat_same (hh : .heat ∉ E) (h : Change E s t) : t.cf.heat = s.cf.heat := by
  cases h with
  | cf x h => exact h
  | counter x _ h => exact h
  | heat x k => exact absurd k hh
  | _ => rfl

theorem Change.counter_same (hc : .counter ∉ E) (h : Change E s t) : t.cf.commandCounter = s.cf.commandCounter := by
  cases h with
  | cf x _ h => exact h
  | counter x k => exact absurd k hc
  | heat x _ _ h => exact h
  | _ => rfl

theorem Change.steady_same (hf : .flags ∉ E) (h : Change E s t) (c : Fin 4) : (t.chan c).steady = (s.chan c).steady := by
  cases h with
  | lcm x h => exact h c
  | flags x k => exact absurd k hf
  | _ => rfl

/-- What a change does to the record of a pole. -/
inductive Change.PoleStep (E : List Special) (q : Pole) (waits : Prop) (a b : PoleRecord) : Prop
  | core : b.core = a.core → PoleStep E q waits a b
  | moves : a.Moves waits b → PoleStep E q waits a b
  | raised : .raises ∈ E → a.state = .stowed → b.height = a.height → b.count = a.count → PoleStep E q waits a b
  | freed : .frees q ∈ E → a.state = .lockedOut → b.state = .stowed → b.height = a.height → PoleStep E q waits a b
  | height : .heights ∈ E → b.count = a.count → b.state = a.state ∨ a.state = .seeking ∧ b.state = .onWire →
      PoleStep E q waits a b
  | count : .counts ∈ E → b.height = a.height → b.state = a.state ∨ a.state = .suspect ∧ b.state = .dewired →
      PoleStep E q waits a b
  | placed : .places ∈ E → waits → b.state ≠ .raising → b.height = a.height → b.count = a.count → PoleStep E q waits a b

theorem Change.poleStep (h : Change E s t) (q : Pole) : Change.PoleStep E q s.waits (s.pole q) (t.pole q) := by
  have hself : Change.PoleStep E q s.waits (s.pole q) (s.pole q) := .core rfl
  have hset : ∀ (p : Pole) (r : PoleRecord), Change.PoleStep E p s.waits (s.pole p) r →
      Change.PoleStep E q s.waits (s.pole q) ((s.setPole p r).pole q) := by
    intro p r hr
    rw [State.pole_setPole]
    split
    · next e => subst e; exact hr
    · exact hself
  cases h with
  | pole p r k => exact hset p r (.moves k)
  | raised p r hE hs k =>
    have hh : r.height = (s.pole p).height := congrArg (fun x => x.2.1) k
    have hc : r.count = (s.pole p).count := congrArg (fun x => x.2.2) k
    exact hset p r (.raised hE hs hh hc)
  | freed p r hE hs hr hh => exact hset p r (.freed hE hs hr hh)
  | height p r hE hs hc => exact hset p r (.height hE hc hs)
  | count p r hE hh _ hs => exact hset p r (.count hE hh hs)
  | placed a b hE hw _ ha hb ka kb =>
    cases q with
    | pos => exact .placed hE (.inl hw) ha (congrArg Prod.fst ka) (congrArg Prod.snd ka)
    | neg => exact .placed hE (.inl hw) hb (congrArg Prod.fst kb) (congrArg Prod.snd kb)
  | pwu x a b =>
    cases q with
    | pos => exact .core a
    | neg => exact .core b
  | _ => exact hself

theorem Change.height_same (hh : .heights ∉ E) (h : Change E s t) (p : Pole) : (t.pole p).height = (s.pole p).height := by
  cases h.poleStep p with
  | core k => exact (PoleRecord.core_eq k).2.1
  | moves k => exact k.height
  | raised _ _ k => exact k
  | freed _ _ _ k => exact k
  | height k => exact absurd k hh
  | count _ k => exact k
  | placed _ _ _ k => exact k

theorem Change.count_same (hc : .counts ∉ E) (hf : .frees p ∉ E) (h : Change E s t) :
    (t.pole p).count = (s.pole p).count := by
  cases h.poleStep p with
  | core k => exact (PoleRecord.core_eq k).2.2
  | moves k => exact k.count
  | raised _ _ _ k => exact k
  | freed k => exact absurd k hf
  | height _ k => exact k
  | count k => exact absurd k hc
  | placed _ _ _ _ k => exact k

/-- A pole in LOCKED_OUT stays there, where none is freed. -/
theorem Change.locked (hf : .frees p ∉ E) (h : Change E s t) (hw : s.PolesWait) (hs : (s.pole p).state = .lockedOut) :
    (t.pole p).state = .lockedOut := by
  have hlow : ¬ s.waits := fun k => by
    obtain ⟨h1, h2⟩ := hw k
    cases p with
    | pos => exact absurd (h1.symm.trans hs) (by decide)
    | neg => exact absurd (h2.symm.trans hs) (by decide)
  cases h.poleStep p with
  | core k => exact (PoleRecord.core_eq k).1.trans hs
  | moves k => exact k.locked hs
  | raised _ k => exact absurd (k.symm.trans hs) (by decide)
  | freed k => exact absurd k hf
  | height _ _ k =>
    obtain k | ⟨k, -⟩ := k
    · exact k.trans hs
    · exact absurd (k.symm.trans hs) (by decide)
  | count _ _ k =>
    obtain k | ⟨k, -⟩ := k
    · exact k.trans hs
    · exact absurd (k.symm.trans hs) (by decide)
  | placed _ k => exact absurd k hlow

/-- No pole enters RAISING, where none is raised. -/
theorem Change.not_raising (hr : .raises ∉ E) (h : Change E s t) (hs : (s.pole p).state ≠ .raising) :
    (t.pole p).state ≠ .raising := by
  cases h.poleStep p with
  | core k => rwa [(PoleRecord.core_eq k).1]
  | moves k => exact fun e => hs (k.raising e)
  | raised k => exact absurd k hr
  | freed _ _ k => rw [k]; decide
  | height _ _ k =>
    obtain k | ⟨-, k⟩ := k
    · rwa [k]
    · rw [k]; decide
  | count _ _ k =>
    obtain k | ⟨-, k⟩ := k
    · rwa [k]
    · rw [k]; decide
  | placed _ _ k => exact k

end

end Sys2Proof.Machine

/-! Which command each special change belongs to, and the frames of O15 and O17 to O20. -/

namespace Sys2Proof

/-- A received frame. -/
def Instr.IsFrame (c : Instr) : Prop :=
  ∃ f, c = .beaconReceived f ∨ c = .patternReceived f ∨ c = .cutReceived f ∨ c = .releaseReceived f ∨ c = .commandReceived f

end Sys2Proof

namespace Sys2Proof.Machine

/-- The commands that a special change belongs to. -/
def Special.of (c : Instr) : Special → Prop
  | .moves => True
  | .admits => False
  | .computes => c = .allotmentComputationEnd
  | .sleeps => c = .dormancyExpiry
  | .flags => (∃ x, c = .analogSample x) ∨ c = .dormancyExpiry
  | .raises => (∃ f, c = .commandReceived f) ∨ ∃ k, c = .raisePoles k
  | .frees _ => (∃ f, c = .commandReceived f) ∨ ∃ k a, c = .clearLockout k a
  | .heights => (∃ x, c = .analogSample x) ∨ c = .trackingStep
  | .counts => (∃ p, c = .forgivenessExpiry p) ∨ ∃ p, c = .suspectExpiry p
  | .places => ∃ x, c = .analogSample x
  | .loads => ∃ x, c = .loadingEnd x
  | .results => (∃ f, c = .commandReceived f) ∨ (∃ i l, c = .digitalInputChange i l) ∨ ∃ kind k, c = CommandKind.row k kind
  | .duplicates => c.IsFrame
  | .counter => ∃ i l, c = .digitalInputChange i l
  | .heat => ∃ x, c = .analogSample x
  | .readings => ∃ x, c = .analogSample x
  | .inputs => ∃ i l, c = .digitalInputChange i l
  | .ports => c = .readImage ∨ c = .readBusy ∨ c = .readSnapshot ∨ ∃ p b w, c = .writePage p b w
  | .stores => ∃ p b w, c = .writePage p b w
  | .pages => c = .pageWriteComplete

section
variable {s t : State} {c : Instr}

/-- What a command of a kind changes: its result, the raise and the poles freed. -/
theorem State.mem_commandSpecials {k : Special} {kind : CommandKind} (h : k ∈ s.commandSpecials kind) :
    k = .results ∨
    (k = .raises ∧ kind = .raisePoles ∧ s.osm.role = .pole ∧ s.osm.op = .active ∧ s.pwu.pos.state = .stowed ∧
      s.pwu.neg.state = .stowed) ∨
    (∃ p a ps, k = .frees p ∧ kind = .clearLockout a ∧ s.osm.role = .pole ∧ s.osm.op = .active ∧ s.standstill = true ∧
      polesNamed a.toNat = some ps ∧ p ∈ ps) := by
  cases kind with
  | raisePoles =>
    rw [State.commandSpecials] at h
    split at h
    · next hc =>
      obtain rfl | h := List.mem_cons.mp h
      · exact .inl rfl
      · exact .inr (.inl ⟨List.mem_singleton.mp h, rfl, hc⟩)
    · exact .inl (List.mem_singleton.mp h)
  | clearLockout a =>
    rw [State.commandSpecials] at h
    split at h
    · next hc =>
      obtain rfl | h := List.mem_cons.mp h
      · exact .inl rfl
      · obtain ⟨p, hp, rfl⟩ := List.mem_map.mp h
        cases hn : polesNamed a.toNat with
        | none => rw [hn] at hp; cases hp
        | some ps =>
          rw [hn] at hp
          exact .inr (.inr ⟨p, a, ps, rfl, rfl, hc.1, hc.2.1, hc.2.2, hn, hp⟩)
    · exact .inl (List.mem_singleton.mp h)
  | _ => exact .inl (List.mem_singleton.mp h)

/-- What a received COMMAND frame changes is what the command it carries changes, where it is taken. -/
theorem State.mem_specials_command {k : Special} {f : Frame} (h : k ∈ s.specials (.commandReceived f)) :
    k = .duplicates ∨ ∃ n o g m kind, checkFrame f = some (.command n o g m kind) ∧ f.kind = 3 ∧ s.isOwn n = false ∧
      s.commandTaken n o g kind = true ∧ k ∈ s.commandSpecials kind := by
  rw [State.specials_command] at h
  obtain rfl | h := List.mem_cons.mp h
  · exact .inl rfl
  · split at h
    · next n o g m kind hf =>
      split at h
      · next hc => exact .inr ⟨n, o, g, m, kind, hf, hc.1, hc.2.1, hc.2.2, h⟩
      · cases h
    · cases h

/-- A special change belongs to its commands. -/
theorem State.mem_specials {k : Special} (h : k ∈ s.specials c) : k.of c := by
  have hrow : ∀ (b : Byte) (kind : CommandKind), c = kind.row b → k ∈ s.commandSpecials kind → k.of c := by
    rintro b kind rfl hk
    obtain rfl | ⟨rfl, rfl, -⟩ | ⟨p, a, ps, rfl, rfl, -⟩ := State.mem_commandSpecials hk
    · exact .inr (.inr ⟨kind, b, rfl⟩)
    · exact .inr ⟨b, rfl⟩
    · exact .inr ⟨b, a, rfl⟩
  cases c with
  | loadingEnd x => cases List.mem_singleton.mp h; exact ⟨x, rfl⟩
  | analogSample x =>
    rw [State.specials_sample] at h
    simp only [List.mem_cons, List.not_mem_nil, or_false] at h
    obtain rfl | rfl | rfl | rfl | rfl := h
    · exact ⟨x, rfl⟩
    · exact ⟨x, rfl⟩
    · exact .inl ⟨x, rfl⟩
    · exact .inl ⟨x, rfl⟩
    · exact ⟨x, rfl⟩
  | digitalInputChange i l =>
    rw [State.specials_input] at h
    simp only [List.mem_cons, List.not_mem_nil, or_false] at h
    obtain rfl | rfl | rfl := h
    · exact ⟨i, l, rfl⟩
    · exact ⟨i, l, rfl⟩
    · exact .inr (.inl ⟨i, l, rfl⟩)
  | beaconReceived f => cases List.mem_singleton.mp h; exact ⟨f, .inl rfl⟩
  | patternReceived f => cases List.mem_singleton.mp h; exact ⟨f, .inr (.inl rfl)⟩
  | cutReceived f => cases List.mem_singleton.mp h; exact ⟨f, .inr (.inr (.inl rfl))⟩
  | releaseReceived f => cases List.mem_singleton.mp h; exact ⟨f, .inr (.inr (.inr (.inl rfl)))⟩
  | commandReceived f =>
    obtain rfl | ⟨_, _, _, _, kind, -, -, -, -, hk⟩ := State.mem_specials_command h
    · exact ⟨f, .inr (.inr (.inr (.inr rfl)))⟩
    · obtain rfl | ⟨rfl, -⟩ | ⟨p, a, ps, rfl, -⟩ := State.mem_commandSpecials hk
      · exact .inl ⟨f, rfl⟩
      · exact .inl ⟨f, rfl⟩
      · exact .inl ⟨f, rfl⟩
  | raisePoles b => exact hrow b .raisePoles rfl h
  | lowerPoles b => exact hrow b .lowerPoles rfl h
  | clearLockout b a => exact hrow b (.clearLockout a) rfl h
  | ackAlarms b rs => exact hrow b (.ackAlarms rs) rfl h
  | patternOn b => exact hrow b .patternOn rfl h
  | patternOff b => exact hrow b .patternOff rfl h
  | allotmentComputationEnd => cases List.mem_singleton.mp h; exact rfl
  | forgivenessExpiry p => cases List.mem_singleton.mp h; exact .inl ⟨p, rfl⟩
  | suspectExpiry p => cases List.mem_singleton.mp h; exact .inr ⟨p, rfl⟩
  | dormancyExpiry =>
    obtain rfl | h := List.mem_cons.mp h
    · exact rfl
    · cases List.mem_singleton.mp h; exact .inr rfl
  | trackingStep => cases List.mem_singleton.mp h; exact .inr rfl
  | readImage => cases List.mem_singleton.mp h; exact .inl rfl
  | readBusy => cases List.mem_singleton.mp h; exact .inr (.inl rfl)
  | readSnapshot => cases List.mem_singleton.mp h; exact .inr (.inr (.inl rfl))
  | writePage p b w =>
    obtain rfl | h := List.mem_cons.mp h
    · exact .inr (.inr (.inr ⟨p, b, w, rfl⟩))
    · cases List.mem_singleton.mp h; exact ⟨p, b, w, rfl⟩
  | pageWriteComplete => cases List.mem_singleton.mp h; exact rfl
  | _ => cases h

theorem State.mem_moves {k : Special} (h : k ∈ .moves :: .admits :: s.specials c) (hk : k ≠ .admits := by nofun) : k.of c := by
  obtain rfl | h := List.mem_cons.mp h
  · exact trivial
  · exact State.mem_specials ((List.mem_cons.mp h).resolve_left hk)

/-- What every change without a special one leaves, a command that has none of that kind leaves. -/
theorem exec_same {α : Type} {f : State → α} (k : Special) (hc : c ≠ .coldReset) (h : exec c s = .next t) (hk : ¬ k.of c)
    (hf : ∀ E s t, k ∉ E → Change E s t → f t = f s) (ha : k ≠ .admits := by nofun) : f t = f s :=
  (exec_changes h hc).same fun _ _ => hf _ _ _ fun hm => hk (State.mem_moves hm ha)

end

/-- Settles O18: no change touches the queue, `pages` alone the image's bytes, `loads` alone the settings. -/
theorem imageAndSettingsFrame : Obligations.ImageAndSettingsFrame := by
  intro c s t h
  refine ⟨?_, fun hc hp a => ?_, fun hc hl => ?_⟩
  · by_cases hc : c = .coldReset
    · subst hc
      injection h with h
      exact h ▸ rfl
    · exact (exec_changes h hc).same fun _ _ => Change.pending
  · exact congrArg (fun m : Memory => m.read a) (exec_same .pages hc h hp fun _ _ _ => Change.image)
  · have hsame := exec_same .loads hc h (fun ⟨x, hx⟩ => hl x hx) fun _ _ _ => Change.settled
    simp only [OpMachine.carried, Prod.mk.injEq] at hsame
    exact hsame

/-- Settles O19: `readings`, `inputs`, `ports`, `stores` and `pages` are of their own commands. -/
theorem inputAndPortFrame : Obligations.InputAndPortFrame := by
  intro c s t h hc
  refine ⟨fun hx => ?_, fun hi => ?_, fun h1 h2 h3 h4 => ⟨?_, fun h5 => ?_⟩⟩
  · exact exec_same .readings hc h (fun ⟨x, k⟩ => hx x k) fun _ _ _ => Change.ain
  · exact exec_same .inputs hc h (fun ⟨i, l, k⟩ => hi i l k) fun _ _ _ => Change.din
  · refine exec_same .ports hc h ?_ fun _ _ _ => Change.port_same
    rintro (k | k | k | ⟨p, b, w, k⟩)
    · exact h1 k
    · exact h2 k
    · exact h3 k
    · exact h4 p b w k
  · exact (exec_changes h hc).same fun _ _ => Change.store_same
      (fun hm => by obtain ⟨p, b, w, k⟩ := State.mem_moves hm; exact h4 p b w k) fun hm => h5 (State.mem_moves hm)

/-- Settles O20: each held value has its own special change. -/
theorem heldValuesFrame : Obligations.HeldValuesFrame := by
  intro c s t h hc
  have hch := exec_changes h hc
  refine ⟨fun h1 h2 => ?_, fun hf h1 h2 h3 h4 h5 h6 hi => ?_, fun hd => ?_, fun hd => ?_, fun ht hx p => ?_,
    fun hs hg hl hf p => ?_, fun hx => ⟨?_, fun hd k => ?_⟩, fun hi => ?_⟩
  · have hsame := hch.same (f := fun s => (s.ae.grants, s.ae.grant)) fun _ _ => Change.grants_same
      (fun hm => h1 (State.mem_moves hm)) fun hm => h2 (State.mem_moves hm)
    simpa only [Prod.mk.injEq] using hsame
  · refine exec_same .results hc h ?_ fun _ _ _ => Change.result_same
    rintro (⟨f, k⟩ | ⟨i, l, k⟩ | ⟨kind, b, k⟩)
    · exact hf f k
    · exact hi i l k
    · cases kind with
      | raisePoles => exact h1 b k
      | lowerPoles => exact h2 b k
      | clearLockout a => exact h3 b a k
      | ackAlarms rs => exact h4 b rs k
      | patternOn => exact h5 b k
      | patternOff => exact h6 b k
  · by_cases hf : c.IsFrame
    · exact .inr hf
    · exact .inl ((exec_same .duplicates hc h hf fun _ _ _ => Change.duplicate_same).symm.trans hd)
  · exact hch.keeps (P := fun s => s.bus.duplicate = true) (fun _ _ k => k.duplicate_stays) hd
  · refine exec_same (f := fun s => (s.pole p).height) .heights hc h ?_ fun _ _ _ hk k => k.height_same hk p
    rintro (⟨x, k⟩ | k)
    · exact hx x k
    · exact ht k
  · refine hch.same (f := fun s => (s.pole p).count) fun _ _ => Change.count_same (fun hm => ?_) fun hm => ?_
    · obtain ⟨q, k⟩ | ⟨q, k⟩ := State.mem_moves hm
      · exact hg q k
      · exact hs q k
    · obtain ⟨f, k⟩ | ⟨b, a, k⟩ := State.mem_moves hm
      · exact hf f k
      · exact hl b a k
  · exact exec_same .heat hc h (fun ⟨x, k⟩ => hx x k) fun _ _ _ => Change.heat_same
  · have hsame := exec_same (f := fun s => (s.chan k).steady) .flags hc h
      (fun hk => hk.elim (fun ⟨x, e⟩ => hx x e) hd) fun _ _ _ hk e => e.steady_same hk k
    simpa only [Channel.steady, Prod.mk.injEq] using hsame
  · exact exec_same .counter hc h (fun ⟨i, l, k⟩ => hi i l k) fun _ _ _ => Change.counter_same

/-- Settles O17: only a `frees` of the pole lets it out of LOCKED_OUT, only a `raises` lets one into RAISING. -/
theorem polesRiseOnlyByCommand : Obligations.PolesRiseOnlyByCommand := by
  intro c s t p hw h hc
  have hch := exec_changes h hc
  have htakes : ∀ k ∈ s.specials c, k ≠ .results → k.of c → (k = .raises ∨ ∃ q, k = .frees q) →
      ∃ kind, s.takes c kind ∧ k ∈ s.commandSpecials kind := by
    intro k hk hr hof hkind
    have hcmd : (∃ f, c = .commandReceived f) ∨ ∃ b kind, c = CommandKind.row b kind := by
      obtain rfl | ⟨q, rfl⟩ := hkind
      · exact hof.imp_right fun ⟨b, e⟩ => ⟨b, .raisePoles, e⟩
      · exact hof.imp_right fun ⟨b, a, e⟩ => ⟨b, .clearLockout a, e⟩
    obtain ⟨f, rfl⟩ | ⟨b, kind, rfl⟩ := hcmd
    · obtain rfl | ⟨n, o, g, m, kind, hf, h3, hn, ht, hk⟩ := State.mem_specials_command hk
      · obtain e | ⟨q, e⟩ := hkind <;> cases e
      · refine ⟨kind, .inr ⟨f, n, g, m, rfl, h3, ?_, hn, ?_⟩, hk⟩
        · simp only [State.commandTaken, Bool.and_eq_true, beq_iff_eq] at ht
          rw [hf, ht.1]
        · simp only [State.commandTaken, Bool.and_eq_true, Bool.or_eq_true, beq_iff_eq, Bool.not_eq_true'] at ht
          refine ht.2.imp_right fun ⟨h0, hp⟩ => ⟨h0, fun hpole => ?_⟩
          rw [hpole] at hp
          exact hp.resolve_left (by decide)
    · exact ⟨kind, .inl ⟨b, rfl⟩, by rwa [State.specials_row] at hk⟩
  refine ⟨fun hs ht => ?_, fun hs ht => ?_⟩
  · by_cases hm : .frees p ∈ s.specials c
    · obtain ⟨kind, htake, hk⟩ := htakes _ hm (by simp) (State.mem_specials hm) (.inr ⟨p, rfl⟩)
      obtain k | ⟨k, -⟩ | ⟨q, a, ps, k, rfl, hr, ho, hst, hps, hq⟩ := State.mem_commandSpecials hk
      · cases k
      · cases k
      · cases k
        exact ⟨hr, ho, hst, a, ps, htake, hps, hq⟩
    · have hlock := hch.keeps (P := fun s => s.PolesWait ∧ (s.pole p).state = .lockedOut)
        (fun _ _ k hs => ⟨k.polesWait hs.1, k.locked (by simpa using hm) hs.1 hs.2⟩) ⟨hw, hs⟩
      exact absurd hlock.2 ht
  · by_cases hm : .raises ∈ s.specials c
    · obtain ⟨kind, htake, hk⟩ := htakes _ hm (by simp) (State.mem_specials hm) (.inl rfl)
      obtain k | ⟨-, rfl, hr, ho, hp, hn⟩ | ⟨q, a, ps, k, -⟩ := State.mem_commandSpecials hk
      · cases k
      · exact ⟨hr, ho, hp, hn, htake⟩
      · cases k
    · exact absurd ht (hch.keeps (P := fun s => (s.pole p).state ≠ .raising) (fun _ _ k => k.not_raising (by simpa using hm)) hs)

theorem Change.currents {E : List Special} {s t : State} (hE : .computes ∉ E) (h : Change E s t) :
    t.ae.draw ≤ s.ae.draw ∧ t.ae.regen ≤ s.ae.regen := by
  cases h with
  | ae x h => exact ⟨h.draw, h.regen⟩
  | computed x k => exact absurd k hE
  | slept x _ _ h1 h2 => exact ⟨h1.trans_le (Nat.zero_le _), h2.trans_le (Nat.zero_le _)⟩
  | _ => exact ⟨le_rfl, le_rfl⟩

theorem Changes.currents {E : List Special} {s t : State} (hE : .computes ∉ E) (h : Changes E s t) :
    t.ae.draw ≤ s.ae.draw ∧ t.ae.regen ≤ s.ae.regen :=
  h.keeps (P := fun t => t.ae.draw ≤ s.ae.draw ∧ t.ae.regen ≤ s.ae.regen)
    (fun _ _ k hs => ⟨(k.currents hE).1.trans hs.1, (k.currents hE).2.trans hs.2⟩) ⟨le_rfl, le_rfl⟩

/-- R40, R41: where no increase is allowed a quantity does not rise, and it rises by at most K. -/
theorem ramp_le (b : Bool) (k prev grant : Nat) : ramp b k prev grant ≤ prev + if b then k else 0 := by
  unfold ramp
  split
  · omega
  · split
    · next h => rw [if_pos h.2]; exact Nat.min_le_right _ _
    · exact Nat.le_add_right _ _

/-- R40, R41, R55: what a computation leaves of the currents. -/
theorem State.endComputation_currents (s : State) (k : CompKind) :
    (s.endComputation k).ae.draw ≤ s.ae.draw + (if s.mayIncrease k then s.settings.step else 0) ∧
    (s.endComputation k).ae.regen ≤ s.ae.regen + (if s.mayIncrease k then s.settings.step else 0) := by
  have hshort : ∀ t : State, t.judgeSinkShort.ae = t.ae := by
    intro t
    unfold State.judgeSinkShort
    split
    · split
      · exact (t.onset_only _ _).elim fun a ha => by rw [ha.1]; rfl
      · exact (t.clearCond_only _ _).elim fun a ha => by rw [ha.1]; rfl
    · rfl
  have hae := hshort ((s.computeDraw k).computeRegen k)
  have hdraw : (s.endComputation k).ae.draw = ((s.computeDraw k).computeRegen k).judgeSinkShort.ae.draw := rfl
  have hregen : (s.endComputation k).ae.regen = ((s.computeDraw k).computeRegen k).judgeSinkShort.ae.regen := rfl
  rw [hdraw, hregen, hae]
  constructor
  · show (if s.computesZero then 0 else _) ≤ _
    split
    · exact Nat.zero_le _
    · exact ramp_le _ _ _ _
  · show (if (s.computeDraw k).computesZero || (s.computeDraw k).osm.role != .traction then 0 else _) ≤ _
    split
    · exact Nat.zero_le _
    · exact ramp_le _ _ _ _

/-- What the end of a computation does. -/
theorem Effect.ends {s u : State} {c : Instr} {cue : Cue} (h : Effect s c cue u) (hc : c = .allotmentComputationEnd) :
    ∃ k, s.ae.computing = some k ∧ u = s.endComputation k := by
  cases h with
  | computed k h => exact ⟨k, h, rfl⟩
  | wake c h => subst hc; cases h
  | duplicate c f _ h => subst hc; cases h
  | judged k kind => cases kind <;> cases hc
  | poles c w u _ h => subst hc; cases h
  | _ => cases hc

/-- Settles O15: of all changes a computation's alone raises a current. -/
theorem currentsRiseOnlyPeriodically : Obligations.CurrentsRiseOnlyPeriodically := by
  intro c s t h hrise
  cases exec_outcomes h with
  | reset _ k =>
    subst k
    obtain k | k := hrise
    · exact absurd k (Nat.not_lt_zero _)
    · exact absurd k (Nat.not_lt_zero _)
  | same k => subst k; omega
  | react cue u e ht =>
    have hreact := (Changes.react (E := [.moves, .admits]) u (by simp) (by simp) cue s).currents (by simp)
    rw [← ht] at hreact
    by_cases hE : .computes ∈ s.specials c
    · obtain rfl : c = .allotmentComputationEnd := State.mem_specials hE
      obtain ⟨k, hk, rfl⟩ := e.ends rfl
      have hc := s.endComputation_currents k
      cases k with
      | periodic => split at hc <;> exact ⟨rfl, hk, by omega, by omega⟩
      | unscheduled =>
        have hno : s.mayIncrease .unscheduled = false := rfl
        rw [hno] at hc
        simp only [Bool.false_eq_true, if_false] at hc
        omega
    · have := e.changes.currents (by simpa using hE)
      omega
  | direct d =>
    have hE : .computes ∉ s.specials c := fun hm => by
      obtain rfl : c = .allotmentComputationEnd := State.mem_specials hm
      cases d
    have := d.changes.currents hE
    omega

end Sys2Proof.Machine

/-! The operating state and KEY_ON along commands (R190, R195, R198, R199). -/

namespace Sys2Proof.Machine

section
variable {E : List Special} {s t : State}

theorem Change.op_same (hm : .moves ∉ E) (hl : .loads ∉ E) (h : Change E s t) : t.osm.op = s.osm.op := by
  cases h with
  | osm x _ k => exact k
  | moved x k => exact absurd k hm
  | loaded x c w k => exact absurd k hl
  | _ => rfl

theorem Changes.op_same (h : Changes E s t) (hm : .moves ∉ E := by simp) (hl : .loads ∉ E := by simp) :
    t.osm.op = s.osm.op := h.same (f := fun s => s.osm.op) fun _ _ => Change.op_same hm hl

/-- A pole part or a console record is read alike from entries that agree but for their period. -/
theorem Entry.heardBeacon_carried {a b : Entry} (h : a.carried = b.carried) : a.heardBeacon = b.heardBeacon := by
  unfold Entry.carried at h
  injection h with h1 h2 h3 h4 h5 h6
  unfold Entry.heardBeacon Entry.heard
  rw [h1, h6]

theorem consolePartOf_carried {n : Nat} (h : (t.entry n).carried = (s.entry n).carried) :
    consolePartOf t.pvt n = consolePartOf s.pvt n := by
  unfold consolePartOf
  rw [show entryOf t.pvt n = t.entry n from rfl, Entry.heardBeacon_carried h]
  rfl

theorem polePartOf_carried {n : Nat} (h : (t.entry n).carried = (s.entry n).carried) :
    polePartOf t.pvt n = polePartOf s.pvt n := by
  unfold polePartOf
  rw [show entryOf t.pvt n = t.entry n from rfl, Entry.heardBeacon_carried h]
  rfl

/-- The console station's record is another station's, or the console's own. -/
def State.ConsolePlaced (s : State) : Prop := s.isOwn s.settings.consoleStation = true → s.osm.role = .console

/-- KEY_ON where the held value and the other stations' entries stay. -/
theorem Carried.keyOn (h : Carried s t) (hp : s.ConsolePlaced) (hk : t.ia.heldKey = s.ia.heldKey) : t.keyOn = s.keyOn := by
  unfold State.keyOn
  rw [h.role, h.settings, hk]
  split
  · exact congrArg (fun u : SampleUnit => u.din.getLsbD 7) h.su
  · next hr =>
    have hn : s.isOwn s.settings.consoleStation = false := by
      by_contra hn
      exact hr (hp (by simpa using hn))
    rw [consolePartOf_carried (h.peers _ hn)]
    split
    · exact congrArg (fun u : SampleUnit => u.din.getLsbD _) h.su
    · rfl

theorem State.settleMove_same (s : State) (h : s.autoMove.osm.op = s.osm.op) : s.settleMove = s := if_pos h

/-- The reaction's closing part leaves what the other blocks read. -/
theorem State.closing_carried (cue : Cue) (s0 s : State) :
    Carried (State.settleBlocks cue s0 s).settleMove (State.react cue s0 s) :=
  (((Carried.fillAtEntry _ _).trans (Carried.composeIf _ _)).trans (Carried.settleEvents _ _ _)).trans
    (Carried.settleOutputs _)

/-- KEY_ON is found by a step's end as its command has left it, where the operating state has not moved. -/
theorem State.react_keyOn (cue : Cue) (s0 s : State) (hp : s.ConsolePlaced)
    (h : (State.react cue s0 s).osm.op = s.osm.op) : (State.react cue s0 s).keyOn = s.keyOn := by
  have hclosed := Closed.react cue s0 s
  have hcarried := State.closing_carried cue s0 s
  have hop : (State.settleBlocks cue s0 s).osm = s.osm := (Kept.settleBlocks cue s0 s).osm
  have hmove : (State.settleBlocks cue s0 s).settleMove = State.settleBlocks cue s0 s := by
    obtain ⟨-, h2⟩ | ⟨h1, h2⟩ := (State.settleBlocks cue s0 s).settleMove_cases
    · exact h2
    · rw [hclosed.op, h2, (Kept.settleBlocks noCue _ _).osm] at h
      rw [hop] at h1
      exact absurd h h1
  rw [hmove] at hclosed hcarried
  rw [← State.settleBlocks_keyOn cue s0 s]
  have k := (Kept.settleBlocks cue s0 s).carried
  refine hcarried.keyOn (fun ho => ?_) (by rw [hclosed.ia])
  rw [k.isOwn, k.settings] at ho
  rw [k.role]
  exact hp ho

end

/-- A filtered input takes a level and leaves the others. -/
theorem getLsbD_setLevel (d : BitVec 12) {i : Nat} (hi : i < 12) (level : Bool) (j : Nat) :
    (setLevel d i level).getLsbD j = if i = j then level else d.getLsbD j := by
  unfold setLevel
  split
  · next h =>
    subst h
    simp only [BitVec.getLsbD_or, BitVec.getLsbD_twoPow]
    split
    · next e => subst e; simp [hi]
    · next e => simp [e]
  · next h =>
    rw [Bool.not_eq_true] at h
    subst h
    simp only [BitVec.getLsbD_and, BitVec.getLsbD_not, BitVec.getLsbD_twoPow]
    split
    · next e => subst e; simp [hi]
    · next e =>
      simp only [e, decide_false, Bool.and_false, Bool.not_false, Bool.and_true]
      by_cases hj : j < 12
      · simp [hj]
      · simp [hj, BitVec.getLsbD_of_ge d j (by omega)]

section
variable (s : State)

theorem State.clearChannels_only : LoadOnly s s.clearChannels :=
  (LoadOnly.withLcm s _).trans (LoadOnly.foldl LoadOnly.clearShort _ _)

theorem State.clearChannels_carried : Carried s s.clearChannels := by
  have h : Carried s (s.withLcm { s.lcm with
      chans := mapTable Channel.cleared s.lcm.chans, shedCounter := 0, reserved := 0 }) :=
    ⟨rfl, rfl, rfl, rfl, rfl, rfl, rfl, rfl, rfl, rfl, rfl, fun c => by
      simp [mapTable, State.chan, Channel.cleared, Channel.leave, Channel.steady], rfl, fun _ _ => rfl⟩
  exact h.trans (Carried.foldl Carried.clearShort channelNumbers _)

theorem State.composeBeacon_ia (b : Beacon) : (s.composeBeacon b).ia = s.ia := by
  unfold State.composeBeacon State.fillOwn
  dsimp only
  split <;> rfl

theorem State.composeBeacon_op (b : Beacon) : (s.composeBeacon b).osm = s.osm := by
  unfold State.composeBeacon State.fillOwn
  dsimp only
  split <;> rfl

/-- R191: the entry to PATTERN. -/
theorem State.enterPattern_op : s.enterPattern.osm.op = .pattern := by
  have hop : (s.enterOp .pattern).clearChannels.osm = (s.enterOp .pattern).osm :=
    ((s.enterOp .pattern).clearChannels_only).same.2.2.2.2.2.2.1
  unfold State.enterPattern
  dsimp only
  split
  · exact congrArg OpMachine.op hop
  · rw [State.composeBeacon_op]
    exact congrArg OpMachine.op hop

theorem State.enterPattern_keyOn (hp : s.ConsolePlaced) : s.enterPattern.keyOn = s.keyOn := by
  have hclear := (Carried.enterOp s .pattern).trans (s.enterOp .pattern).clearChannels_carried
  have hia : (s.enterOp .pattern).clearChannels.ia = s.ia := ((s.enterOp .pattern).clearChannels_only).same.2.2.2.2.2.2.2.1
  have hset : (((s.enterOp .pattern).clearChannels).withAe
      { (s.enterOp .pattern).clearChannels.ae with regenRequest := 0 }).keyOn = s.keyOn :=
    hclear.keyOn hp (congrArg Interlock.heldKey hia)
  unfold State.enterPattern
  dsimp only
  split
  · exact hset
  · refine ((Carried.composeBeacon _ _).keyOn (fun ho => ?_) ?_).trans hset
    · have hown : (s.enterOp .pattern).clearChannels.isOwn (s.enterOp .pattern).clearChannels.settings.consoleStation =
        true := ho
      rw [hclear.isOwn, hclear.settings] at hown
      exact hclear.role.trans (hp hown)
    · exact congrArg Interlock.heldKey (State.composeBeacon_ia _ _)

theorem State.takePatternOn_eq (n : Nat) : s.takePatternOn n =
    if s.patternResult = .done then (s.storeResult n s.patternResult).enterPattern else s.storeResult n s.patternResult := rfl

/-- R190: what a PATTERN_ON answered DONE has found. -/
theorem State.patternResult_done (h : s.patternResult = .done) : s.osm.op = .active ∧ s.ae.draw = 0 := by
  unfold State.patternResult at h
  split at h
  · cases h
  · next ho =>
    split at h
    · cases h
    · next hd => exact ⟨not_not.mp ho, by by_contra hne; exact hd (.inl hne)⟩

end

/-- What a command does to the operating state before the key and the draw are looked at. -/
inductive OpStep (s u : State) (c : Instr) : Prop
  | same : u.osm.op = s.osm.op → OpStep s u c
  | loads (x : Straps) : c = .loadingEnd x → s.osm.op = .loading →
      u.osm.op = .maintenance ∨ u.osm.op = .faulted ∨ u.osm.op = .listening → OpStep s u c
  | wakes : s.osm.op = .dormant → u.osm.op = .listening → OpStep s u c
  | begins : s.osm.op = .active → u.osm.op = .pattern → (s.ActiveOk → u.keyOn = true) → OpStep s u c
  | ends : s.osm.op = .pattern → u.osm.op = .listening → OpStep s u c
  | starts : s.osm.op = .listening → u.osm.op = .active ∨ u.osm.op = .parked → OpStep s u c
  | sleeps : s.osm.op = .parked → u.osm.op = .dormant → OpStep s u c

section
variable {s : State}

/-- R198: in ACTIVE with no draw the key is on. -/
theorem State.ActiveOk.key (h : s.ActiveOk) (ho : s.osm.op = .active) (hd : s.ae.draw = 0) : s.keyOn = true :=
  (h.2 ho).resolve_right (by omega)

theorem State.ActiveOk.placed (h : s.ActiveOk) (hr : s.osm.op.runs = true) : s.ConsolePlaced := by
  intro ho
  simp only [State.isOwn, Bool.and_eq_true, beq_iff_eq] at ho
  exact h.1 hr ho.1.symm

/-- PATTERN_ON and PATTERN_OFF, taken at a state with the operating state of an earlier one. -/
theorem OpStep.pattern {t u : State} {c : Instr} (n : Nat) (kind : CommandKind) (hk : kind = .patternOn ∨ kind = .patternOff)
    (ho : t.osm.op = s.osm.op) (hp : s.ActiveOk → t.osm.op = .active → t.ConsolePlaced)
    (hkey : s.ActiveOk → t.osm.op = .active → t.ae.draw = 0 → t.keyOn = true)
    (hu : u.osm.op = (t.takeCommand n kind).osm.op) (huk : u.keyOn = (t.takeCommand n kind).keyOn) : OpStep s u c := by
  have hop := hu
  obtain rfl | rfl := hk
  · have htake : t.takeCommand n .patternOn = if t.patternResult = .done then
      (t.storeResult n t.patternResult).enterPattern else t.storeResult n t.patternResult := rfl
    rw [htake] at hop huk
    split at hop
    · next hd =>
      rw [if_pos hd] at huk
      obtain ⟨ha, hz⟩ := t.patternResult_done hd
      refine .begins (ho.symm.trans ha) (hop.trans (State.enterPattern_op _)) fun hok => ?_
      have hplaced : (t.storeResult n t.patternResult).ConsolePlaced := hp hok ha
      rw [huk, State.enterPattern_keyOn _ hplaced]
      exact hkey hok ha hz
    · exact .same (hop.trans ho)
  · have htake : t.takeCommand n .patternOff = if t.osm.op = .pattern then (t.storeResult n .done).endPattern
      else t.storeResult n .done := rfl
    rw [htake] at hop
    split at hop
    · next hpat => exact .ends (ho.symm.trans hpat) hop
    · exact .same (hop.trans ho)

theorem OpStep.command {c : Instr} (n : Nat) (kind : CommandKind) : OpStep s (s.takeCommand n kind) c := by
  by_cases hk : kind = .patternOn ∨ kind = .patternOff
  · exact .pattern n kind hk rfl (fun h ha => h.placed (by rw [ha]; rfl)) (fun h => h.key) rfl rfl
  · refine .same ((Changes.takeCommand (E := s.commandSpecials kind) s n kind (fun hm => ?_) fun _ => id).op_same ?_ ?_)
    · exact absurd (hm.imp And.left And.left) hk
    · intro hm
      obtain k | ⟨k, -⟩ | ⟨p, a, ps, k, -⟩ := State.mem_commandSpecials hm <;> cases k
    · intro hm
      obtain k | ⟨k, -⟩ | ⟨p, a, ps, k, -⟩ := State.mem_commandSpecials hm <;> cases k

theorem LoadOnly.edgeChannel (i : Nat) (c : Fin 4) : LoadOnly s (State.edgeChannel i s c) :=
  .ite (.setChan s c _) (.refl s)

theorem LoadOnly.keyOn {t : State} (h : LoadOnly s t) : t.keyOn = s.keyOn := by
  obtain ⟨l, a, r, rfl⟩ := h
  rfl

theorem LoadOnly.op {t : State} (h : LoadOnly s t) : t.osm = s.osm := h.same.2.2.2.2.2.2.1

/-- A pattern switch's edge, which the console takes itself (R176). -/
theorem OpStep.generate {t u : State} {c : Instr} (kind : CommandKind) (hk : kind = .patternOn ∨ kind = .patternOff)
    (hr : t.osm.role = .console) (ho : t.osm.op = s.osm.op)
    (hkey : s.ActiveOk → t.osm.op = .active → t.ae.draw = 0 → t.keyOn = true) (hu : LoadOnly (t.generate 0 kind) u) :
    OpStep s u c := by
  obtain ⟨v, n, hv, hosm, hae, hkeep⟩ : ∃ v n, t.generate 0 kind = v.takeCommand n kind ∧ v.osm = t.osm ∧ v.ae = t.ae ∧
      v.keyOn = t.keyOn :=
    ⟨(t.withCf { t.cf with commandCounter := (t.cf.commandCounter + 1) % 256 }).pushCommand
      (.command 0 t.cf.commandCounter kind), _, rfl, rfl, rfl, rfl⟩
  rw [hv] at hu
  refine .pattern n kind hk ((congrArg OpMachine.op hosm).trans ho) (fun _ _ _ => hosm ▸ hr) (fun hok hop hd => ?_)
    (congrArg OpMachine.op hu.op) hu.keyOn
  rw [hkeep]
  exact hkey hok (hosm ▸ hop) (hae ▸ hd)

theorem OpStep.switch {c : Instr} (level : Bool) : OpStep s (s.takeInput 4 level) c := by
  have hedges : ∀ t : State, LoadOnly t (if level = true then channelNumbers.foldl (State.edgeChannel 4) t else t) :=
    fun t => .ite (.foldl (fun t c => LoadOnly.edgeChannel 4 c) _ _) (.refl t)
  have hdin : (setLevel s.su.din 4 level).getLsbD 7 = s.su.din.getLsbD 7 :=
    (getLsbD_setLevel s.su.din (by decide) level 7).trans (if_neg (by decide))
  unfold State.takeInput
  dsimp only
  generalize ha : s.withSu { s.su with din := setLevel s.su.din 4 level } = a
  have hosm : a.osm = s.osm := ha ▸ rfl
  by_cases hr : a.osm.role = .console
  · rw [if_pos hr]
    have hrs : s.osm.role = .console := hosm ▸ hr
    have hkey : a.keyOn = s.keyOn := by
      unfold State.keyOn
      rw [if_pos hr, if_pos hrs]
      exact ha ▸ hdin
    have hactive : s.ActiveOk → a.osm.op = .active → a.ae.draw = 0 → a.keyOn = true := fun h ho hd =>
      hkey.trans (h.key (hosm ▸ ho) (by rw [← hd, ← ha]; rfl))
    obtain hb | ⟨kind, hk, hb⟩ : a.consoleInput 4 level = a ∨
        ∃ kind, (kind = CommandKind.patternOn ∨ kind = .patternOff) ∧ a.consoleInput 4 level = a.generate 0 kind := by
      unfold State.consoleInput State.pressButton
      simp only [Nat.reduceEqDiff, if_false, true_and]
      split
      · split
        · exact .inr ⟨_, .inl rfl, rfl⟩
        · exact .inl rfl
      · split
        · exact .inr ⟨_, .inr rfl, rfl⟩
        · exact .inl rfl
    · rw [hb]
      exact .same ((congrArg OpMachine.op (hedges _).op).trans (congrArg OpMachine.op hosm))
    · rw [hb]
      exact .generate kind hk hr (congrArg OpMachine.op hosm) hactive (hedges _)
  · rw [if_neg hr]
    exact .same ((congrArg OpMachine.op (hedges _).op).trans (congrArg OpMachine.op hosm))

end

end Sys2Proof.Machine

/-! The moves of the operating state (Table 11-2) and the condition of ACTIVE (R190, R195, R198, R199). -/

namespace Sys2Proof.Machine

section
variable {s : State}

/-- The settled values, the role and the number are given by LOADING_END. -/
theorem Changes.settled {E : List Special} {t : State} (h : Changes E s t) (hl : .loads ∉ E) :
    t.settings = s.settings ∧ t.osm.role = s.osm.role ∧ t.osm.number = s.osm.number := by
  have h := h.same (f := fun s => (s.settings, s.osm.carried)) fun _ _ => Change.settled hl
  exact ⟨congrArg Prod.fst h, congrArg (fun x => x.2.1) h, congrArg (fun x => x.2.2.1) h⟩

/-- LOADING_END's entry, as changes of a state that has its operating state, role, number and settled values. -/
theorem State.loaded_changes (o : OpState) (r : Role) (n : Nat) (c : Settings) :
    ∃ v : State, v.osm.op = o ∧ v.osm.role = r ∧ v.osm.number = n ∧ v.settings = c ∧ v.OwnShown ∧
      Changes [] v (s.loaded o r n c) ∧ v.lcm = s.lcm := by
  rw [State.loaded_eq]
  dsimp only
  have h : ∀ v : State, Changes [] v (if o = .maintenance then v.restartDue else v.restartDue.startCarrier).startTracking.startFlash :=
    fun v => (((Changes.restartDue v).trans (.ite (fun _ => .refl _) fun _ => Changes.startCarrier _)).trans
      (Changes.startTracking _)).trans (Changes.startFlash _)
  exact ⟨_, rfl, rfl, rfl, rfl, State.ownShown_emptyTable _ _, h _, rfl⟩

theorem State.loaded_op (o : OpState) (r : Role) (n : Nat) (c : Settings) : (s.loaded o r n c).osm.op = o := by
  obtain ⟨v, h, -, -, -, -, hv, -⟩ := s.loaded_changes o r n c
  exact hv.op_same.trans h

theorem State.enterFaulted_op (x : Straps) : (s.enterFaulted x).osm.op = .faulted := by
  have h : ∀ t : State, Changes [] t (t.readSpecial.onset .configFault 0) := fun t =>
    (Changes.readSpecial t).trans (Changes.onset _ _ _)
  exact (h _).op_same.trans (State.loaded_op _ _ _ _)

/-- R195, R196: LISTENING runs on the settled image with the straps' role and number. -/
theorem State.enterRunning_settled (x : Straps) : (s.enterRunning x).settings = settle (strapsRole x) s.cs.image ∧
    (s.enterRunning x).osm.role = strapsRole x ∧ (s.enterRunning x).osm.number = x.number.toNat := by
  obtain ⟨v, -, hr, hn, hs, -, hv, -⟩ := s.loaded_changes .listening (strapsRole x) x.number.toNat (settle (strapsRole x) s.cs.image)
  have h := (hv.trans (Changes.readSpecial _)).settled (by simp)
  exact ⟨h.1.trans hs, h.2.1.trans hr, h.2.2.trans hn⟩

theorem State.wake_op : s.wake.osm.op = .listening := by
  have h : Changes [] (s.enterOp .listening) s.wake :=
    ((((Changes.restartDue _).trans (Changes.startCarrier _)).trans (Changes.startTracking _)).trans
      (Changes.startFlash _)).trans (Changes.readSpecial _)
  exact h.op_same

theorem State.enterParked_op : s.enterParked.osm.op = .parked := by
  have h : Changes [] (s.enterOp .parked) s.enterParked :=
    (((Changes.restartDue _).trans (Changes.reperiodAll _)).trans (.foldl Changes.parkChannel _ _)).trans
      (Loads.resetCounter _).sheds
  exact h.op_same

theorem PoleTimer.op {c : Instr} {w : Option Pole} {u : State} (h : PoleTimer s c w u) :
    (u.finishPoles w).osm.op = s.osm.op := by
  refine (h.changes.trans (Changes.finishPoles _ _)).op_same ?_ fun hm => ?_
  · cases h with
    | forgive p => exact fun hm => nomatch List.mem_singleton.mp hm
    | suspect p => exact fun hm => nomatch List.mem_singleton.mp hm
    | _ => exact nofun
  · obtain ⟨x, rfl⟩ := State.mem_specials hm
    cases h

/-- What a command does to the operating state before the blocks react. -/
theorem Effect.opStep {c : Instr} {cue : Cue} {u : State} (h : Effect s c cue u) : OpStep s u c := by
  cases h with
  | maintenance x h => exact .loads x rfl h (.inl (State.loaded_op _ _ _ _))
  | faulted x h =>
    refine .loads x rfl h (.inr (.inl ?_))
    exact s.enterFaulted_op x
  | running x h =>
    refine .loads x rfl h (.inr (.inr ?_))
    exact (Changes.readSpecial (E := []) _).op_same.trans (State.loaded_op _ _ _ _)
  | sample x h =>
    exact .same (Changes.takeSample (E := [.readings, .places, .heights, .flags, .heat]) s x (by simp) (by simp) (by simp)
      (by simp) (by simp) (by simp) (OpState.samples_not_loading h)).op_same
  | input i level =>
    by_cases hi : i.val = 4
    · rw [hi]
      exact .switch level
    · exact .same (Changes.takeInput (E := [.inputs, .counter, .results]) s (by simp) (by simp) (by simp) (by simp) i.val level
        fun k => absurd k hi).op_same
  | wake c _ h => exact .wakes h State.wake_op
  | duplicate c f _ hf => exact .same (Changes.duplicateFound (E := [.duplicates]) s (by simp)).op_same
  | beacon f n b hr hf ho =>
    exact .same (Changes.takeBeacon (E := []) s n b (by simp) (State.taken_ne_number hf ho)
      (OpState.composes_not_loading hr)).op_same
  | pattern f n p => exact .same (Changes.takePattern (E := []) s n p).op_same
  | cut f n o c k hr hf ho =>
    exact .same (Changes.takeCut (E := []) s n o c k (State.taken_ne_number hf ho) (OpState.composes_not_loading hr)).op_same
  | release f n o c k => exact .same (Changes.takeRelease (E := []) s n o c k).op_same
  | command f n o g k kind => exact .command k kind
  | ignored f => exact .same rfl
  | judged k kind => exact .command k.toNat kind
  | stale n => exact .same (Changes.becomeStale (E := []) s _).op_same
  | phantom n => exact .same (Changes.becomePhantom (E := []) s _).op_same
  | hold n => exact .same (Changes.becomeEmpty (E := []) s _).op_same
  | silence n => exact .same ((Changes.setCheck (E := []) s _ _).trans (Changes.onset _ _ _)).op_same
  | restoring h => exact .same (Changes.beginRestoring (E := []) s h).op_same
  | computed k h => exact .same (Changes.endComputation (E := [.computes]) s k (by simp) h).op_same
  | spacing => exact .same rfl
  | started c => exact .same rfl
  | minOn c hr => exact .same (Changes.minOnReached (E := []) c hr).op_same
  | minOff c => exact .same rfl
  | cycle c => exact .same rfl
  | tail => exact .same rfl
  | poles c w v _ h => exact .same h.op
  | bounce p =>
    have h : Changes [] (s.setPole p { s.pole p with
        bounces := (s.pole p).bounces.filter (fun t => decide (s.osm.uptime < t + 60000)) }) (s.expireBounces p) :=
      .ite (fun _ => Changes.clearCond _ _ _) fun _ => .refl _
    exact .same h.op_same
  | active h hk => exact .starts h (.inl rfl)
  | parked h hk => exact .starts h (.inr State.enterParked_op)
  | dormant h => exact .sleeps h rfl

/-- A channel but for the window's duties, which a carrier slot takes. -/
def Channel.unclocked (ch : Channel) : Channel := { ch with winDuty := 0, winSink := 0 }

/-- What a change leaves to which the other blocks do not react. -/
structure Aside (s t : State) : Prop where
  settings : t.settings = s.settings
  osm : t.osm = s.osm
  su : t.su = s.su
  pvt : t.pvt = s.pvt
  cc : t.cc = s.cc
  ia : t.ia = s.ia
  au : t.au = s.au
  ae : ∃ x k w d n o, t.ae =
    { s.ae with snapshot := x, computing := k, waiting := w, due := d, sinkOffered := n, setpointOut := o }
  chan : ∀ c, (t.chan c).unclocked = (s.chan c).unclocked
  pole : ∀ p, (t.pole p).state = (s.pole p).state
  cf : t.cf.special = s.cf.special ∧ t.cf.heat = s.cf.heat
  batteryPart : t.lcm.batteryPart = s.lcm.batteryPart
  pwu : ∃ a b c d e, t.pwu = { s.pwu with pos := a, neg := b, trackClock := c, sampled := d, trackWaits := e }

theorem Aside.refl (s : State) : Aside s s :=
  ⟨rfl, rfl, rfl, rfl, rfl, rfl, rfl, ⟨_, _, _, _, _, _, rfl⟩, fun _ => rfl, fun _ => rfl, ⟨rfl, rfl⟩, rfl, ⟨_, _, _, _, _, rfl⟩⟩

theorem Aside.trans {u : State} {t : State} (h : Aside s t) (k : Aside t u) : Aside s u := by
  obtain ⟨a1, a2, a3, a4, a5, a6, a7, ⟨x, l, w, d, n, o, a8⟩, a9, a10, ⟨f, g⟩, m, ⟨p, q, y, z, e, a11⟩⟩ := h
  obtain ⟨b1, b2, b3, b4, b5, b6, b7, ⟨x', l', w', d', n', o', b8⟩, b9, b10, ⟨f', g'⟩, m', ⟨p', q', y', z', e', b11⟩⟩ := k
  exact ⟨b1.trans a1, b2.trans a2, b3.trans a3, b4.trans a4, b5.trans a5, b6.trans a6, b7.trans a7,
    ⟨x', l', w', d', n', o', by rw [b8, a8]⟩, fun c => (b9 c).trans (a9 c), fun c => (b10 c).trans (a10 c), ⟨f'.trans f, g'.trans g⟩, m'.trans m,
    ⟨p', q', y', z', e', by rw [b11, a11]⟩⟩

theorem Aside.startComputation (k : CompKind) : Aside s (s.startComputation k) :=
  ⟨rfl, rfl, rfl, rfl, rfl, rfl, rfl, ⟨_, _, _, _, _, _, rfl⟩, fun _ => rfl, fun _ => rfl, ⟨rfl, rfl⟩, rfl, ⟨_, _, _, _, _, rfl⟩⟩

theorem Aside.withBus (b : BusUnit) : Aside s (s.withBus b) :=
  ⟨rfl, rfl, rfl, rfl, rfl, rfl, rfl, ⟨_, _, _, _, _, _, rfl⟩, fun _ => rfl, fun _ => rfl, ⟨rfl, rfl⟩, rfl, ⟨_, _, _, _, _, rfl⟩⟩

theorem Aside.withAe (x : Snapshot) (k w : Option CompKind) (d n o : Nat) : Aside s (s.withAe
    { s.ae with snapshot := x, computing := k, waiting := w, due := d, sinkOffered := n, setpointOut := o }) :=
  ⟨rfl, rfl, rfl, rfl, rfl, rfl, rfl, ⟨_, _, _, _, _, _, rfl⟩, fun _ => rfl, fun _ => rfl, ⟨rfl, rfl⟩, rfl, ⟨_, _, _, _, _, rfl⟩⟩

theorem Aside.allotmentEvent (k : CompKind) : Aside s (s.allotmentEvent k) := by
  refine (Aside.withAe s.ae.snapshot s.ae.computing (some (joinKind s.ae.waiting k)) s.ae.due s.ae.sinkOffered
    s.ae.setpointOut).trans ?_
  unfold State.allotmentEvent State.startWaiting
  split
  · exact (Aside.withAe _ _ none _ _ _).trans (.startComputation _)
  · exact .refl _

theorem Aside.trackDue (c : Nat) : Aside s (s.withPwu { s.pwu with trackClock := some c, trackWaits := true }) :=
  ⟨rfl, rfl, rfl, rfl, rfl, rfl, rfl, ⟨_, _, _, _, _, _, rfl⟩, fun _ => rfl, fun p => by cases p <;> rfl, ⟨rfl, rfl⟩, rfl, ⟨_, _, _, _, _, rfl⟩⟩

theorem Aside.trackPole (p : Pole) : Aside s (s.trackPole p) := by
  unfold State.trackPole
  dsimp only
  split
  · refine ⟨rfl, rfl, rfl, rfl, rfl, rfl, rfl, ⟨_, _, _, _, _, _, rfl⟩, fun _ => rfl, fun q => ?_, ⟨rfl, rfl⟩, rfl, ?_⟩
    · cases p <;> cases q <;> rfl
    · cases p <;> exact ⟨_, _, _, _, _, rfl⟩
  · exact .refl s

theorem Aside.trackPoles : Aside s s.trackPoles := by
  have h : Aside s (bothPoles.foldl State.trackPole s) := (Aside.trackPole .pos).trans (.trackPole .neg)
  refine h.trans ⟨rfl, rfl, rfl, rfl, rfl, rfl, rfl, ⟨_, _, _, _, _, _, rfl⟩, fun _ => rfl, fun q => ?_, ⟨rfl, rfl⟩, rfl, ⟨_, _, _, _, _, rfl⟩⟩
  cases q <;> rfl

theorem Aside.stopSending (waits : BusUnit → Sending → BusUnit) : Aside s (s.stopSending waits) := by
  unfold State.stopSending
  split
  · exact .refl s
  · exact .withBus _

theorem Aside.plain {t : State} (settings : t.settings = s.settings := by rfl) (osm : t.osm = s.osm := by rfl)
    (su : t.su = s.su := by rfl) (pvt : t.pvt = s.pvt := by rfl) (cc : t.cc = s.cc := by rfl) (ia : t.ia = s.ia := by rfl)
    (au : t.au = s.au := by rfl) (ae : t.ae = s.ae := by rfl) (lcm : ∀ c, (t.chan c).unclocked = (s.chan c).unclocked := by exact fun _ => rfl)
    (pwu : t.pwu = s.pwu := by rfl)
    (cf : t.cf.special = s.cf.special ∧ t.cf.heat = s.cf.heat := by exact ⟨rfl, rfl⟩)
    (batteryPart : t.lcm.batteryPart = s.lcm.batteryPart := by rfl) : Aside s t :=
  ⟨settings, osm, su, pvt, cc, ia, au, ⟨_, _, _, _, _, _, ae⟩, lcm, fun p => by unfold State.pole; rw [pwu],
    cf, batteryPart, ⟨_, _, _, _, _, pwu⟩⟩

/-- What a change leaves to which the other blocks do not react. -/
theorem Direct.aside {c : Instr} {t : State} (h : Direct s c t) : Aside s t := by
  cases h with
  | periodic => exact (Aside.withAe _ _ _ (s.ae.due - s.periodInForce) _ _).trans (.allotmentEvent _)
  | setpoint => exact .withAe _ _ _ _ _ s.ae.setpoint
  | track c => exact (Aside.trackDue c).trans .trackPoles
  | trackWaits c => exact .trackDue c
  | carrier =>
    refine .plain (lcm := fun c => ?_)
    show Channel.unclocked ((mapTable Channel.takeWindow s.lcm.chans)[c]) = _
    simp [mapTable, State.chan, Channel.takeWindow, Channel.unclocked]
  | flash => exact .plain
  | start =>
    unfold State.beginSending
    split
    · exact .withBus _
    · exact .refl s
  | lost => exact .stopSending _
  | abort => exact (Aside.stopSending _).trans .plain
  | complete => exact .withBus _
  | readImage => exact .plain
  | readBusy => exact .plain
  | readSnapshot => exact .plain
  | writePage p b wp => exact .plain
  | pageDone w => exact .plain

end

section
variable {s t : State}

theorem Aside.draw (h : Aside s t) : t.ae.draw = s.ae.draw := by
  obtain ⟨x, k, w, d, n, o, e⟩ := h.ae
  rw [e]

theorem Aside.keyOn (h : Aside s t) : t.keyOn = s.keyOn := by
  unfold State.keyOn State.din
  rw [h.osm, h.settings, h.su, h.pvt, h.ia]

/-- Table 11-2: a command's own move and the one its reaction makes. -/
theorem OpStep.moves {c : Instr} {u : State} (h : OpStep s u c) (ha : s.ActiveOk) (cue : Cue) (s0 : State)
    (hm : (State.react cue s0 u).osm.op ≠ s.osm.op) : (State.react cue s0 u).osm.op ∈ opMoves s.osm.op := by
  have hr := State.react_op cue s0 u
  generalize (State.react cue s0 u).osm.op = o at hr hm ⊢
  cases h with
  | same h =>
    rw [h] at hr
    generalize s.osm.op = a at hr hm ⊢
    cases a with
    | active =>
      dsimp only at hr
      split at hr
      · exact hr ▸ by decide
      · exact absurd hr hm
    | parked =>
      dsimp only at hr
      split at hr
      · exact hr ▸ by decide
      · exact absurd hr hm
    | pattern =>
      dsimp only at hr
      split at hr
      · exact absurd hr hm
      · exact hr ▸ by decide
    | dormant =>
      dsimp only at hr
      split at hr
      · exact hr ▸ by decide
      · exact absurd hr hm
    | _ => exact absurd hr hm
  | loads x _ h k =>
    rw [h]
    obtain k | k | k := k <;> rw [k] at hr <;> dsimp only at hr <;> exact hr ▸ by decide
  | wakes h k => rw [h]; rw [k] at hr; dsimp only at hr; exact hr ▸ by decide
  | begins h k key => rw [h]; rw [k, key ha] at hr; simp only [if_true] at hr; exact hr ▸ by decide
  | ends h k => rw [h]; rw [k] at hr; dsimp only at hr; exact hr ▸ by decide
  | starts h k =>
    rw [h] at hm ⊢
    obtain k | k := k <;> rw [k] at hr <;> dsimp only at hr <;> split at hr
    · exact hr ▸ by decide
    · exact hr ▸ by decide
    · exact absurd hr hm
    · exact hr ▸ by decide
  | sleeps h k =>
    rw [h]
    rw [k] at hr
    dsimp only at hr
    split at hr <;> exact hr ▸ by decide

/-- LOADING is left by LOADING_END. -/
theorem OpStep.loading {c : Instr} {u : State} (h : OpStep s u c) (cue : Cue) (s0 : State) (ho : s.osm.op = .loading)
    (hm : (State.react cue s0 u).osm.op ≠ .loading) : ∃ x, c = .loadingEnd x := by
  cases h with
  | same h => exact absurd ((State.react_op_same cue s0 u (.inl (h.trans ho))).trans (h.trans ho)) hm
  | loads x h => exact ⟨x, h⟩
  | wakes h => exact nomatch h.symm.trans ho
  | begins h => exact nomatch h.symm.trans ho
  | ends h => exact nomatch h.symm.trans ho
  | starts h => exact nomatch h.symm.trans ho
  | sleeps h => exact nomatch h.symm.trans ho

/-- R198: what a reaction leaves in ACTIVE. -/
theorem State.react_active {u : State} (cue : Cue) (s0 : State) (hp : u.osm.op = .active → u.ConsolePlaced)
    (h : (State.react cue s0 u).osm.op = .active) :
    (State.react cue s0 u).keyOn = true ∨ 0 < (State.react cue s0 u).ae.draw := by
  have hr := State.react_op cue s0 u
  rw [h] at hr
  have hu : u.osm.op = .active := by
    generalize u.osm.op = a at hr
    cases a with
    | active => rfl
    | parked => dsimp only at hr; split at hr <;> cases hr
    | pattern => dsimp only at hr; split at hr <;> cases hr
    | dormant => dsimp only at hr; split at hr <;> cases hr
    | _ => cases hr
  rw [hu] at hr
  rw [State.react_keyOn cue s0 u (hp hu) (h.trans hu.symm), (Closed.react_same cue s0 u (h.trans hu.symm)).draw]
  dsimp only at hr
  split at hr
  · cases hr
  · next hc =>
    rw [Bool.and_eq_true, not_and, Bool.not_eq_true'] at hc
    cases hk : u.keyOn with
    | true => exact .inl rfl
    | false => exact .inr (Nat.pos_of_ne_zero fun h0 => hc hk (by simp [h0]))

/-- R195 check 4: a station that runs on its image bears the console station's number in the role CONSOLE alone. -/
theorem State.consolePlaced_iff : s.ConsolePlaced ↔
    (s.osm.number ≠ 0 → s.osm.number = s.settings.consoleStation → s.osm.role = .console) := by
  unfold State.ConsolePlaced State.isOwn
  rw [Bool.and_eq_true, beq_iff_eq, bne_iff_ne]
  exact ⟨fun h h0 he => h ⟨he.symm, he ▸ h0⟩, fun h hn => h (hn.1 ▸ hn.2) hn.1.symm⟩

/-- R195 check 4: an image that agrees with the straps names this station as the role does. -/
theorem State.enterRunning_placed (x : Straps) (h : s.loadFails x = false) :
    ((s.enterRunning x).osm.number = (s.enterRunning x).settings.consoleStation → (s.enterRunning x).osm.role = .console) ∧
    ((s.enterRunning x).osm.number = (s.enterRunning x).settings.poleStation → (s.enterRunning x).osm.role = .pole) := by
  obtain ⟨hs, hr, hn⟩ := s.enterRunning_settled x
  have hroles : rolesDisagree s.cs.image (strapsRole x) x.number.toNat = false := by
    unfold State.loadFails at h
    exact (Bool.or_eq_false_iff.mp h).2
  unfold rolesDisagree at hroles
  rw [hs, hr, hn]
  simp only [Bool.or_eq_false_iff, Bool.and_eq_false_iff, beq_eq_false_iff_ne, bne_eq_false_iff_eq] at hroles
  obtain ⟨⟨⟨-, -⟩, hpole⟩, hconsole⟩ := hroles
  exact ⟨fun e => hconsole.resolve_left fun k => k e, fun e => hpole.resolve_left fun k => k e⟩

end

section
variable {s u : State} {c : Instr} {cue : Cue}

/-- Of the states a station can be in, only LOADING is left for one that runs. -/
theorem OpStep.running (h : OpStep s u c) (hr : u.osm.op.runs = true) :
    s.osm.op.runs = true ∨ (∃ x, c = .loadingEnd x) ∧ s.osm.op = .loading := by
  cases h with
  | same h => exact .inl (h ▸ hr)
  | loads x h k => exact .inr ⟨⟨x, h⟩, k⟩
  | wakes h => exact .inl (h ▸ rfl)
  | begins h => exact .inl (h ▸ rfl)
  | ends h => exact .inl (h ▸ rfl)
  | starts h => exact .inl (h ▸ rfl)
  | sleeps h => exact .inl (h ▸ rfl)

/-- The settled values, the role and the number are given in LOADING alone. -/
theorem Effect.not_loads (h : Effect s c cue u) (hl : s.osm.op ≠ .loading) : .loads ∉ .moves :: s.specials c := by
  intro hm
  obtain ⟨x, hc⟩ := State.mem_moves (k := .loads) (by simpa using hm)
  cases h with
  | maintenance x h => exact hl h
  | faulted x h => exact hl h
  | running x h => exact hl h
  | poles c w u _ h => subst hc; cases h
  | wake _ h => subst hc; cases h
  | duplicate _ _ _ h => subst hc; cases h
  | judged k kind => cases kind <;> cases hc
  | _ => cases hc

/-- A command other than LOADING_END in LOADING leaves the settled values, the role and the number. -/
theorem Effect.settled (h : Effect s c cue u) (hl : s.osm.op ≠ .loading) :
    u.settings = s.settings ∧ u.osm.role = s.osm.role ∧ u.osm.number = s.osm.number :=
  h.changes.settled (h.not_loads hl)

/-- What holds of the settled values, the role and the number as LOADING_END leaves them in LISTENING holds of a station that
runs on its image. -/
theorem Effect.keeps_settled {P : Settings → Role → Nat → Prop} (h : Effect s c cue u)
    (hload : ∀ x, s.loadFails x = false →
      P (s.enterRunning x).settings (s.enterRunning x).osm.role (s.enterRunning x).osm.number)
    (hs : s.osm.op.runs = true → P s.settings s.osm.role s.osm.number) (hr : u.osm.op.runs = true) :
    P u.settings u.osm.role u.osm.number := by
  obtain hrun | ⟨⟨x, hc⟩, hl⟩ := h.opStep.running hr
  · obtain ⟨h1, h2, h3⟩ := h.settled fun k => by rw [k] at hrun; cases hrun
    rw [h1, h2, h3]
    exact hs hrun
  · cases h with
    | maintenance y =>
      rw [State.enterMaintenance, State.loaded_op] at hr
      cases hr
    | faulted y =>
      rw [State.enterFaulted_op] at hr
      cases hr
    | running y _ hy => exact hload y hy
    | poles c w u _ h => subst hc; cases h
    | wake _ h => subst hc; cases h
    | duplicate _ _ _ h => subst hc; cases h
    | judged k kind => cases kind <;> cases hc
    | _ => cases hc

/-- A reaction leaves the settled values, the role and the number, and a station that runs has run before it. -/
theorem State.react_settled (cue : Cue) (s0 u : State) : (State.react cue s0 u).settings = u.settings ∧
    (State.react cue s0 u).osm.role = u.osm.role ∧ (State.react cue s0 u).osm.number = u.osm.number :=
  (Changes.react (E := [.moves, .admits]) u (by simp) (by simp) cue s0).settled (by simp)

theorem State.react_runs {cue : Cue} {s0 u : State} (h : (State.react cue s0 u).osm.op.runs = true) :
    u.osm.op.runs = true := by
  have hr := State.react_op cue s0 u
  generalize u.osm.op = a at hr
  cases a with
  | loading => rw [hr] at h; exact h
  | maintenance => rw [hr] at h; exact h
  | faulted => rw [hr] at h; exact h
  | _ => rfl

/-- R195 check 4: the placing of a station that runs on its image, kept by a command and its reaction. -/
theorem Effect.react_keeps_settled {P : Settings → Role → Nat → Prop} (h : Effect s c cue u)
    (hload : ∀ x, s.loadFails x = false →
      P (s.enterRunning x).settings (s.enterRunning x).osm.role (s.enterRunning x).osm.number)
    (hs : s.osm.op.runs = true → P s.settings s.osm.role s.osm.number) (s0 : State)
    (hr : (State.react cue s0 u).osm.op.runs = true) :
    P (State.react cue s0 u).settings (State.react cue s0 u).osm.role (State.react cue s0 u).osm.number := by
  obtain ⟨h1, h2, h3⟩ := State.react_settled cue s0 u
  rw [h1, h2, h3]
  exact h.keeps_settled hload hs (State.react_runs hr)

end

/-- Settles O16: a command's own move is one of Table 11-2 or none, and its reaction moves as `react_op` gives. -/
theorem operatingStateMoves : Obligations.OperatingStateMoves := by
  intro c s t ha h
  cases exec_outcomes h with
  | reset hc ht =>
    subst hc ht
    exact ⟨⟨nofun, nofun⟩, fun h => absurd rfl h, fun _ k => absurd rfl k⟩
  | same ht =>
    subst ht
    exact ⟨ha, fun _ h => absurd rfl h, fun h k => absurd h k⟩
  | direct d =>
    have hd := d.aside
    refine ⟨⟨?_, ?_⟩, fun _ hm => absurd (by rw [hd.osm]) hm, fun hl hm => absurd (by rw [hd.osm, hl]) hm⟩
    · rw [hd.osm, hd.settings]
      exact ha.1
    · rw [hd.osm, hd.keyOn, hd.draw]
      exact ha.2
  | react cue u e ht =>
    subst ht
    have hstep := e.opStep
    refine ⟨⟨?_, State.react_active cue s fun hu => ?_⟩, fun _ => hstep.moves ha cue s, hstep.loading cue s⟩
    · exact e.react_keeps_settled (P := fun c r n => n = c.consoleStation → r = .console)
        (fun x hx => (s.enterRunning_placed x hx).1) ha.1 s
    · rw [State.consolePlaced_iff]
      exact fun _ => e.keeps_settled (P := fun c r n => n = c.consoleStation → r = .console)
        (fun x hx => (s.enterRunning_placed x hx).1) ha.1 (by rw [hu]; rfl)

end Sys2Proof.Machine

/-! No current under a forcing condition (R42, R56, R60), and the draw within its grant (R39). -/

namespace Sys2Proof.Machine

section
variable {s t : State}

/-- R195 check 4: the pole station's entry is another station's, or the pole station's own. -/
def State.PolePlaced (s : State) : Prop := s.isOwn s.settings.poleStation = true → s.osm.role = .pole

theorem State.polePlaced_of (h : s.osm.number = s.settings.poleStation → s.osm.role = .pole) : s.PolePlaced := by
  intro ho
  rw [State.isOwn, Bool.and_eq_true, beq_iff_eq] at ho
  exact h ho.1.symm

/-- The forcing conditions where the cut set, the operating state, the pole watch unit and the others' entries stay. -/
theorem Carried.forced (h : Carried s t) (hp : s.osm.op.draws = true → s.PolePlaced) (hc : t.cc.cuts = s.cc.cuts)
    (ho : t.osm.op = s.osm.op) (hw : t.pwu.source = s.pwu.source) : t.forced = s.forced := by
  unfold State.forced
  rw [hc, ho]
  cases hd : s.osm.op.draws with
  | false => simp
  | true =>
    have hsource : t.sourceRead = s.sourceRead := by
      unfold State.sourceRead
      rw [h.role, h.settings]
      split
      · exact hw
      · next hr =>
        have hn : s.isOwn s.settings.poleStation = false := by
          by_contra hn
          exact hr (hp hd (by simpa using hn))
        unfold sourceOf
        rw [polePartOf_carried (h.peers _ hn)]
    rw [hsource]

/-- R42, R56, R60: what one pass over the blocks leaves under a forcing condition. -/
theorem Pass.zero {cue : Cue} {s0 u : State} (h : (State.settleBlocks cue s0 u).forced = true) :
    (State.settleBlocks cue s0 u).ae.draw = 0 ∧ (State.settleBlocks cue s0 u).ae.regen = 0 ∧
      (State.settleBlocks cue s0 u).ae.share = 0 := by
  have p := Pass.afterDriver cue s0 u
  rw [p.forced] at h
  have hd := p.draw
  have hr := p.regen
  have hs := p.share
  rw [if_pos h] at hd hr hs
  exact ⟨hd, Nat.le_zero.mp hr, Nat.le_zero.mp hs⟩

/-- A step's reaction ends as a pass over the blocks has left them. -/
theorem State.settleMove_pass (cue : Cue) (s0 u : State) : ∃ k v w,
    (State.settleBlocks cue s0 u).settleMove = State.settleBlocks k v w := by
  obtain ⟨-, h⟩ | ⟨-, h⟩ := (State.settleBlocks cue s0 u).settleMove_cases
  · exact ⟨cue, s0, u, h⟩
  · exact ⟨noCue, _, _, h⟩

/-- R42, R56, R60: what a step's reaction leaves under a forcing condition. -/
theorem State.react_zero (cue : Cue) (s0 u : State)
    (hp : (State.react cue s0 u).osm.op.runs = true → (State.react cue s0 u).PolePlaced)
    (h : (State.react cue s0 u).forced = true) :
    (State.react cue s0 u).ae.draw = 0 ∧ (State.react cue s0 u).ae.regen = 0 ∧ (State.react cue s0 u).ae.share = 0 := by
  have hclosed := Closed.react cue s0 u
  have hcarried := State.closing_carried cue s0 u
  obtain ⟨k, v, w, e⟩ := State.settleMove_pass cue s0 u
  rw [e] at hclosed hcarried
  have hforced : (State.react cue s0 u).forced = (State.settleBlocks k v w).forced := by
    refine hcarried.forced (fun hd hn => ?_) (congrArg CutUnit.cuts hclosed.cc) hclosed.op
      (congrArg PoleUnit.source hclosed.pwu)
    rw [← hclosed.op] at hd
    rw [← hcarried.isOwn, ← hcarried.settings] at hn
    rw [← hcarried.role]
    refine hp ?_ hn
    generalize (State.react cue s0 u).osm.op = o at hd
    cases o with
    | active => rfl
    | parked => rfl
    | _ => cases hd
  rw [hclosed.draw, hclosed.regen, hclosed.share]
  exact Pass.zero (hforced ▸ h)

theorem Aside.forced (h : Aside s t) : t.forced = s.forced := by
  obtain ⟨a, b, c, d, e, hw⟩ := h.pwu
  unfold State.forced State.sourceRead
  rw [h.cc, h.osm, h.settings, h.pvt, hw]

theorem Aside.currents (h : Aside s t) :
    t.ae.draw = s.ae.draw ∧ t.ae.regen = s.ae.regen ∧ t.ae.share = s.ae.share ∧ t.ae.grant = s.ae.grant ∧
      t.ae.regenRequest = s.ae.regenRequest := by
  obtain ⟨x, k, w, d, n, o, e⟩ := h.ae
  rw [e]
  exact ⟨rfl, rfl, rfl, rfl, rfl⟩

theorem State.placedOk_iff : s.PlacedOk ↔
    (s.osm.op.runs = true → s.osm.number = s.settings.poleStation → s.osm.role = .pole) := by
  unfold State.PlacedOk
  have h : s.osm.op.runs = true ↔ s.osm.op = .listening ∨ s.osm.op = .active ∨ s.osm.op = .pattern ∨ s.osm.op = .parked ∨
      s.osm.op = .dormant := by
    generalize s.osm.op = o
    cases o <;> decide
  rw [h]

/-- A heard beacon is read alike from an entry that has aged. -/
theorem Entry.tick_heardBeacon (e : Entry) : e.tick.heardBeacon = e.heardBeacon := by
  unfold Entry.tick
  split <;> rfl

theorem Ticked.heardBeacon (h : Ticked s t) (n : Nat) : (entryOf t.pvt n).heardBeacon = (entryOf s.pvt n).heardBeacon := by
  rw [h.pvt]
  unfold entryOf
  by_cases hn : 1 ≤ n ∧ n ≤ 15
  · rw [stationGet_mapTable _ _ _ _ hn]
    exact Entry.tick_heardBeacon _
  · simp [stationGet, hn]

theorem Ticked.op (h : Ticked s t) : t.osm.op = s.osm.op ∧ t.osm.role = s.osm.role ∧ t.osm.number = s.osm.number := by
  rw [h.osm]
  exact ⟨rfl, rfl, rfl⟩

theorem Ticked.forced (h : Ticked s t) : t.forced = s.forced := by
  obtain ⟨hop, hrole, -⟩ := h.op
  have hsource : t.pwu.source = s.pwu.source := by
    rw [h.pwu]
    split <;> rfl
  have hpart : ∀ n, polePartOf t.pvt n = polePartOf s.pvt n := fun n => by
    unfold polePartOf
    rw [h.heardBeacon]
  unfold State.forced State.sourceRead sourceOf
  rw [h.cc, CutUnit.tick_cuts, hop, hrole, h.settings, hsource, hpart]

theorem Ticked.currents (h : Ticked s t) :
    t.ae.draw = s.ae.draw ∧ t.ae.regen = s.ae.regen ∧ t.ae.share = s.ae.share ∧ t.ae.grant = s.ae.grant ∧
      t.ae.regenRequest = s.ae.regenRequest := by
  rw [h.ae]
  split <;> exact ⟨rfl, rfl, rfl, rfl, rfl⟩

end

/-- Settles O8: a reaction's last pass zeroes the currents under a forcing condition, and its closing part leaves what the
forcing conditions read, the pole station's entry being another station's where the role is not POLE. -/
theorem stepKeepsForcedZero : Obligations.StepKeepsForcedZero := by
  have h := step_keeps (P := fun s => s.PlacedOk ∧ s.ForcedOk) (fun _ _ h => h) (fun s h => ?_) (fun c s t h k => ?_)
  · exact fun s t hp hf hs => h s t ⟨hp, hf⟩ hs
  · have k := s.ticked
    obtain ⟨hop, hrole, hnumber⟩ := k.op
    obtain ⟨hd, hr, hs, -⟩ := k.currents
    refine ⟨?_, ?_⟩
    · rw [State.placedOk_iff, hop, hrole, hnumber, k.settings]
      exact State.placedOk_iff.mp h.1
    · unfold State.ForcedOk
      rw [k.forced, hd, hr, hs]
      exact h.2
  · obtain ⟨hp, hf⟩ := h
    cases exec_outcomes k with
    | reset hc ht =>
      subst hc ht
      exact ⟨State.placedOk_iff.mpr nofun, fun _ => ⟨rfl, rfl, rfl⟩⟩
    | same ht => exact ht ▸ ⟨hp, hf⟩
    | direct d =>
      have hd := d.aside
      obtain ⟨h1, h2, h3, -⟩ := hd.currents
      refine ⟨?_, ?_⟩
      · unfold State.PlacedOk
        rw [hd.osm, hd.settings]
        exact hp
      · unfold State.ForcedOk
        rw [hd.forced, h1, h2, h3]
        exact hf
    | react cue u e ht =>
      subst ht
      have hplaced := e.react_keeps_settled (P := fun c r n => n = c.poleStation → r = .pole)
        (fun x hx => (s.enterRunning_placed x hx).2) (State.placedOk_iff.mp hp) s
      exact ⟨State.placedOk_iff.mpr hplaced, State.react_zero cue s u fun hr => State.polePlaced_of (hplaced hr)⟩

/-- R39, R42: the draw within the grant, the grant within the station maximum, and none in LOADING. -/
def State.GrantOk (s : State) : Prop :=
  s.ae.draw ≤ s.ae.grant ∧ s.ae.grant ≤ s.settings.stationMax ∧
  (s.osm.op = .loading → s.ae.grant = 0 ∧ s.ae.computing = none ∧ s.ae.waiting = none)

section
variable {E : List Special} {s t : State}

theorem Change.grantOk (h : Change E s t) (hs : s.GrantOk) : t.GrantOk := by
  obtain ⟨hdraw, hmax, hload⟩ := hs
  cases h with
  | osm x _ ho => exact ⟨hdraw, hmax, fun h => hload (ho.symm.trans h)⟩
  | moved x _ _ ho => exact ⟨hdraw, hmax, fun h => hload (ho h)⟩
  | loaded x c w _ hl ho =>
    obtain ⟨h0, -⟩ := hload hl
    exact ⟨hdraw, h0.trans_le (Nat.zero_le _), fun h => absurd h ho⟩
  | ae x h =>
    refine ⟨h.draw.trans (hdraw.trans_eq h.grant.symm), h.grant.trans_le hmax, fun ho => ?_⟩
    obtain ⟨h0, hc, hw⟩ := hload ho
    exact ⟨h.grant.trans h0, h.idle ho hc hw⟩
  | computed x _ hc _ hd hg => exact ⟨hd hdraw, hg hmax, fun ho => absurd (hload ho).2.1 hc⟩
  | slept x _ hg hd _ hc hw => exact ⟨(hd.trans hg.symm).le, hg.trans_le (Nat.zero_le _), fun _ => ⟨hg, hc, hw⟩⟩
  | _ => exact ⟨hdraw, hmax, hload⟩

/-- R56: a step's reaction leaves the applied regen within the request. -/
theorem State.react_within (cue : Cue) (s0 u : State) :
    (State.react cue s0 u).ae.regen ≤ (State.react cue s0 u).ae.regenRequest := by
  have hclosed := Closed.react cue s0 u
  obtain ⟨k, v, w, e⟩ := State.settleMove_pass cue s0 u
  rw [e] at hclosed
  rw [hclosed.regen, hclosed.regenRequest]
  exact (Pass.afterDriver k v w).within

end

/-- Settles O9: the grant along changes (`Change.grantOk`), the regen by a reaction's last pass (`react_within`). -/
theorem stepKeepsDrawWithinGrant : Obligations.StepKeepsDrawWithinGrant := by
  have hsplit : ∀ s : State, s.DrawOk ↔ s.GrantOk ∧ s.ae.regen ≤ s.ae.regenRequest := fun s =>
    ⟨fun ⟨a, b, c, d⟩ => ⟨⟨a, b, d⟩, c⟩, fun ⟨⟨a, b, d⟩, c⟩ => ⟨a, b, c, d⟩⟩
  refine step_keeps (fun _ _ h => h) (fun s h => ?_) (fun c s t h k => ?_)
  · obtain ⟨hd, hr, -, hg, hq⟩ := s.ticked.currents
    obtain ⟨hop, -⟩ := s.ticked.op
    have hidle : s.tick.ae.computing = s.ae.computing ∧ s.tick.ae.waiting = s.ae.waiting := by
      rw [s.ticked.ae]
      split <;> exact ⟨rfl, rfl⟩
    unfold State.DrawOk
    rw [hd, hr, hg, hq, hop, hidle.1, hidle.2, s.ticked.settings]
    exact h
  · rw [hsplit] at h ⊢
    by_cases hc : c = .coldReset
    · subst hc
      injection k with k
      subst k
      exact ⟨⟨le_rfl, Nat.zero_le _, fun _ => ⟨rfl, rfl, rfl⟩⟩, le_rfl⟩
    · refine ⟨(exec_changes k hc).keeps (fun _ _ => Change.grantOk) h.1, ?_⟩
      cases exec_outcomes k with
      | reset hr => exact absurd hr hc
      | same ht => exact ht ▸ h.2
      | direct d =>
        obtain ⟨-, hr, -, -, hq⟩ := d.aside.currents
        rw [hr, hq]
        exact h.2
      | react cue u e ht => exact ht ▸ State.react_within cue s u

end Sys2Proof.Machine

/-! The setpoint output and the quick rows: claims, wake, clocks, and what holds after cold reset. -/

namespace Sys2Proof.Machine

section
variable {s t : State}

theorem State.load_eq_others (s : State) :
    ((channelNumbers.filter (fun d => (s.record d).kind != .converter)).map s.current).sum = s.load := by
  have h : ∀ l : List (Fin 4), ((l.filter (fun d => (s.record d).kind != .converter)).map s.current).sum =
      (l.map (fun c => loadCurrent (s.record c) (s.chan c))).sum := by
    intro l
    induction l with
    | nil => rfl
    | cons c l ih =>
      rw [List.filter_cons, List.map_cons, List.sum_cons, ← ih]
      split
      · next hk =>
        rw [List.map_cons, List.sum_cons, State.current, if_neg (by simpa using hk)]
      · next hk =>
        have hk : (s.record c).kind = .converter := by simpa using hk
        have h0 : loadCurrent (s.record c) (s.chan c) = 0 := by
          unfold loadCurrent
          rw [hk]
          exact ite_self 0
        rw [h0, Nat.zero_add]
  exact h _

theorem find?_channelNumbers (p : Fin 4 → Bool) (c : Fin 4) :
    channelNumbers.find? p = some c ↔ p c = true ∧ ∀ d < c, p d = false := by
  revert p c
  decide

theorem State.converter_eq_some {c : Fin 4} : s.converter = some c ↔
    ((s.record c).present = true ∧ (s.record c).kind = .converter) ∧
      ∀ d < c, (s.record d).present = true → (s.record d).kind ≠ .converter := by
  unfold State.converter
  rw [find?_channelNumbers, Bool.and_eq_true, beq_iff_eq]
  refine and_congr_right fun _ => forall₂_congr fun d _ => ?_
  rw [Bool.and_eq_false_iff, beq_eq_false_iff_ne, imp_iff_not_or, Bool.not_eq_true]

theorem State.converter_eq_none : s.converter = none ↔ ∀ c, (s.record c).present = true → (s.record c).kind ≠ .converter := by
  unfold State.converter
  rw [List.find?_eq_none]
  simp [mem_channelNumbers]

/-- R44, R62: the draw setpoint is the one the rules describe. -/
theorem State.drawsSetpoint_iff {n : Nat} : s.DrawsSetpoint n ↔ n = s.drawSetpoint := by
  unfold State.DrawsSetpoint State.drawSetpoint
  rw [s.load_eq_others]
  dsimp only
  cases hc : s.converter with
  | none =>
    rw [State.converter_eq_none] at hc
    dsimp only
    rw [Nat.zero_add]
    exact ⟨fun h => h.2 hc, fun h => ⟨fun c hp hk => absurd hk (hc c hp), fun _ => h⟩⟩
  | some c =>
    obtain ⟨⟨hp, hk⟩, hfirst⟩ := State.converter_eq_some.mp hc
    have hcurrent : s.current c = if (s.chan c).state.running = true then min (s.ae.draw - s.load) (s.chan c).request else 0 := by
      rw [State.current, if_pos hk, State.runs, hp, Bool.true_and]
    dsimp only
    rw [hcurrent, Nat.add_comm]
    refine ⟨fun h => h.1 c hp hk hfirst, fun h => ⟨fun d hpd hkd hd => ?_, fun hnone => absurd hk (hnone c hp)⟩⟩
    obtain rfl : d = c := Option.some_injective _ ((State.converter_eq_some.mpr ⟨⟨hpd, hkd⟩, hd⟩).symm.trans hc)
    exact h

/-- R45: the operating states in which the setpoint output is held. -/
theorem OpState.setpointHeld_iff (o : OpState) : o.setpointHeld = true ↔
    o = .loading ∨ o = .maintenance ∨ o = .faulted ∨ o = .dormant := by cases o <;> decide

theorem State.setpointDuty_eq (s : State) : s.setpointDuty =
    if s.osm.op = .loading ∨ s.osm.op = .maintenance ∨ s.osm.op = .faulted ∨ s.osm.op = .dormant then 512
    else if s.osm.role = .traction ∧ 0 < s.ae.regenRequest then regenDuty s.ae.regen
    else drawDuty s.drawSetpoint := by
  unfold State.setpointDuty
  simp only [OpState.setpointHeld_iff]

end

/-- Settles O25: the row's equation, the arithmetic of R45, and `drawsSetpoint_iff`. -/
theorem setpointPulse : Obligations.SetpointPulse :=
  ⟨fun _ => ⟨_, rfl, rfl, rfl⟩, fun _ => ⟨rfl, Nat.min_le_left _ _, rfl⟩, rfl, rfl, rfl, rfl, rfl, rfl,
    State.setpointDuty_eq, fun _ => State.drawsSetpoint_iff.mpr rfl⟩

/-- R31: a claim within its bounds is published as it stands. -/
theorem storedClaim_of_le {c : Claim} (hf : c.floor ≤ c.demand) (hd : c.demand ≤ 400) : storedClaim c = c := by
  unfold storedClaim
  dsimp only
  rw [Nat.min_eq_right hd, Nat.min_eq_left hf]

/-- Settles O26: the limits of R33 and R34, one after the other, on each claim. -/
theorem claimsPublished : Obligations.ClaimsPublished := by
  intro s
  refine ⟨fun h => ?_, fun h hc => ?_⟩
  · unfold State.publishedClaims
    obtain h | h := h <;> rw [h]
  · have hstored : s.lcm.claims.map storedClaim = s.lcm.claims :=
      (List.map_congr_left fun c hm => storedClaim_of_le (hc c hm).1 (hc c hm).2).trans (List.map_id _)
    have hpublished : s.publishedClaims = if s.bus.duplicate then (if s.ae.hot then s.lcm.claims.map derated else
        s.lcm.claims).map floored else if s.ae.hot then s.lcm.claims.map derated else s.lcm.claims := by
      unfold State.publishedClaims
      rw [hstored]
      obtain h | h | h := h <;> rw [h]
    rw [hpublished]
    cases s.bus.duplicate <;> cases s.ae.hot
    · simp
    · simp [derated]
    · simp [floored]
    · simp [floored, derated]

/-- R199: what a wake leaves. -/
theorem State.react_wake (s : State) : (State.react noCue s s.wake).osm.op = .listening ∧
    (State.react noCue s s.wake).osm.listen = 0 ∧ (State.react noCue s s.wake).ae.draw = 0 ∧
    (State.react noCue s s.wake).lcm.carrierOn = true := by
  obtain ⟨-, hop, hlisten, hcarrier⟩ := Moved.wake s
  have hsame := State.react_op_same noCue s s.wake (.inr (.inr (.inr (.inl hop))))
  obtain ⟨-, hl, -, hc⟩ := State.react_kept noCue s s.wake hsame
  refine ⟨hsame.trans hop, hl.trans hlisten, ?_, (congrArg Prod.fst hc).trans hcarrier⟩
  rw [(Closed.react_same noCue s s.wake hsame).draw]
  refine (Pass.zero (State.forced_of _ ?_)).1
  rw [(Kept.settleBlocks noCue s s.wake).osm, hop]
  rfl

/-- Settles O30: the two rows wake under their guards, and `react_wake`. -/
theorem wakeFromDormant : Obligations.WakeFromDormant := by
  refine ⟨fun s h => ⟨_, congrArg Host.Outcome.next (if_pos h), s.react_wake⟩,
    fun p s h hp => ⟨_, congrArg Host.Outcome.next (if_pos ⟨h, hp⟩), s.react_wake⟩,
    fun s h => congrArg Host.Outcome.next (if_neg h), fun p s h => congrArg Host.Outcome.next (if_neg ?_)⟩
  rintro ⟨h1, h2⟩
  obtain h | h := h
  · exact h h1
  · omega

theorem State.reperiodAll_only (s : State) : ∃ x, s.reperiodAll = s.withPvt x := by
  have h : ∀ (l : List Nat) (u : State), ∃ x, l.foldl (fun t n => t.setEntry n (t.reperiod n)) u = u.withPvt x := by
    intro l
    induction l with
    | nil => exact fun u => ⟨u.pvt, rfl⟩
    | cons n l ih =>
      intro u
      obtain ⟨x, hx⟩ := ih (u.setEntry n (u.reperiod n))
      exact ⟨x, hx⟩
  exact h _ s

/-- The console functions see no move of the operating state but the wake. -/
theorem State.autoMove_cf (s : State) (h : s.osm.op ≠ .dormant) : s.autoMove.cf = s.cf := by
  have hparked : s.enterParked.cf = s.cf := by
    have h : LoadOnly ((s.enterOp .parked).restartDue.reperiodAll) s.enterParked :=
      (LoadOnly.foldl LoadOnly.parkChannel _ _).trans (LoadOnly.resetCounter _)
    obtain ⟨l, a, r, e⟩ := h
    obtain ⟨x, hx⟩ := (s.enterOp .parked).restartDue.reperiodAll_only
    rw [e, hx]
    rfl
  have hleave : s.leaveParked.cf = s.cf := by
    obtain ⟨x, hx⟩ := (s.enterOp .listening).restartDue.reperiodAll_only
    rw [State.leaveParked, hx]
    rfl
  unfold State.autoMove
  split
  · split
    · exact hparked
    · rfl
  · split
    · exact hleave
    · rfl
  · split <;> rfl
  · next hd => exact absurd hd h
  · rfl

/-- The console functions are left by a step's reaction outside DORMANT. -/
theorem State.react_cf (cue : Cue) (s0 s : State) (h : s.osm.op ≠ .dormant) : (State.react cue s0 s).cf = s.cf := by
  have k := Kept.settleBlocks cue s0 s
  rw [(Closed.react cue s0 s).cf, ← k.cf]
  obtain ⟨-, e⟩ | ⟨-, e⟩ := (State.settleBlocks cue s0 s).settleMove_cases
  · rw [e]
  · rw [e, (Kept.settleBlocks noCue _ _).cf, State.autoMove_cf _ (by rw [k.osm]; exact h)]

/-- Settles O55: the rows under their guards; the console's flag stays in the reaction. -/
theorem clockPhases : Obligations.ClockPhases := by
  refine ⟨fun s h1 h2 => ⟨_, congrArg Host.Outcome.next (if_pos ⟨h1, h2⟩), rfl, rfl, fun c => ?_, rfl, rfl, rfl⟩,
    fun s h1 h2 => ⟨_, congrArg Host.Outcome.next (if_pos ⟨h1, h2⟩), rfl, rfl, rfl⟩, fun k s ho ht hk => ?_⟩
  · show (mapTable Channel.takeWindow s.lcm.chans)[c] = _
    simp [mapTable, State.chan, Channel.takeWindow]
  · have hdue : s.tailDue = true := by
      unfold State.tailDue
      rw [ht]
      exact decide_eq_true hk
    have hop : s.osm.op ≠ .dormant := by
      rintro hd
      rw [hd] at ho
      obtain ho | ho := ho <;> cases ho
    have hcf := State.react_cf noCue s (s.withCf { s.cf with special := false, tail := none }) hop
    exact ⟨_, congrArg Host.Outcome.next (if_pos hdue), (congrArg ConsoleUnit.special hcf).trans rfl,
      (congrArg ConsoleUnit.tail hcf).trans rfl⟩


end Sys2Proof.Machine

/-! The interlock array: what its signals are formed from, and the array as an evaluation leaves it (R148, R155 to R158). -/

namespace Sys2Proof.Machine

section
variable {E : List Special} {s t : State}

theorem Change.ownShown (hl : .loads ∉ E) (h : Change E s t) (hs : s.OwnShown) : t.OwnShown := by
  have hosm : ∀ x : OpMachine, x.carried = s.osm.carried → (s.withOsm x).OwnShown := fun x hx h0 b hb => by
    simp only [OpMachine.carried, Prod.mk.injEq] at hx
    have hshow := hs (hx.2.1 ▸ h0) b (hx.2.1 ▸ hb)
    rw [← hx.1] at hshow
    exact hshow
  cases h with
  | osm x h => exact hosm x h
  | moved x _ h => exact hosm x h
  | loaded x c w k => exact absurd k hl
  | pvt x h => exact h hs
  | _ => exact hs

theorem Changes.ownShown (hl : .loads ∉ E) (h : Changes E s t) (hs : s.OwnShown) : t.OwnShown :=
  h.keeps (fun _ _ => Change.ownShown hl) hs

/-- What the interlock's signals are formed from. -/
structure SameReads (s t : State) : Prop where
  settings : t.settings = s.settings
  role : t.osm.role = s.osm.role
  su : t.su = s.su
  cuts : t.cc.cuts = s.cc.cuts
  source : t.pwu.source = s.pwu.source
  poles : t.pwu.pos.state = s.pwu.pos.state ∧ t.pwu.neg.state = s.pwu.neg.state
  special : t.cf.special = s.cf.special
  key : t.keyOn = s.keyOn
  console : s.osm.role ≠ .console →
    consolePartOf t.pvt s.settings.consoleStation = consolePartOf s.pvt s.settings.consoleStation
  pole : s.osm.role ≠ .pole → polePartOf t.pvt s.settings.poleStation = polePartOf s.pvt s.settings.poleStation
  still : t.standstill = s.standstill

theorem SameReads.formSignals (h : SameReads s t) : t.formSignals = s.formSignals := by
  have hsource : t.sourceRead = s.sourceRead := by
    unfold State.sourceRead sourceOf
    rw [h.role, h.settings, h.source]
    split
    · rfl
    · next hr => rw [h.pole hr]
  have hspecial : t.specialRead = s.specialRead := by
    unfold State.specialRead
    rw [h.role, h.settings, h.special]
    split
    · rfl
    · next hr => rw [h.console hr]
  have hlocked : t.anyPoleLocked = s.anyPoleLocked := by
    unfold State.anyPoleLocked
    rw [h.role, h.settings, h.poles.1, h.poles.2]
    split
    · rfl
    · next hr => rw [h.pole hr]
  have hdoors : t.doorsOpen = s.doorsOpen := by
    unfold State.doorsOpen State.din
    rw [h.role, h.settings, h.su]
    split
    · rfl
    · next hr => rw [h.console hr]
  unfold State.formSignals State.din
  rw [hsource, hspecial, hlocked, hdoors, h.su, h.cuts, h.still, h.key]

theorem State.evaluated_congr (hset : t.settings = s.settings) (h : t.formSignals = s.formSignals) :
    t.evaluated.signals = s.evaluated.signals ∧ t.evaluated.terms = s.evaluated.terms ∧
      t.evaluated.outputs = s.evaluated.outputs := by
  unfold State.evaluated
  rw [hset, h]
  exact ⟨rfl, rfl, rfl⟩

/-- The traction station's speed is another station's item, or the own reading. -/
theorem State.standstill_congr (hr : t.osm.role = s.osm.role) (hsu : t.su = s.su)
    (h : s.osm.role ≠ .traction → ∀ n, (storedRole (t.entry n) = storedRole (s.entry n) ∧
      (t.entry n).freshBeacon = (s.entry n).freshBeacon) ∨
      (storedRole (t.entry n) ≠ some .traction ∧ storedRole (s.entry n) ≠ some .traction)) :
    t.standstill = s.standstill := by
  unfold State.standstill
  rw [hr]
  split
  · unfold State.ain
    rw [hsu]
  · next hne =>
    have hh := h hne
    have hlow : lowestOfRole t.pvt .traction = lowestOfRole s.pvt .traction := by
      unfold lowestOfRole
      congr 1
      funext n
      obtain ⟨h1, -⟩ | ⟨h1, h2⟩ := hh n
      · exact congrArg (· == some Role.traction) h1
      · exact (beq_eq_false_iff_ne.mpr h1).trans (beq_eq_false_iff_ne.mpr h2).symm
    rw [hlow]
    cases hn : lowestOfRole s.pvt .traction with
    | none => rfl
    | some n =>
      have hrole : storedRole (s.entry n) = some .traction := beq_iff_eq.mp (List.find?_some (p := fun n =>
        storedRole (entryOf s.pvt n) == some .traction) hn)
      dsimp only
      obtain ⟨-, h2⟩ | ⟨-, h2⟩ := hh n
      · rw [h2]
      · exact absurd hrole h2

/-- An entry that shows a role other than TRACTION holds no speed. -/
theorem State.shows_not_traction {e : Entry} (h : s.shows e) (hr : s.osm.role ≠ .traction) :
    storedRole e ≠ some .traction := by
  intro hs
  unfold storedRole at hs
  cases hb : e.beacon with
  | none => rw [hb] at hs; cases hs
  | some b =>
    rw [hb] at hs
    have hrole : b.part.role = .traction := Option.some_injective _ hs
    obtain h1 | h1 := h b hb
    · exact hr (h1.symm.trans hrole)
    · rw [h1] at hrole
      cases hrole

/-- The signals see nothing that one pass over the blocks changes past the driver's cut. -/
theorem Kept.reads (h : Kept s t) (hc : t.cc.cuts = s.cc.cuts) (hk : t.keyOn = s.keyOn) : SameReads s t where
  settings := h.settings
  role := by rw [h.osm]
  su := h.su
  cuts := hc
  source := by rw [h.pwu]
  poles := by rw [h.pwu]; exact ⟨rfl, rfl⟩
  special := by rw [h.cf]
  key := hk
  console := fun _ => by rw [h.pvt]
  pole := fun _ => by rw [h.pvt]
  still := State.standstill_congr (by rw [h.osm]) h.su fun _ n => .inl (by unfold State.entry; rw [h.pvt]; exact ⟨rfl, rfl⟩)

theorem Aside.reads (h : Aside s t) : SameReads s t where
  settings := h.settings
  role := by rw [h.osm]
  su := h.su
  cuts := by rw [h.cc]
  source := by obtain ⟨a, b, c, d, e, hw⟩ := h.pwu; rw [hw]
  poles := ⟨h.pole .pos, h.pole .neg⟩
  special := h.cf.1
  key := h.keyOn
  console := fun _ => by rw [h.pvt]
  pole := fun _ => by rw [h.pvt]
  still := State.standstill_congr (by rw [h.osm]) h.su fun _ n => .inl (by unfold State.entry; rw [h.pvt]; exact ⟨rfl, rfl⟩)

theorem Entry.tick_beacon (e : Entry) : e.tick.beacon = e.beacon := by
  unfold Entry.tick
  split <;> rfl

theorem Ticked.entry_beacon (h : Ticked s t) (n : Nat) :
    (t.entry n).beacon = (s.entry n).beacon ∧ (t.entry n).state = (s.entry n).state := by
  unfold State.entry entryOf
  rw [h.pvt]
  by_cases hn : 1 ≤ n ∧ n ≤ 15
  · rw [stationGet_mapTable _ _ _ _ hn]
    exact ⟨Entry.tick_beacon _, Entry.tick_state _⟩
  · simp [stationGet, hn]

theorem PoleRecord.tick_state (c : Settings) (r : PoleRecord) : (r.tick c).state = r.state :=
  congrArg Prod.fst (r.tick_core c)

theorem Ticked.reads (h : Ticked s t) : SameReads s t := by
  obtain ⟨-, hrole, -⟩ := h.op
  have hpos : t.pwu.pos.state = s.pwu.pos.state ∧ t.pwu.neg.state = s.pwu.neg.state ∧ t.pwu.source = s.pwu.source := by
    rw [h.pwu]
    split
    · exact ⟨PoleRecord.tick_state _ _, PoleRecord.tick_state _ _, rfl⟩
    · exact ⟨rfl, rfl, rfl⟩
  have hconsole : ∀ n, consolePartOf t.pvt n = consolePartOf s.pvt n := fun n => by
    unfold consolePartOf
    rw [h.heardBeacon]
  refine ⟨h.settings, hrole, h.su, by rw [h.cc, CutUnit.tick_cuts], hpos.2.2, ⟨hpos.1, hpos.2.1⟩, ?_, ?_, fun _ => hconsole _,
    fun _ => ?_, State.standstill_congr hrole h.su fun _ n => .inl ?_⟩
  · obtain ⟨k, hk⟩ := h.cf
    rw [hk]
    rfl
  · unfold State.keyOn State.din
    rw [hrole, h.settings, h.su, h.ia, hconsole]
  · unfold polePartOf
    rw [h.heardBeacon]
  · obtain ⟨h1, h2⟩ := h.entry_beacon n
    unfold storedRole Entry.freshBeacon
    rw [h1, h2]
    exact ⟨rfl, rfl⟩

/-- The signals where the other stations' entries are carried, the own one being shown by its role. -/
theorem Carried.reads (h : Carried s t) (hs : s.OwnShown) (ht : t.OwnShown) (hconsole : s.ConsolePlaced) (hpole : s.PolePlaced)
    (hc : t.cc.cuts = s.cc.cuts) (hw : t.pwu = s.pwu) (hf : t.cf = s.cf) (hk : t.ia = s.ia) : SameReads s t where
  settings := h.settings
  role := h.role
  su := h.su
  cuts := hc
  source := by rw [hw]
  poles := by rw [hw]; exact ⟨rfl, rfl⟩
  special := by rw [hf]
  key := h.keyOn hconsole (by rw [hk])
  console := fun hr => consolePartOf_carried (h.peers _ (by by_contra hn; exact hr (hconsole (by simpa using hn))))
  pole := fun hr => polePartOf_carried (h.peers _ (by by_contra hn; exact hr (hpole (by simpa using hn))))
  still := State.standstill_congr h.role h.su fun hr n => by
    cases ho : s.isOwn n with
    | false =>
      have hp := h.peers n ho
      unfold Entry.carried at hp
      injection hp with h1 h2 h3 h4 h5 h6
      unfold storedRole Entry.freshBeacon
      rw [h1, h6]
      exact .inl ⟨rfl, rfl⟩
    | true =>
      rw [State.isOwn, Bool.and_eq_true, beq_iff_eq, bne_iff_ne] at ho
      obtain ⟨rfl, h0⟩ := ho
      refine .inr ⟨State.shows_not_traction (s := t) ?_ (by rw [h.role]; exact hr), State.shows_not_traction (hs h0) hr⟩
      have := ht (by rw [h.number]; exact h0)
      rwa [h.number] at this

end

section
variable {s : State}

/-- R148: what an evaluation's outputs make of the state of a channel. -/
theorem State.inhibitOne_chan (o : Inhibits) (c d : Fin 4) : ((State.inhibitOne o s c).chan d).state =
    if c = d then (if o.reaches c = true then .inhibited else if (s.chan c).state = .inhibited then .off else (s.chan c).state)
    else (s.chan d).state := by
  have hset : ∀ ch : Channel, ((s.setChan c ch).chan d).state = if c = d then ch.state else (s.chan d).state := fun ch => by
    rw [State.chan_setChan]
    split <;> rfl
  have hclear : ∀ ch : Channel, (((s.setChan c ch).clearShort c).chan d).state = if c = d then ch.state else (s.chan d).state :=
    fun ch => by rw [State.clearShort_chan, hset]
  have hself : (s.chan d).state = if c = d then (s.chan c).state else (s.chan d).state := by
    split
    · next h => rw [h]
    · rfl
  unfold State.inhibitOne
  dsimp only
  split
  · split
    · next hi =>
      rw [hi] at hself
      exact hself
    · split
      · exact hclear _
      · exact hset _
  · split
    · exact hset _
    · exact hself

/-- R148: an inhibit's start and end on one channel, as the others see it. -/
theorem State.inhibitOne_state (o : Inhibits) (c d : Fin 4) : ((State.inhibitOne o s c).chan d).state = .inhibited ↔
    if c = d then o.reaches c = true else (s.chan d).state = .inhibited := by
  rw [State.inhibitOne_chan]
  split
  · split
    · next hr => simp [hr]
    · next hr =>
      split
      · simp [hr]
      · next hi => simp [hr, hi]
  · rfl

theorem State.inhibitAll_state (o : Inhibits) (l : List (Fin 4)) (d : Fin 4) :
    ((l.foldl (State.inhibitOne o) s).chan d).state = .inhibited ↔
      if d ∈ l then o.reaches d = true else (s.chan d).state = .inhibited := by
  induction l generalizing s with
  | nil => simp
  | cons c l ih =>
    rw [List.foldl_cons, ih, State.inhibitOne_state]
    by_cases hd : d ∈ l
    · simp [hd]
    · by_cases hc : c = d
      · subst hc; simp [hd]
      · simp [hd, hc, Ne.symm hc]

/-- R148: a present channel is INHIBITED exactly while an output of the last evaluation reaches it. -/
theorem State.applyInhibits_state (o : Inhibits) (d : Fin 4) (hd : (s.record d).present = true) :
    ((s.applyInhibits o).chan d).state = .inhibited ↔ o.reaches d = true := by
  have h : ((s.applyInhibits o).chan d) = (s.present.foldl (State.inhibitOne o) s).chan d := by
    unfold State.applyInhibits
    obtain ⟨n, hn⟩ := (s.present.foldl (State.inhibitOne o) s).resetCounter_shed
    rw [hn]
    rfl
  rw [h, State.inhibitAll_state, if_pos ((s.mem_present d).mpr hd)]

/-- R158: the last of a step's evaluations decides. -/
theorem State.evaluate_state (os : List Inhibits) (o : Inhibits) (he : s.osm.op.evaluates = true) (d : Fin 4)
    (hd : (s.record d).present = true) :
    ((s.evaluate (os ++ [o])).chan d).state = .inhibited ↔ o.reaches d = true := by
  unfold State.evaluate
  rw [if_pos he, List.foldl_append, List.foldl_cons, List.foldl_nil]
  have hrecord := (Loads.foldl (C := InhibitStep) Loads.applyInhibits os (s.withIa s.evaluated)).recordOf d
  exact State.applyInhibits_state o d (by rw [hrecord]; exact hd)

theorem State.outputPath_last (through : Option SourceMode) (s0 : State) :
    ∃ os, State.outputPath through s0 s = os ++ [s.evaluated.outputs] := by
  unfold State.outputPath
  split
  · have h : ∀ (p : List State) (a b : State), p ++ [a, b] = p ++ [a] ++ [b] := by simp
    dsimp only
    rw [h, List.map_append]
    exact ⟨_, rfl⟩
  · exact ⟨[], rfl⟩

/-- A pass over the blocks from its evaluation on. -/
def State.passFrom (cue : Cue) (os : List Inhibits) (s0 a : State) : State :=
  (State.admissions cue os s0 ((a.evaluate os).refreshRequests.clampRegen os)).settleRestoring.rebuildClaims.settleShare cue

theorem State.settleBlocks_eq (cue : Cue) (s0 : State) : State.settleBlocks cue s0 s = State.passFrom cue
    (State.outputPath cue.through (s0.pathBase cue) s.driverCut.forceZero) s0 s.driverCut.forceZero := rfl

/-- Past the evaluation a pass over the blocks leaves the array, and begins and ends no inhibit. -/
theorem State.passFrom_array (cue : Cue) (os : List Inhibits) (s0 a : State) :
    (State.passFrom cue os s0 a).ia = (if a.osm.op.evaluates then a.evaluated else a.ia) ∧
    ∀ c, ((State.passFrom cue os s0 a).chan c).state = .inhibited ↔ ((a.evaluate os).chan c).state = .inhibited := by
  unfold State.passFrom
  have hevaluate : (a.evaluate os).ia = if a.osm.op.evaluates then a.evaluated else a.ia := by
    rw [(a.evaluate_same os).same.2.2.2.2.2.2.2.1]
    split <;> rfl
  have hrefresh := Loads.refreshRequests (a.evaluate os)
  generalize (a.evaluate os).refreshRequests = b at hrefresh ⊢
  have hadmit := Loads.admissions (b.clampRegen os) cue os s0
  generalize State.admissions cue os s0 (b.clampRegen os) = d at hadmit ⊢
  have hshare := Loads.settleShare d.settleRestoring.rebuildClaims cue
  have hrest : d.settleRestoring.rebuildClaims.ia = d.ia ∧ ∀ c, d.settleRestoring.rebuildClaims.chan c = d.chan c := by
    unfold State.settleRestoring
    split <;> exact ⟨rfl, fun _ => rfl⟩
  generalize d.settleRestoring.rebuildClaims = e at hshare hrest ⊢
  refine ⟨?_, fun c => ?_⟩
  · rw [hshare.only.same.2.2.2.2.2.2.2.1, hrest.1, hadmit.only.same.2.2.2.2.2.2.2.1]
    exact (hrefresh.only.same.2.2.2.2.2.2.2.1).trans hevaluate
  · rw [(hshare.ofPlace (asks := false) (rises := false)).inhibited, hrest.2, hadmit.inhibited]
    exact hrefresh.inhibited c

/-- R155 to R158: the array holds the signals, the terms and the outputs of the present state. -/
def State.ArrayStands (s : State) : Prop :=
  s.ia.signals = s.formSignals ∧ s.ia.terms = s.evaluated.terms ∧ s.ia.outputs = s.evaluated.outputs

/-- R148: a present channel is INHIBITED exactly while an output reaches it. -/
def State.InhibitsStand (s : State) : Prop :=
  ∀ c, (s.record c).present = true → ((s.chan c).state = .inhibited ↔ s.ia.outputs.reaches c = true)

theorem OpState.runs_evaluates {o : OpState} (h : o.runs = true) : o.evaluates = true := by
  cases o with
  | loading => cases h
  | maintenance => cases h
  | _ => rfl

/-- The array after one pass over the blocks. -/
theorem State.settleBlocks_array (cue : Cue) (s0 : State) (h : s.osm.op.evaluates = true) :
    (State.settleBlocks cue s0 s).ArrayStands ∧ (State.settleBlocks cue s0 s).InhibitsStand := by
  obtain ⟨ps, hos⟩ := State.outputPath_last (s := s.driverCut.forceZero) cue.through (s0.pathBase cue)
  have hforce : Kept s s.driverCut.forceZero := (Kept.driverCut s).trans (Kept.forceZero _)
  have hsettings : (State.settleBlocks cue s0 s).settings = s.driverCut.forceZero.settings := by
    rw [(Kept.settleBlocks cue s0 s).settings, hforce.settings]
  have hsignals : (State.settleBlocks cue s0 s).formSignals = s.driverCut.forceZero.formSignals := by
    have p := Pass.afterDriver cue s0 s
    have hzero := s.driverCut.forceZero_spec
    have hkey := State.keyOn_congr (Kept.forceZero s.driverCut) (.inl (congrArg Interlock.heldKey hzero.2.1))
    exact (p.kept.reads p.cuts p.key).formSignals.trans
      ((Kept.forceZero s.driverCut).reads (congrArg CutUnit.cuts hzero.1) hkey).formSignals.symm
  obtain ⟨-, hterms, houtputs⟩ := State.evaluated_congr hsettings hsignals
  rw [State.settleBlocks_eq, hos] at hsettings hsignals hterms houtputs ⊢
  generalize s.driverCut.forceZero = a at hsettings hsignals hterms houtputs hforce ⊢
  have he : a.osm.op.evaluates = true := by rw [hforce.osm]; exact h
  obtain ⟨hia, hchan⟩ := State.passFrom_array cue (ps ++ [a.evaluated.outputs]) s0 a
  rw [if_pos he] at hia
  refine ⟨⟨?_, ?_, ?_⟩, fun c hc => ?_⟩
  · rw [hia, hsignals]
    rfl
  · rw [hia, hterms]
  · rw [hia, houtputs]
  · rw [hchan, hia]
    unfold State.record at hc
    rw [hsettings] at hc
    exact a.evaluate_state ps _ he c hc

/-- The array after a step's reaction. -/
theorem State.react_array (cue : Cue) (s0 u : State) (hr : (State.react cue s0 u).osm.op.runs = true) (hs : u.OwnShown)
    (hconsole : (State.react cue s0 u).ConsolePlaced) (hpole : (State.react cue s0 u).PolePlaced) :
    (State.react cue s0 u).OwnShown ∧ (State.react cue s0 u).ArrayStands ∧ (State.react cue s0 u).InhibitsStand := by
  have hclosed := Closed.react cue s0 u
  have hcarried := State.closing_carried cue s0 u
  have hmid : ((State.settleBlocks cue s0 u).settleMove).OwnShown :=
    ((Changes.settleBlocks (E := [.moves, .admits]) u (by simp) cue s0).trans (Changes.settleMove _ (by simp) (by simp))).ownShown (by simp) hs
  have hend : (State.react cue s0 u).OwnShown := (Changes.react (E := [.moves, .admits]) u (by simp) (by simp) cue s0).ownShown (by simp) hs
  obtain ⟨k, v, w, e⟩ := State.settleMove_pass cue s0 u
  rw [e] at hclosed hcarried hmid
  generalize State.react cue s0 u = t at hclosed hcarried hend hr hconsole hpole ⊢
  have hw : w.osm.op.evaluates = true := by
    refine OpState.runs_evaluates ?_
    rw [← (Kept.settleBlocks k v w).osm, ← hclosed.op]
    exact hr
  obtain ⟨⟨h1, h2, h3⟩, hinhibit⟩ := State.settleBlocks_array k v hw
  generalize State.settleBlocks k v w = x at hclosed hcarried hmid h1 h2 h3 hinhibit
  have hreads : SameReads x t := by
    refine hcarried.reads hmid hend (fun ho => ?_) (fun ho => ?_) (congrArg CutUnit.cuts hclosed.cc) hclosed.pwu hclosed.cf
      hclosed.ia
    · rw [← hcarried.isOwn, ← hcarried.settings] at ho
      rw [← hcarried.role]
      exact hconsole ho
    · rw [← hcarried.isOwn, ← hcarried.settings] at ho
      rw [← hcarried.role]
      exact hpole ho
  obtain ⟨-, hterms, houtputs⟩ := State.evaluated_congr hreads.settings hreads.formSignals
  refine ⟨hend, ⟨?_, ?_, ?_⟩, fun c hc => ?_⟩
  · rw [hclosed.ia, hreads.formSignals, h1]
  · rw [hclosed.ia, hterms, h2]
  · rw [hclosed.ia, houtputs, h3]
  · unfold State.record State.chan at *
    rw [hreads.settings] at hc
    rw [hclosed.ia, hclosed.lcm]
    exact hinhibit c hc

end

/-- R6: the own entry shows the own role, or no part, in a station that runs on its image. -/
theorem Effect.ownShown {s u : State} {c : Instr} {cue : Cue} (h : Effect s c cue u) (hs : s.osm.op.runs = true → s.OwnShown)
    (hr : u.osm.op.runs = true) : u.OwnShown := by
  obtain hrun | ⟨⟨x, hc⟩, hl⟩ := h.opStep.running hr
  · exact h.changes.ownShown (h.not_loads fun k => by rw [k] at hrun; cases hrun) (hs hrun)
  · have hload : ∀ o r n k, (s.loaded o r n k).OwnShown := fun o r n k => by
      obtain ⟨v, -, -, -, -, hv, hch, -⟩ := s.loaded_changes o r n k
      exact hch.ownShown (by simp) hv
    cases h with
    | maintenance y => exact hload _ _ _ _
    | faulted y => exact ((Changes.readSpecial (E := []) _).trans (Changes.onset _ _ _)).ownShown (by simp) (hload _ _ _ _)
    | running y => exact (Changes.readSpecial (E := []) _).ownShown (by simp) (hload _ _ _ _)
    | poles c w u _ h => subst hc; cases h
    | wake _ h => subst hc; cases h
    | duplicate _ _ _ h => subst hc; cases h
    | judged k kind => cases kind <;> cases hc
    | _ => cases hc

/-- R157: an output is true where some true term maps to it. -/
theorem outputsOf_iff (ts : List Term) (sig : List Bool) (f : Inhibits → Bool)
    (hf : f ∈ [Inhibits.station, Inhibits.chan0, Inhibits.chan1, Inhibits.chan2, Inhibits.chan3]) :
    f (outputsOf ts sig) = true ↔ ∃ t ∈ ts, t.value sig = true ∧ f t.map = true := by
  have hor : ∀ a b : Inhibits, f (a.or b) = (f a || f b) := by
    simp only [List.mem_cons, List.not_mem_nil, or_false] at hf
    obtain rfl | rfl | rfl | rfl | rfl := hf <;> exact fun _ _ => rfl
  have hno : f noInhibits = false := by
    simp only [List.mem_cons, List.not_mem_nil, or_false] at hf
    obtain rfl | rfl | rfl | rfl | rfl := hf <;> rfl
  have hfold : ∀ (l : List Term) (o : Inhibits),
      f (l.foldl (fun o t => o.or t.map) o) = true ↔ f o = true ∨ ∃ t ∈ l, f t.map = true := by
    intro l
    induction l with
    | nil => simp
    | cons t l ih =>
      intro o
      rw [List.foldl_cons, ih, hor, Bool.or_eq_true, or_assoc]
      simp
  unfold outputsOf
  rw [hfold, hno]
  simp only [Bool.false_eq_true, false_or, List.mem_filter, and_assoc]

/-- R157: a term is true where it has a literal and all its literals hold. -/
theorem Term.value_iff (t : Term) (sig : List Bool) : t.value sig = true ↔
    t.literals ≠ [] ∧ ∀ l ∈ t.literals, sig.getD l.signal false ≠ l.negated := by
  unfold Term.value Literal.holds
  simp

/-- The five outputs are a set. -/
theorem Inhibits.ext_iff_mem {a b : Inhibits}
    (h : ∀ f ∈ [Inhibits.station, Inhibits.chan0, Inhibits.chan1, Inhibits.chan2, Inhibits.chan3], f a = true ↔ f b = true) :
    a = b := by
  have hb : ∀ f ∈ [Inhibits.station, Inhibits.chan0, Inhibits.chan1, Inhibits.chan2, Inhibits.chan3], f a = f b :=
    fun f hf => Bool.eq_iff_iff.mpr (h f hf)
  cases a
  cases b
  simp only [List.mem_cons, List.not_mem_nil, or_false, forall_eq_or_imp, forall_eq] at hb
  obtain ⟨h1, h2, h3, h4, h5⟩ := hb
  rw [Inhibits.mk.injEq]
  exact ⟨h1, h2, h3, h4, h5⟩

/-- R155 to R158: the interlock array stands as the rules form it. -/
theorem State.interlockOk_iff (s : State) :
    s.InterlockOk ↔ (s.osm.op.runs = true → s.OwnShown ∧ s.ArrayStands ∧ s.InhibitsStand) := by
  have houtputs : (∀ f ∈ [Inhibits.station, Inhibits.chan0, Inhibits.chan1, Inhibits.chan2, Inhibits.chan3],
      f s.ia.outputs = true ↔ ∃ t ∈ s.settings.terms.toList, f t.map = true ∧ t.literals ≠ [] ∧
        ∀ l ∈ t.literals, s.formSignals.getD l.signal false ≠ l.negated) ↔ s.ia.outputs = s.evaluated.outputs := by
    have hf : ∀ f ∈ [Inhibits.station, Inhibits.chan0, Inhibits.chan1, Inhibits.chan2, Inhibits.chan3],
        f s.evaluated.outputs = true ↔ ∃ t ∈ s.settings.terms.toList, f t.map = true ∧ t.literals ≠ [] ∧
          ∀ l ∈ t.literals, s.formSignals.getD l.signal false ≠ l.negated := fun f hf => by
      rw [show s.evaluated.outputs = outputsOf s.settings.terms.toList s.formSignals from rfl, outputsOf_iff _ _ f hf]
      simp only [Term.value_iff, and_comm]
    exact ⟨fun h => Inhibits.ext_iff_mem fun f hm => (h f hm).trans (hf f hm).symm, fun h f hm => by rw [h]; exact hf f hm⟩
  have hown : (∀ b, s.osm.number ≠ 0 → (s.entry s.osm.number).beacon = some b →
      b.part.role = s.osm.role ∨ b.part = .auxiliary) ↔ s.OwnShown :=
    ⟨fun h h0 b hb => h b h0 hb, fun h b h0 hb => h h0 b hb⟩
  unfold State.InterlockOk
  rw [houtputs, hown]
  unfold State.ArrayStands State.InhibitsStand
  exact forall_congr' fun _ => ⟨fun ⟨a, b, c, d, e⟩ => ⟨a, ⟨b, c, d⟩, e⟩, fun ⟨a, ⟨b, c, d⟩, e⟩ => ⟨a, b, c, d, e⟩⟩

end Sys2Proof.Machine

/-! The output pins and the setpoint output as the state gives them (R44, R45, R66, R149, R174, R200). -/

namespace Sys2Proof.Machine

section
variable (s : State)

theorem PoleState.pull_iff (st : PoleState) : st.pull = true ↔
    st ∈ [PoleState.stowed, .dewired, .retrieving, .lowering, .lockedOut] := by cases st <;> decide

theorem State.pull_iff (p : Pole) : s.pull p = true ↔ s.PullOn p := by
  unfold State.pull State.PullOn
  rw [Bool.and_eq_true, Bool.or_eq_true, beq_iff_eq, beq_iff_eq, PoleState.pull_iff]

theorem OpState.outputsOff_iff (o : OpState) : o.outputsOff = false ↔ o = .listening ∨ o = .active ∨ o = .parked := by
  cases o <;> decide

theorem State.channelOutput_iff (c : Fin 4) : s.channelOutput c = true ↔ s.ChannelOn c := by
  unfold State.channelOutput State.ChannelOn
  dsimp only
  rw [← OpState.outputsOff_iff]
  cases hp : (s.record c).present with
  | false => simp
  | true =>
    cases ho : s.osm.op.outputsOff with
    | true => simp
    | false =>
      cases hk : (s.record c).kind with
      | modulated =>
        cases hr : (s.chan c).state.running with
        | true =>
          have hoff : (s.chan c).state ≠ .off := fun h => by rw [h] at hr; cases hr
          simp [hoff]
        | false => simp [and_assoc]
      | converter => simp
      | switched => simp
      | timed => simp

theorem State.lamp_iff (v : Severity) : s.lamp v = true ↔ s.LampOn v := by
  unfold State.lamp State.LampOn
  dsimp only
  rw [Bool.and_eq_true, Bool.and_eq_true, and_assoc]
  refine and_congr_right fun _ => and_congr ?_ ?_
  · simp [List.filter_eq_nil_iff]
  · have hany : (s.au.entries.filter (fun e => e.severity == v)).any AlarmEntry.unack = true ↔
        ∃ e ∈ s.au.entries, e.severity = v ∧ e.unack = true := by simp
    rw [← hany]
    cases (s.au.entries.filter (fun e => e.severity == v)).any AlarmEntry.unack <;> simp

theorem State.buzzer_iff : s.buzzer = true ↔ s.lampsOn = true ∧
    ∃ e ∈ s.au.entries, e.severity ≠ .advisory ∧ e.state = .activeUnack := by
  unfold State.buzzer
  rw [Bool.and_eq_true]
  simp

theorem State.wakeRequest_iff : s.wakeRequest = true ↔ (s.osm.op = .parked ∨ s.osm.op = .dormant) ∧
    ((∃ c, (s.record c).present = true ∧ (s.chan c).critical = true) ∨
      ∃ e ∈ s.au.entries, s.ownAlarm e = true ∧ e.severity = .critical ∧ e.state ≠ .clearedUnack) := by
  unfold State.wakeRequest
  have hany : (s.present.any (fun c => (s.chan c).critical) ||
      s.au.entries.any (fun e => s.ownAlarm e && e.severity == .critical && e.state != .clearedUnack)) = true ↔
      (∃ c, (s.record c).present = true ∧ (s.chan c).critical = true) ∨
        ∃ e ∈ s.au.entries, s.ownAlarm e = true ∧ e.severity = .critical ∧ e.state ≠ .clearedUnack := by
    simp [State.mem_present, and_assoc]
  cases ho : s.osm.op with
  | parked => simpa using hany
  | dormant => simpa using hany
  | _ => simp

/-- The pins, one by one. -/
theorem Outputs.eq_iff (a b : Outputs) : a = b ↔
    (a.pullPos = true ↔ b.pullPos = true) ∧ (a.pullNeg = true ↔ b.pullNeg = true) ∧ a.chan = b.chan ∧
    (a.criticalLamp = true ↔ b.criticalLamp = true) ∧ (a.warningLamp = true ↔ b.warningLamp = true) ∧
    (a.overflowLamp = true ↔ b.overflowLamp = true) ∧ (a.buzzer = true ↔ b.buzzer = true) ∧
    (a.wakeReq = true ↔ b.wakeReq = true) := by
  cases a
  cases b
  simp only [Outputs.mk.injEq, ← Bool.eq_iff_iff]

/-- R66, R149, R174, R200, R44, R45: the pins and the setpoint output as the blocks drive them. -/
theorem State.outOk_iff : s.OutOk ↔ s.ae.setpoint = s.setpointDuty ∧ s.out = s.driveOutputs := by
  have hset : (∀ n, s.DrawsSetpoint n → s.ae.setpoint =
      if s.osm.op = .loading ∨ s.osm.op = .maintenance ∨ s.osm.op = .faulted ∨ s.osm.op = .dormant then 512
      else if s.osm.role = .traction ∧ 0 < s.ae.regenRequest then 512 - 512 * s.ae.regen / 400
      else min 1023 (512 + 512 * n / 400)) ↔ s.ae.setpoint = s.setpointDuty := by
    rw [State.setpointDuty_eq]
    simp only [State.drawsSetpoint_iff, forall_eq]
    rfl
  have hchan : (∀ c : Fin 4, s.out.chan[c] = true ↔ s.ChannelOn c) ↔ s.out.chan = s.driveOutputs.chan := by
    have hdrive : ∀ c : Fin 4, s.driveOutputs.chan[c] = s.channelOutput c := by
      intro c
      match c with
      | 0 => rfl
      | 1 => rfl
      | 2 => rfl
      | 3 => rfl
    simp only [← State.channelOutput_iff, ← hdrive, ← Bool.eq_iff_iff]
    exact ⟨fun h => Vector.ext fun i hi => h ⟨i, hi⟩, fun h c => by rw [h]⟩
  unfold State.OutOk
  rw [hset, hchan]
  simp only [← State.pull_iff, ← State.lamp_iff, ← State.buzzer_iff, ← State.wakeRequest_iff]
  rw [Outputs.eq_iff s.out, ← Bool.and_eq_true]
  rfl

end

section
variable {s t : State}

/-- What of a channel the setpoint output reads. -/
def Channel.drawn (ch : Channel) : ChannelState × Nat × Nat := (ch.state, ch.request, ch.duty)

theorem State.load_congr (hset : t.settings = s.settings) (hc : ∀ c, (t.chan c).drawn = (s.chan c).drawn) : t.load = s.load := by
  unfold State.load
  congr 1
  refine List.map_congr_left fun c _ => ?_
  have h := hc c
  simp only [Channel.drawn, Prod.mk.injEq] at h
  unfold loadCurrent State.record
  rw [hset, h.1, h.2.2]

theorem State.setpointDuty_congr (hset : t.settings = s.settings) (ho : t.osm.op = s.osm.op) (hr : t.osm.role = s.osm.role)
    (hd : t.ae.draw = s.ae.draw) (hq : t.ae.regenRequest = s.ae.regenRequest) (hg : t.ae.regen = s.ae.regen)
    (hb : t.lcm.batteryPart = s.lcm.batteryPart) (hc : ∀ c, (t.chan c).drawn = (s.chan c).drawn) :
    t.setpointDuty = s.setpointDuty := by
  have hload := State.load_congr hset hc
  have hcurrent : ∀ c, t.current c = s.current c := fun c => by
    have h := hc c
    simp only [Channel.drawn, Prod.mk.injEq] at h
    unfold State.current State.runs loadCurrent State.record
    rw [hset, h.1, h.2.1, h.2.2, hd, hload]
  have hconverter : t.converter = s.converter := by
    unfold State.converter State.record
    rw [hset]
  unfold State.setpointDuty State.drawSetpoint
  rw [ho, hr, hq, hg, hb, hconverter]
  simp only [hcurrent]

/-- What of a channel its output and WAKE_REQ show. -/
def Channel.shown (ch : Channel) : ChannelState × Nat × Nat × Bool := (ch.state, ch.winDuty, ch.winSink, ch.critical)

/-- The output pins where what they show stays. -/
theorem State.driveOutputs_congr (hset : t.settings = s.settings) (ho : t.osm.op = s.osm.op) (hr : t.osm.role = s.osm.role)
    (hn : t.osm.number = s.osm.number) (hp : ∀ p, (t.pole p).state = (s.pole p).state)
    (hc : ∀ c, (t.chan c).shown = (s.chan c).shown) (hslot : t.lcm.slot = s.lcm.slot)
    (hb : t.lcm.batteryPart = s.lcm.batteryPart) (hg : t.ae.regen = s.ae.regen) (hf : t.cf.flashOn = s.cf.flashOn)
    (ha : t.au = s.au) : t.driveOutputs = s.driveOutputs := by
  have hrecord : ∀ c, t.record c = s.record c := fun c => by unfold State.record; rw [hset]
  have hshown : ∀ c, (t.chan c).state = (s.chan c).state ∧ (t.chan c).winDuty = (s.chan c).winDuty ∧
      (t.chan c).winSink = (s.chan c).winSink ∧ (t.chan c).critical = (s.chan c).critical := fun c => by
    simpa [Channel.shown] using hc c
  have hout : ∀ c, t.channelOutput c = s.channelOutput c := fun c => by
    obtain ⟨h1, h2, h3, -⟩ := hshown c
    unfold State.channelOutput
    dsimp only
    rw [hrecord, ho, hr, h1, h2, h3, hslot, hb, hg]
  have hpull : ∀ p, t.pull p = s.pull p := fun p => by
    unfold State.pull
    rw [hr, ho, hp]
  have hlamps : t.lampsOn = s.lampsOn := by
    unfold State.lampsOn
    rw [hr, ho]
  have hlamp : ∀ v, t.lamp v = s.lamp v := fun v => by
    unfold State.lamp
    rw [ha, hlamps, hf]
  have hbuzzer : t.buzzer = s.buzzer := by
    unfold State.buzzer
    rw [ha, hlamps]
  have hown : t.ownAlarm = s.ownAlarm := by
    funext e
    unfold State.ownAlarm
    rw [hn]
  have hwake : t.wakeRequest = s.wakeRequest := by
    unfold State.wakeRequest State.present
    rw [ho, ha, hown]
    simp only [hrecord, fun c => (hshown c).2.2.2]
  unfold State.driveOutputs
  rw [hpull, hpull, hout, hout, hout, hout, hlamp, hlamp, hlamps, ha, hbuzzer, hwake]

theorem Channel.unclocked_drawn {a b : Channel} (h : a.unclocked = b.unclocked) : a.drawn = b.drawn := by
  unfold Channel.unclocked at h
  injection h with h1 h2 h3
  unfold Channel.drawn
  rw [h1, h2, h3]

theorem Aside.setpointDuty (h : Aside s t) : t.setpointDuty = s.setpointDuty := by
  obtain ⟨hd, hg, -, -, hq⟩ := h.currents
  exact State.setpointDuty_congr h.settings (by rw [h.osm]) (by rw [h.osm]) hd hq hg h.batteryPart
    fun c => Channel.unclocked_drawn (h.chan c)

theorem Aside.setpoint (h : Aside s t) : t.ae.setpoint = s.ae.setpoint := by
  obtain ⟨x, k, w, d, n, o, e⟩ := h.ae
  rw [e]

/-- The output pins after a change to which the other blocks do not react. -/
theorem Direct.out {c : Instr} (h : Direct s c t) : t.out = t.driveOutputs ∨
    t.out = s.out ∧ t.lcm = s.lcm ∧ t.cf = s.cf := by
  have hstop : ∀ waits, (s.stopSending waits).out = s.out ∧ (s.stopSending waits).lcm = s.lcm ∧
      (s.stopSending waits).cf = s.cf := fun waits => by
    unfold State.stopSending
    split <;> exact ⟨rfl, rfl, rfl⟩
  cases h with
  | periodic =>
    refine .inr ?_
    unfold State.allotmentEvent State.startWaiting
    split <;> exact ⟨rfl, rfl, rfl⟩
  | track c =>
    refine .inr ?_
    have hpole : ∀ (u : State) (p : Pole), (u.trackPole p).out = u.out ∧ (u.trackPole p).lcm = u.lcm ∧ (u.trackPole p).cf = u.cf := by
      intro u p
      unfold State.trackPole State.setPole
      dsimp only
      split
      · cases p <;> exact ⟨rfl, rfl, rfl⟩
      · exact ⟨rfl, rfl, rfl⟩
    have hall : ∀ u : State, u.trackPoles.out = u.out ∧ u.trackPoles.lcm = u.lcm ∧ u.trackPoles.cf = u.cf := by
      intro u
      obtain ⟨a1, a2, a3⟩ := hpole u .pos
      obtain ⟨b1, b2, b3⟩ := hpole (u.trackPole .pos) .neg
      exact ⟨b1.trans a1, b2.trans a2, b3.trans a3⟩
    exact hall _
  | carrier => exact .inl rfl
  | flash => exact .inl rfl
  | start =>
    refine .inr ?_
    unfold State.beginSending
    split <;> exact ⟨rfl, rfl, rfl⟩
  | lost => exact .inr (hstop _)
  | abort => exact .inr (hstop _)
  | _ => exact .inr ⟨rfl, rfl, rfl⟩

theorem Direct.outOk {c : Instr} (h : Direct s c t) (hs : s.OutOk) : t.OutOk := by
  have ha := h.aside
  rw [State.outOk_iff] at hs ⊢
  refine ⟨ha.setpoint.trans (hs.1.trans ha.setpointDuty.symm), ?_⟩
  obtain ho | ⟨ho, hl, hf⟩ := h.out
  · exact ho
  · have hdrive : t.driveOutputs = s.driveOutputs := by
      refine State.driveOutputs_congr ha.settings (by rw [ha.osm]) (by rw [ha.osm]) (by rw [ha.osm]) ha.pole (fun c => ?_)
        (by rw [hl]) ha.batteryPart ha.currents.2.1 (by rw [hf]) ha.au
      unfold State.chan
      rw [hl]
    rw [ho, hs.2, hdrive]

theorem Ticked.chan (h : Ticked s t) (c : Fin 4) : t.chan c = (s.chan c).tick := by
  unfold State.chan
  rw [h.lcm]
  simp [LoadUnit.tick, mapTable]

theorem Ticked.outOk (h : Ticked s t) (hs : s.OutOk) : t.OutOk := by
  obtain ⟨ho, hr, hn⟩ := h.op
  obtain ⟨hd, hg, -, -, hq⟩ := h.currents
  have hchan : ∀ c, (t.chan c).drawn = (s.chan c).drawn ∧ (t.chan c).shown = (s.chan c).shown := fun c => by
    rw [h.chan]
    unfold Channel.tick
    split <;> exact ⟨rfl, rfl⟩
  have hpole : ∀ p, (t.pole p).state = (s.pole p).state := fun p => by
    cases p
    · exact h.reads.poles.1
    · exact h.reads.poles.2
  have hflash : t.cf.flashOn = s.cf.flashOn := by
    obtain ⟨k, hk⟩ := h.cf
    rw [hk]
    rfl
  have hset : t.ae.setpoint = s.ae.setpoint := by
    rw [h.ae]
    split <;> rfl
  rw [State.outOk_iff] at hs ⊢
  rw [hset, h.out, hs.1, hs.2]
  exact ⟨(State.setpointDuty_congr h.settings ho hr hd hq hg (by rw [h.lcm]; rfl) fun c => (hchan c).1).symm,
    (State.driveOutputs_congr h.settings ho hr hn hpole (fun c => (hchan c).2) (by rw [h.lcm]; rfl) (by rw [h.lcm]; rfl) hg hflash
      h.au).symm⟩

/-- What every step ends with. -/
theorem State.settleOutputs_outOk (s : State) : s.settleOutputs.OutOk := by
  rw [State.outOk_iff]
  have h : ∀ v : State, v.settleSetpoint.settleShares.settleDormancy.ae.setpoint =
      v.settleSetpoint.settleShares.settleDormancy.setpointDuty := fun v => by
    unfold State.settleDormancy
    split <;> rfl
  exact ⟨h s.followPoles, rfl⟩

end

/-- An idle millisecond, or a command on the rest of the queue. -/
theorem step_cases {s t : State} (h : step s = .next t) : t = s.tick ∨ ∃ c rest, exec c (s.withPending rest) = .next t := by
  unfold step at h
  split at h
  · injection h with h
    exact .inl h.symm
  · next c rest _ => exact .inr ⟨c, rest, h⟩

section
variable {s t : State}

theorem SameReads.interlockOk (h : SameReads s t) (ho : t.osm.op = s.osm.op) (hi : t.ia = s.ia)
    (hc : ∀ c, (t.chan c).state = (s.chan c).state) (hown : s.OwnShown → t.OwnShown) (hs : s.InterlockOk) : t.InterlockOk := by
  rw [State.interlockOk_iff] at hs ⊢
  rw [ho]
  intro hr
  obtain ⟨h0, ⟨h1, h2, h3⟩, h4⟩ := hs hr
  obtain ⟨-, hterms, houtputs⟩ := State.evaluated_congr h.settings h.formSignals
  refine ⟨hown h0, ⟨?_, ?_, ?_⟩, fun c hp => ?_⟩
  · rw [hi, h1, h.formSignals]
  · rw [hi, h2, hterms]
  · rw [hi, h3, houtputs]
  · rw [hc, hi]
    unfold State.record at hp
    rw [h.settings] at hp
    exact h4 c hp

theorem Ticked.interlockOk (h : Ticked s t) (hs : s.InterlockOk) : t.InterlockOk := by
  refine h.reads.interlockOk h.op.1 h.ia (fun c => ?_) (fun hown h0 b hb => ?_) hs
  · rw [h.chan]
    unfold Channel.tick
    split <;> rfl
  · obtain ⟨-, hr, hn⟩ := h.op
    rw [hn] at h0 hb
    rw [hr]
    exact hown h0 b ((h.entry_beacon _).1 ▸ hb)

theorem Aside.interlockOk (h : Aside s t) (hs : s.InterlockOk) : t.InterlockOk := by
  refine h.reads.interlockOk (by rw [h.osm]) h.ia (fun c => ?_) (fun hown => ?_) hs
  · exact congrArg Prod.fst (Channel.unclocked_drawn (h.chan c))
  · unfold State.OwnShown State.shows State.entry
    rw [h.osm, h.pvt]
    exact hown

theorem State.reset_outOk : State.reset.OutOk := State.reset.outOk_iff.mpr ⟨rfl, by decide⟩

theorem exec_interlockOk {c : Instr} (hp : s.PlacedOk) (ha : s.ActiveOk) (hi : s.InterlockOk) (h : exec c s = .next t) :
    t.InterlockOk := by
  cases exec_outcomes h with
  | reset _ ht => exact ht ▸ nofun
  | same ht => exact ht ▸ hi
  | direct d => exact d.aside.interlockOk hi
  | react cue u e ht =>
    subst ht
    rw [State.interlockOk_iff]
    intro hr
    have hconsole := e.react_keeps_settled (P := fun c r n => n = c.consoleStation → r = .console)
      (fun x hx => (s.enterRunning_placed x hx).1) ha.1 s hr
    have hpole := e.react_keeps_settled (P := fun c r n => n = c.poleStation → r = .pole)
      (fun x hx => (s.enterRunning_placed x hx).2) (State.placedOk_iff.mp hp) s hr
    exact State.react_array cue s u hr
      (e.ownShown (fun hrun => ((State.interlockOk_iff s).mp hi hrun).1) (State.react_runs hr))
      (State.consolePlaced_iff.mpr fun _ => hconsole) (State.polePlaced_of hpole)

theorem exec_outOk {c : Instr} (hs : s.OutOk) (h : exec c s = .next t) : t.OutOk := by
  cases exec_outcomes h with
  | reset _ ht => exact ht ▸ State.reset_outOk
  | same ht => exact ht ▸ hs
  | direct d => exact d.outOk hs
  | react cue u e ht => exact ht ▸ State.settleOutputs_outOk _

end

/-- Settles O54: a reaction's last pass evaluates the array on the state it leaves (`react_array`) and its closing part drives the
pins (`settleOutputs_outOk`); what does not react leaves what they show. -/
theorem stepKeepsInterlockAndOutputs : Obligations.StepKeepsInterlockAndOutputs := by
  intro s t hp ha hi ho h
  obtain rfl | ⟨c, rest, hc⟩ := step_cases h
  · exact ⟨s.ticked.interlockOk hi, s.ticked.outOk ho⟩
  · exact ⟨exec_interlockOk (s := s.withPending rest) hp ha hi hc, exec_outOk (s := s.withPending rest) ho hc⟩

/-- Settles O5: each invariant on the values of the cold reset. -/
theorem resetMeetsTheInvariants : Obligations.ResetMeetsTheInvariants := by
  refine ⟨Memory.reset_wf, State.reset.cutsOk_iff.mpr ⟨.nil, ⟨fun h => absurd rfl h, fun h => nomatch h⟩, fun _ => rfl⟩,
    State.placedOk_iff.mpr nofun, fun _ => ⟨rfl, rfl, rfl⟩, ⟨le_rfl, Nat.zero_le _, le_rfl, fun _ => ⟨rfl, rfl, rfl⟩⟩,
    ⟨nofun, nofun⟩, nofun, State.reset_outOk, ⟨by decide, by decide⟩,
    ⟨by decide, by decide, .nil, fun _ => rfl⟩, ?_, fun _ => ⟨rfl, rfl⟩, nofun, ?_, ?_⟩
  · unfold State.RangesOk
    decide
  · refine ⟨by decide, fun c => ?_⟩
    rw [State.reset_chan]
    refine ⟨by revert c; decide, fun h => absurd rfl h, fun _ => rfl, fun _ => rfl⟩
  · refine ⟨by decide, fun c => ?_⟩
    rw [State.reset_chan]
    refine ⟨by decide, by revert c; decide, fun h => absurd rfl h⟩

end Sys2Proof.Machine

/-! The transmit side, the maintenance port and the page writes (R182, R183, R201, R202). -/

namespace Sys2Proof.Machine

section
variable {s : State}

theorem State.stopSending_eq {x : Sending} (h : s.bus.sending = some x) (waits : BusUnit → Sending → BusUnit) :
    s.stopSending waits = s.withBus (if s.osm.op = .dormant then { s.bus with sending := none }
      else waits { s.bus with sending := none } x) := by
  unfold State.stopSending
  rw [h]

theorem State.stopSending_idle (h : s.bus.sending = none) (waits : BusUnit → Sending → BusUnit) :
    s.stopSending waits = s := by
  unfold State.stopSending
  rw [h]

/-- R182: a transmission start sends the frame the queue offers. -/
theorem State.transmitStart_eq (ho : s.osm.op.composes = true) (hn : s.osm.number ≠ 0) (hs : s.bus.sending = none) {k : Slot}
    {m : Message} (hm : s.bus.offer = some (k, m)) : exec .transmitStart s = .next (s.withBus
      { s.bus.take k with sending := some ⟨k, s.withCutList m, encode s.osm.number (s.withCutList m), false, none⟩, backoff := 0 }) := by
  refine congrArg Host.Outcome.next ((if_pos ⟨ho, hn⟩).trans ?_)
  unfold State.beginSending
  rw [hs, hm]

/-- R118: the cut list of a beacon sent is the one at its transmission start. -/
theorem State.withCutList_eq {m n : Message} (hb : ∀ b, m = .beacon b → n = .beacon { b with cuts := s.ownCuts })
    (ho : (∀ b, m ≠ .beacon b) → n = m) : s.withCutList m = n := by
  cases m with
  | beacon b => exact (hb b rfl).symm
  | _ => exact (ho fun _ => nofun).symm

/-- R183: the urgent slots after a frame has been handed over. -/
theorem BusUnit.putUrgent_slots (b : BusUnit) (m : Message) : (b.putUrgent m).urgentSlots =
    (if b.urgentSlots.length + b.driven .urgent < 2 then b.urgentSlots else b.urgentSlots.drop 1) ++ [m] := by
  unfold BusUnit.putUrgent
  split <;> rfl

end

/-- Settles O56: the queue's offer by its slots, and what each row does with the driven frame. -/
theorem framesAreSent : Obligations.FramesAreSent := by
  refine ⟨fun m n l s ho hn hs hb hother => ?_, fun x s hx => ⟨fun hd => ?_, fun hd => ?_, ?_⟩, fun _ => rfl,
    fun s hs => ⟨?_, ?_⟩, fun m s hq => ⟨?_, ?_, fun hl => ?_, fun hl => ?_⟩⟩
  · have hstart : ∀ k, s.bus.offer = some (k, m) → exec .transmitStart s = .next (s.withBus
        { s.bus.take k with sending := some ⟨k, n, encode s.osm.number n, false, none⟩, backoff := 0 }) := fun k hk => by
      rw [State.transmitStart_eq ho hn hs hk, State.withCutList_eq hb hother]
    refine ⟨fun hu => ?_, fun hu hc => ?_, fun hu hc hbeacon => ?_⟩
    · rw [hstart .urgent (by unfold BusUnit.offer; rw [hu])]
      unfold BusUnit.take
      rw [hu]
      rfl
    · rw [hstart .command (by unfold BusUnit.offer; rw [hu, hc])]
      unfold BusUnit.take
      rw [hc]
      rfl
    · exact hstart .beacon (by unfold BusUnit.offer; rw [hu, hc, hbeacon]; rfl)
  · exact congrArg Host.Outcome.next ((State.stopSending_eq hx _).trans (by rw [if_pos hd]))
  · refine congrArg Host.Outcome.next ((State.stopSending_eq hx _).trans ?_)
    rw [if_neg hd]
    unfold BusUnit.loseArbitration BusUnit.putBack
    cases x.slot <;> cases x.dropped <;> rfl
  · refine ⟨(Config.freeBackoff s.freeCount).val, by have := (Config.freeBackoff s.freeCount).isLt; omega, ?_⟩
    have hdrawn : (s.stopSending BusUnit.putBack).freeCount = s.freeCount := by rw [State.stopSending_eq hx]; rfl
    refine congrArg Host.Outcome.next ((if_pos (by rw [hx]; rfl)).trans ?_)
    unfold State.drawBackoff
    rw [hdrawn, State.stopSending_eq hx]
    unfold BusUnit.putBack
    cases s.osm.op <;> cases x.slot <;> rfl
  · exact congrArg Host.Outcome.next (State.stopSending_idle hs _)
  · exact congrArg Host.Outcome.next (if_neg (by rw [hs]; decide))
  · exact (BusUnit.putUrgent_queues s.bus m).fits hq
  · show (s.bus.putUrgent m).urgentSlots.getLast? = _
    rw [BusUnit.putUrgent_slots, List.getLast?_concat]
  · exact (BusUnit.putUrgent_slots _ _).trans (by rw [if_pos hl])
  · exact (BusUnit.putUrgent_slots _ _).trans (by rw [if_neg (by omega)])

section
variable {le : Fin 4 → Fin 4 → Bool}

theorem insertChannel_pairwise (htotal : ∀ a b, le a b = true ∨ le b a = true)
    (htrans : ∀ a b c, le a b = true → le b c = true → le a c = true) (c : Fin 4) (l : List (Fin 4))
    (h : l.Pairwise (fun a b => le a b = true)) : (insertChannel le c l).Pairwise (fun a b => le a b = true) := by
  induction l with
  | nil => exact List.pairwise_singleton _ _
  | cons d l ih =>
    have hd := List.pairwise_cons.mp h
    unfold insertChannel
    split
    · next hc =>
      refine List.pairwise_cons.mpr ⟨fun x hx => ?_, h⟩
      obtain rfl | hx := List.mem_cons.mp hx
      · exact hc
      · exact htrans _ _ _ hc (hd.1 x hx)
    · next hc =>
      refine List.pairwise_cons.mpr ⟨fun x hx => ?_, ih hd.2⟩
      obtain rfl | hx := List.mem_cons.mp ((insertChannel_perm c le l).mem_iff.mp hx)
      · exact (htotal d x).resolve_right hc
      · exact hd.1 x hx

/-- A list of channels in an order is sorted by it. -/
theorem orderChannels_pairwise (htotal : ∀ a b, le a b = true ∨ le b a = true)
    (htrans : ∀ a b c, le a b = true → le b c = true → le a c = true) (l : List (Fin 4)) :
    (orderChannels le l).Pairwise (fun a b => le a b = true) := by
  induction l with
  | nil => exact .nil
  | cons c l ih => exact insertChannel_pairwise htotal htrans c _ ih

/-- The order of a key, ties by number. -/
theorem keyOrder_total (key : Fin 4 → Nat) (a b : Fin 4) :
    (decide (key a < key b) || (key a == key b && decide (a ≤ b))) = true ∨
      (decide (key b < key a) || (key b == key a && decide (b ≤ a))) = true := by
  simp only [Bool.or_eq_true, Bool.and_eq_true, decide_eq_true_eq, beq_iff_eq]
  omega

theorem keyOrder_trans (key : Fin 4 → Nat) (a b c : Fin 4)
    (h : (decide (key a < key b) || (key a == key b && decide (a ≤ b))) = true)
    (k : (decide (key b < key c) || (key b == key c && decide (b ≤ c))) = true) :
    (decide (key a < key c) || (key a == key c && decide (a ≤ c))) = true := by
  simp only [Bool.or_eq_true, Bool.and_eq_true, decide_eq_true_eq, beq_iff_eq] at h k ⊢
  omega

theorem State.shedOrder_nodup (s : State) : s.shedOrder.Nodup :=
  (orderChannels_perm _ _).nodup_iff.mpr (List.Nodup.filter _ (by decide))

/-- R144: the shed list stands in the order of the positions. -/
theorem State.shedOrder_pairwise (s : State) :
    s.shedOrder.Pairwise (fun a b => (s.chan a).position ≤ (s.chan b).position ∧ a ≠ b) := by
  have h := orderChannels_pairwise (keyOrder_total fun c => (s.chan c).position) (keyOrder_trans fun c => (s.chan c).position)
    (channelNumbers.filter s.onList)
  refine (h.and s.shedOrder_nodup).imp fun hab => ⟨?_, hab.2⟩
  have hle := hab.1
  simp only [Bool.or_eq_true, Bool.and_eq_true, decide_eq_true_eq, beq_iff_eq] at hle
  omega

end

/-- Settles O57: the rows' answers; the shed list is the ordered list of the channels on it. -/
theorem portIsRead : Obligations.PortIsRead := by
  intro s
  have hlive : ∀ a, s.osm.op ≠ .dormant → s.answer a = s.withPort a := fun a h => by
    unfold State.answer
    rw [if_neg h]
  have hdormant : ∀ a, s.osm.op = .dormant → s.answer a = s.withPort .refused := fun a h => by
    unfold State.answer
    rw [if_pos h]
  refine ⟨fun h => ⟨?_, congrArg Host.Outcome.next (hlive _ h), s.snapshotData, congrArg Host.Outcome.next (hlive _ h),
      rfl, rfl, rfl, rfl, rfl, rfl, rfl, rfl, rfl, rfl, rfl, rfl, rfl, rfl, rfl, fun c v hv => ?_, ?_, fun a => ?_,
      rfl, rfl, rfl, rfl, rfl, rfl, rfl, fun hr => if_neg hr, fun hr => if_pos hr⟩,
    fun h => ⟨congrArg Host.Outcome.next (hdormant _ h), congrArg Host.Outcome.next (hdormant _ h),
      congrArg Host.Outcome.next (hdormant _ h), fun p b w => ⟨_, rfl, if_pos h, rfl⟩⟩⟩
  · refine congrArg Host.Outcome.next ((hlive _ h).trans ?_)
    cases s.cs.write <;> rfl
  · have hview : ∀ c : Fin 4, s.snapshotData.channels[c.val]? = some ⟨s.chan c, (s.chan c).effective, s.current c⟩ := by
      intro c
      match c with
      | 0 => rfl
      | 1 => rfl
      | 2 => rfl
      | 3 => rfl
    rw [hview] at hv
    obtain rfl := Option.some_injective _ hv
    exact ⟨rfl, rfl, rfl⟩
  · exact List.pairwise_map.mpr s.shedOrder_pairwise
  · show a ∈ s.shedOrder.map (fun c => (⟨c, (s.chan c).position⟩ : Placed)) ↔ _
    rw [List.mem_map]
    constructor
    · rintro ⟨c, hc, rfl⟩
      exact ⟨(State.mem_shedOrder s c).mp hc, rfl⟩
    · rintro ⟨hl, hp⟩
      exact ⟨a.channel, (State.mem_shedOrder s _).mpr hl, by rw [← hp]⟩

/-- Settles O58: the judging of a write, the page as it is written, and a set mark in LOADING. -/
theorem pageIsWritten : Obligations.PageIsWritten := by
  refine ⟨fun p b w s => ⟨_, rfl, rfl, fun h => ?_, fun h hw => ?_, fun h hw hb => ?_, fun h hw hb => ?_⟩,
    fun x s hx hd hwf => ⟨s.withCs (s.cs.finishWrite x), ?_, rfl, rfl, rfl, rfl, fun i => ?_, fun a ha => ?_⟩,
    fun x s hx hd => ?_, fun s => ⟨_, rfl, rfl, rfl, rfl⟩, fun x s hl hm hc => ⟨_, rfl, ?_⟩⟩
  · show s.cs.judgeWrite (s.osm.op == .maintenance) w p b = _
    unfold ConfigStore.judgeWrite
    rw [if_neg (by simpa using h)]
  · show s.cs.judgeWrite (s.osm.op == .maintenance) w p b = _
    unfold ConfigStore.judgeWrite
    rw [if_pos (by simpa using h), if_pos hw]
  · show s.cs.judgeWrite (s.osm.op == .maintenance) w p b = _
    unfold ConfigStore.judgeWrite
    rw [if_pos (by simpa using h), if_neg (by rw [hw]; decide), if_pos (Option.isSome_iff_ne_none.mpr hb)]
  · show s.cs.judgeWrite (s.osm.op == .maintenance) w p b = _
    unfold ConfigStore.judgeWrite
    rw [if_pos (by simpa using h), if_neg (by rw [hw]; decide), if_neg (by rw [hb]; decide)]
  · refine congrArg Host.Outcome.next ?_
    rw [hx]
    exact if_pos hd
  · have hlen : (x.bytes.toList.take 16) = x.bytes.toList := List.take_of_length_le (by simp)
    show (s.cs.image.writePage x.page.val x.bytes.toList).read _ = _
    unfold Memory.writePage
    rw [hlen, Memory.read_writeAll _ _ _ _ hwf (by simp) (by simp; omega)]
    simp
  · exact Memory.read_writePage_other _ _ _ _ ha
  · refine congrArg Host.Outcome.next ?_
    rw [hx]
    exact if_neg (by omega)
  · have hf : s.loadFails x = true := by
      unfold State.loadFails
      rw [hm]
      simp
    rw [if_pos hl, if_neg (by rw [hc]; decide), if_pos hf]
    have hop := s.enterFaulted_op x
    exact (State.react_op_same noCue s _ (.inr (.inr (.inl hop)))).trans hop

end Sys2Proof.Machine

/-! The timers of the pole watch unit (R71, R73, R75, R76, R79, R82, R87, R90, R105 to R110). -/

namespace Sys2Proof.Machine

section
variable {s u t : State}

theorem Watched.polesRun (h : Watched s u) : u.polesRun = s.polesRun := by
  unfold State.polesRun
  rw [h.osm]

/-- A timer's row where the pole watch unit's rules run and the timer is due. -/
theorem State.poleTimer_due {due : Bool} (w : Option Pole) (act : State → State) (hr : s.polesRun = true) (hd : due = true) :
    s.poleTimer due w act = State.react noCue s ((act s).finishPoles w) :=
  if_pos (Bool.and_eq_true_iff.mpr ⟨hr, hd⟩)

theorem State.sourceMode_eq (s : State) : s.sourceMode = s.modeAt s.pwu.line := by
  unfold State.sourceMode State.modeAt
  cases s.pwu.line <;> rfl

theorem SourceCuts_iff (a b : SourceMode) : SourceCuts a b ↔ sourceChanges a b = true := by
  unfold SourceCuts
  cases a <;> cases b <;> decide

/-- R89: what a step of the pole watch unit publishes follows the line state it ends with. -/
theorem State.finishPoles_source (w : Option Pole) (h : u.polesRun = true) :
    (u.finishPoles w).pwu.source = u.modeAt (u.finishPoles w).pwu.line := by
  unfold State.finishPoles
  rw [if_pos h]
  obtain ⟨a, b, hab⟩ := State.syncPoleCuts_pwu u.openLine.endDescent.updateSource w
  have hpvt : u.openLine.endDescent.pvt = u.pvt := ((Watched.openLine u).trans (Watched.endDescent _)).pvt
  have hmode : ∀ l, u.openLine.endDescent.modeAt l = u.modeAt l := fun l => by
    unfold State.modeAt
    rw [hpvt]
  rw [hab]
  exact (State.sourceMode_eq _).trans (hmode _)

/-- R89, R90: the source mode after the whole of a step of the pole watch unit, by way of the mode it ends with. -/
theorem Finished.follows {w : Option Pole} (cue : Cue) (s0 : State) (hr : u.polesRun = true) (hp : u.pvt = s.pvt)
    (hsource : u.pwu.source = s.pwu.source) (htimer : u.pwu.sourceTimer = s.pwu.sourceTimer) :
    s.SourceFollows (State.react cue s0 (u.finishPoles w)) (State.react cue s0 (u.finishPoles w)).pwu.source := by
  have f := Finished.react cue s0 u w hr
  obtain ⟨-, -, -, -, -, hline, -, hmode, -⟩ := (Carried.react cue s0 (u.finishPoles w)).poles
  have hfollow := State.finishPoles_source w hr
  rw [← hline, ← hmode] at hfollow
  obtain ⟨m, hm, ht⟩ := f.source
  generalize State.react cue s0 (u.finishPoles w) = v at f hfollow hm ht ⊢
  have hself : ¬ SourceCuts v.pwu.source v.pwu.source := by
    rw [SourceCuts_iff]
    cases v.pwu.source <;> decide
  rw [hsource, htimer, ← hm] at ht
  refine ⟨hfollow.trans ?_, fun h => ?_, fun h _ => ?_, f.sourceChange⟩
  · unfold State.modeAt
    rw [hp]
  · rw [ht, if_pos ((SourceCuts_iff _ _).mp (h.resolve_right hself))]
  · rw [ht, if_neg fun k => h ((SourceCuts_iff _ _).mpr k)]

/-- An alarm's condition after the whole of a step of the pole watch unit that has raised it. -/
theorem State.react_raised (cue : Cue) (s0 : State) (w : Option Pole) (k : AlarmKind) (q : Nat) (hr : s.polesRun = true)
    (h : ¬ poleCondition (s.onset k q) (k, q)) : (State.react cue s0 ((s.onset k q).finishPoles w)).inForce k q = true := by
  rw [State.react_finishPoles_inForce cue s0 _ w k q h, State.onset_inForce, OpState.serves_taken (State.polesRun_role hr).2]
  simp

theorem poleCode_injective : Function.Injective poleCode := by
  intro p q
  cases p <;> cases q <;> decide

theorem State.bothDown_of {p : Pole} (h : (s.pole p).state.down = false) : s.bothDown = false := by
  unfold State.bothDown
  rw [Bool.and_eq_false_iff]
  cases p
  · exact .inl h
  · exact .inr h

/-- R73: a raise that is abandoned. -/
theorem State.abandonRaise_pole (p : Pole) :
    (s.abandonRaise.pole p).state = if (s.pole p).state.rising then .lowering else (s.pole p).state := by
  have h : s.abandonRaise.pole p = (bothPoles.foldl (State.lowerIf PoleState.rising) s).pole p := by
    unfold State.abandonRaise State.pole
    rw [State.onset_pwu]
    cases p <;> rfl
  rw [h, State.pole_lowerAll]
  split <;> rfl

theorem State.abandonRaise_operation (s : State) : s.abandonRaise.pwu.operation = .none := by
  unfold State.abandonRaise
  rw [State.onset_pwu]
  rfl

/-- R71, R73: the whole of a step that abandons a raise. -/
theorem State.react_abandonRaise (hr : s.polesRun = true) {q : Pole} (hq : (s.pole q).state.rising = true) :
    (State.react noCue s (s.abandonRaise.finishPoles none)).pwu.operation = .none ∧
    (State.react noCue s (s.abandonRaise.finishPoles none)).inForce .raiseFail 0 = true ∧
    ∀ p, ((State.react noCue s (s.abandonRaise.finishPoles none)).pole p).state =
      if (s.pole p).state.rising then .lowering else (s.pole p).state := by
  have hw := Watched.abandonRaise s
  have f := Finished.react noCue s s.abandonRaise none (hw.polesRun.trans hr)
  refine ⟨?_, ?_, fun p => (f.state p).trans (State.abandonRaise_pole p)⟩
  · rw [f.operation, State.abandonRaise_operation, ite_self]
  · have hdown : s.abandonRaise.bothDown = false :=
      State.bothDown_of (p := q) (by rw [State.abandonRaise_pole, if_pos hq]; rfl)
    have hrun : ((bothPoles.foldl (State.lowerIf PoleState.rising) s).endRaise).polesRun = true :=
      ((Watched.foldl (Watched.lowerIf PoleState.rising) _ s).trans (Watched.withPwu _ _)).polesRun.trans hr
    refine State.react_raised noCue s none .raiseFail 0 hrun ?_
    have hdown : ((bothPoles.foldl (State.lowerIf PoleState.rising) s).endRaise.onset .raiseFail 0).bothDown = false := hdown
    rintro (⟨h, -⟩ | ⟨-, h⟩ | h | ⟨h | h, -⟩)
    · cases h
    · rw [hdown] at h; cases h
    · cases h
    · cases h
    · cases h

end

/-- Settles O47: both timers abandon the raise (`react_abandonRaise`). -/
theorem raiseIsAbandoned : Obligations.RaiseIsAbandoned := by
  refine ⟨fun q s hr hq hd => ⟨_, rfl, ?_⟩, fun q s hr ho hd hq => ⟨_, rfl, ?_⟩⟩
  · rw [State.poleTimer_due _ _ hr (by simp [hq, hd])]
    exact State.react_abandonRaise hr (q := q) (by rw [hq]; rfl)
  · rw [State.poleTimer_due _ _ hr (by simp [ho, hd])]
    exact State.react_abandonRaise hr hq

section
variable {s : State}

/-- R76: the poles and the unit as a drain ends. -/
theorem State.endDrain_pole (p : Pole) :
    (s.endDrain.pole p).state = if (s.pole p).state = .onWire then .lowering else (s.pole p).state := by
  unfold State.endDrain
  rw [State.pole_lowerAll]
  have h : ∀ r, (s.withPwu { s.pwu with operation := r, drainTimer := 0 }).pole p = s.pole p := fun _ => by cases p <;> rfl
  rw [h]
  simp only [beq_iff_eq]
  split <;> rfl

theorem State.endDrain_unit (s : State) : s.endDrain.pwu = { s.pwu with
    pos := s.endDrain.pwu.pos, neg := s.endDrain.pwu.neg, operation := .lowerDescent, drainTimer := 0 } := by
  obtain ⟨h, -⟩ := State.lowerAll_unit (fun st => st == .onWire)
    (s.withPwu { s.pwu with operation := .lowerDescent, drainTimer := 0 })
  exact h

theorem PoleState.up_iff (st : PoleState) : st.up = true ↔ st = .onWire ∨ st = .suspect := by cases st <;> decide

theorem State.bothUp_iff : s.bothUp = true ↔ ∀ p, (s.pole p).state.up = true := by
  unfold State.bothUp
  rw [Bool.and_eq_true]
  exact ⟨fun h p => by cases p; exacts [h.1, h.2], fun h => ⟨h .pos, h .neg⟩⟩

theorem State.pole_up (h : s.bothUp = true) (p : Pole) : (s.pole p).state.up = true := State.bothUp_iff.mp h p

/-- R90: with the mode and the line as they are, the source-change timer's end releases its cut alone. -/
theorem State.react_sourceTimer (hr : s.polesRun = true) (hm : s.sourceMode = s.pwu.source)
    (hl : s.bothUp = true ∨ s.pwu.line = .isOpen) :
    (State.react noCue s ((s.withPwu { s.pwu with sourceTimer := none }).finishPoles none)).pwu.sourceTimer = none ∧
    (State.react noCue s ((s.withPwu { s.pwu with sourceTimer := none }).finishPoles none)).holdsCut .sourceChange = false ∧
    (State.react noCue s ((s.withPwu { s.pwu with sourceTimer := none }).finishPoles none)).pwu.source = s.pwu.source := by
  have f := Finished.react noCue s (s.withPwu { s.pwu with sourceTimer := none }) none hr
  have hsame := f.sourceSame hl
  obtain ⟨m, hsource, htimer⟩ := f.source
  have hmode : m = s.pwu.source := hsource.symm.trans (hsame.trans hm)
  have hnone : (State.react noCue s ((s.withPwu { s.pwu with sourceTimer := none }).finishPoles none)).pwu.sourceTimer = none := by
    rw [htimer, hmode]
    have hself : sourceChanges s.pwu.source s.pwu.source = false := by cases s.pwu.source <;> rfl
    exact (if_neg (by rw [show (s.withPwu { s.pwu with sourceTimer := none }).pwu.source = s.pwu.source from rfl, hself]; decide)).trans rfl
  exact ⟨hnone, by rw [f.sourceChange, hnone]; rfl, hsource.trans hmode⟩

end

/-- Settles O48: the source-change timer's end, and the drain's end with the line it leaves. -/
theorem drainAndSourceChangeEnd : Obligations.DrainAndSourceChangeEnd := by
  refine ⟨fun s hr hd hm hl => ⟨_, rfl, ?_⟩, fun s hr ho hd hup => ⟨_, rfl, ?_⟩⟩
  · rw [State.poleTimer_due _ _ hr hd]
    exact State.react_sourceTimer hr hm hl
  · rw [State.poleTimer_due _ _ hr (by simp [ho, hd])]
    have hw := Watched.endDrain s
    have hrun := hw.polesRun.trans hr
    have f := Finished.react noCue s s.endDrain none hrun
    have hunit := s.endDrain_unit
    have hdown : s.endDrain.bothDown = false := by
      refine State.bothDown_of (p := .pos) ?_
      rw [State.endDrain_pole]
      obtain h | h := (PoleState.up_iff _).mp (State.pole_up hup .pos)
      · rw [if_pos h]; rfl
      · rw [if_neg (by rw [h]; decide), h]; rfl
    refine ⟨?_, ?_, ?_, Finished.follows noCue s hrun hw.pvt (by rw [hunit]) (by rw [hunit]), fun p => ?_⟩
    · rw [f.operation, hdown, hunit]
      rfl
    · rw [f.drainTimer, hdown, hunit]
      rfl
    · rw [f.line]
      have hboth : s.endDrain.bothUp = true ↔ ¬ ((s.pole .pos).state = .onWire ∨ (s.pole .neg).state = .onWire) := by
        rw [State.bothUp_iff]
        constructor
        · rintro h (k | k)
          · have hp := h .pos
            rw [State.endDrain_pole, if_pos k] at hp
            cases hp
          · have hn := h .neg
            rw [State.endDrain_pole, if_pos k] at hn
            cases hn
        · intro h p
          rw [State.endDrain_pole, if_neg (by cases p; exacts [fun k => h (.inl k), fun k => h (.inr k)])]
          exact State.pole_up hup p
      by_cases hc : (s.pole .pos).state = .onWire ∨ (s.pole .neg).state = .onWire
      · rw [if_pos hc, if_neg fun k => hboth.mp k hc]
      · rw [if_neg hc, if_pos (hboth.mpr hc), hunit]
    · rw [f.state, State.endDrain_pole]

end Sys2Proof.Machine

/-! The ends of the retriever, gap, forgiveness, bounce and SUSPECT timers (R76, R79, R82, R87, R89, R90, R105 to R110). -/

namespace Sys2Proof.Machine

section
variable {s : State}

theorem blockCondition_pole (p : Pole) :
    blockCondition (.retrieveFail, poleCode p) = false ∧ blockCondition (.poleDrop, poleCode p) = false := by
  cases p <;> exact ⟨rfl, rfl⟩

/-- R79, R112: what a step of the pole watch unit keeps in force of a pole that is not down. -/
theorem State.poleCondition_up {k : AlarmKind} {p : Pole} (hk : k = .retrieveFail ∨ k = .poleDrop)
    (hp : (s.pole p).state.down = false) : ¬ poleCondition s (k, poleCode p) := by
  rintro (⟨h, -⟩ | ⟨h, -⟩ | h | ⟨-, q, hq, h⟩)
  · obtain rfl | rfl := hk <;> cases h
  · obtain rfl | rfl := hk <;> cases h
  · obtain rfl | rfl := hk
    · rw [(blockCondition_pole p).1] at h; cases h
    · rw [(blockCondition_pole p).2] at h; cases h
  · rw [poleCode_injective hq, hp] at h
    cases h

theorem PoleState.falling_not_down {st : PoleState} (h : st.falling = true) : st.down = false := by
  cases st with
  | retrieving => rfl
  | lowering => rfl
  | _ => cases h

/-- The poles of a state, both of which an alarm's onset leaves. -/
theorem State.onset_pole (s : State) (k : AlarmKind) (q : Nat) (p : Pole) : (s.onset k q).pole p = s.pole p := by
  unfold State.pole
  rw [State.onset_pwu]

/-- R89, R90: the source mode after a step of the pole watch unit, looked at from a state with the unit's source as it was. -/
theorem State.react_loseLine (hr : s.polesRun = true) (hup : s.bothUp = true) :
    (State.react noCue s (s.loseLine.finishPoles none)).pwu.line = .out ∧
    (State.react noCue s (s.loseLine.finishPoles none)).pwu.gapTimer = 0 ∧
    (State.react noCue s (s.loseLine.finishPoles none)).inForce .lineLost 0 = true ∧
    (State.react noCue s (s.loseLine.finishPoles none)).holdsCut .section_ = false ∧
    s.SourceFollows (State.react noCue s (s.loseLine.finishPoles none))
      (State.react noCue s (s.loseLine.finishPoles none)).pwu.source := by
  have hw : Watched s s.loseLine := (Watched.withPwu s _).trans (Watched.onset _ .lineLost 0)
  have hunit : s.loseLine.pwu = { s.pwu with line := .out, gapTimer := 0 } := State.onset_pwu _ _ _
  have hrun := hw.polesRun.trans hr
  have f := Finished.react noCue s s.loseLine none hrun
  have hboth : s.loseLine.bothUp = true := by
    unfold State.bothUp
    rw [hunit]
    exact hup
  have hline := f.line.trans (if_pos hboth)
  rw [hunit] at hline
  refine ⟨hline, ?_, ?_, ?_, Finished.follows noCue s hrun hw.pvt (by rw [hunit]) (by rw [hunit])⟩
  · rw [f.gapTimer, if_pos hboth, hunit]
  · refine State.react_raised (s := s.withPwu { s.pwu with line := .out, gapTimer := 0 }) noCue s none .lineLost 0 hr ?_
    rintro (⟨-, h⟩ | ⟨h, -⟩ | h | ⟨h | h, -⟩)
    · exact absurd (hboth.symm.trans h) (by decide)
    · cases h
    · cases h
    · cases h
    · cases h
  · rw [f.sectionCut, hline]
    rfl

end

/-- Settles O49: the retriever alarm stands for a pole that is not down, and the gap's end makes the line OUT. -/
theorem retrieveFailsAndLineIsLost : Obligations.RetrieveFailsAndLineIsLost := by
  refine ⟨fun p s hr hf hd => ⟨_, rfl, ?_⟩, fun s hr hup hl hd => ⟨_, rfl, ?_⟩⟩
  · rw [State.poleTimer_due _ _ hr (by simp [hf, hd])]
    have f := Finished.react noCue s (s.onset .retrieveFail (poleCode p)) none ((Watched.onset s _ _).polesRun.trans hr)
    refine ⟨State.react_raised noCue s none _ _ hr (State.poleCondition_up (.inl rfl) ?_), ?_, ?_⟩
    · rw [State.onset_pole]
      exact PoleState.falling_not_down hf
    · rw [f.state, State.onset_pole]
    · rw [f.state, State.onset_pole]
  · rw [State.poleTimer_due _ _ hr (by simp [hl, hd])]
    exact State.react_loseLine hr hup

theorem ne_otherPole (p : Pole) : p ≠ otherPole p := by cases p <;> decide

theorem State.setPole_same (s : State) (p : Pole) (r : PoleRecord) : (s.setPole p r).pole p = r := by
  rw [State.pole_setPole, if_pos rfl]

theorem State.setPole_other (s : State) (p : Pole) (r : PoleRecord) : (s.setPole p r).pole (otherPole p) = s.pole (otherPole p) := by
  rw [State.pole_setPole, if_neg (ne_otherPole p)]

/-- R110: the pole records after the old bounces of a pole are dropped. -/
theorem State.expireBounces_pole (s : State) (p q : Pole) : (s.expireBounces p).pole q =
    (s.setPole p { s.pole p with
      bounces := (s.pole p).bounces.filter (fun b => decide (s.osm.uptime < b + 60000)) }).pole q := by
  unfold State.expireBounces
  dsimp only
  split
  · unfold State.pole
    rw [State.clearCond_pwu]
  · rfl

/-- Settles O50: a forgiven dewirement and a bounce history that ages. -/
theorem countsAreForgiven : Obligations.CountsAreForgiven := by
  refine fun p s => ⟨fun hr hw hd => ⟨_, rfl, ?_⟩, _, rfl, ?_⟩
  · rw [State.poleTimer_due _ _ hr (by simp [hw, hd])]
    have f := Finished.react noCue s (State.forgive p s) none hr
    obtain ⟨x, hx⟩ := f.pole p
    obtain ⟨y, hy⟩ := f.pole (otherPole p)
    have hsame : (State.forgive p s).pole p = { s.pole p with count := (s.pole p).count - 1, forgive := 0 } :=
      State.setPole_same s p _
    have hother : (State.forgive p s).pole (otherPole p) = s.pole (otherPole p) := State.setPole_other s p _
    rw [hx, hy, hsame, hother]
    exact ⟨rfl, rfl, hw, rfl⟩
  · rw [(Carried.react noCue s (s.expireBounces p)).pole, State.expireBounces_pole, State.setPole_same]
    exact ⟨rfl, rfl, rfl⟩

section
variable {s : State}

/-- R104, R105, R110: a pole's record on its return from SUSPECT at an uptime. -/
def PoleRecord.returned (r : PoleRecord) (now : Nat) : PoleRecord :=
  { r.enter .onWire with bounces := recordBounce r.bounces now }

/-- R77, R107: a pole's record as it is judged dewired. -/
def PoleRecord.dewired (r : PoleRecord) : PoleRecord := { r.enter .dewired with count := min 15 (r.count + 1) }

theorem State.pole_congr {u : State} {p : Pole} {r : PoleRecord} (hu : u.pwu = (s.setPole p r).pwu) (q : Pole) :
    u.pole q = if p = q then r else s.pole q := by
  rw [← State.pole_setPole]
  unfold State.pole
  rw [hu]

/-- R76, R104, R105, R110: the poles after one has returned from SUSPECT. -/
theorem State.returnPole_pole (s : State) (p q : Pole) : (s.returnPole p).pole q =
    if p = q then
      (if s.pwu.operation = .lowerDescent then ((s.pole p).returned s.osm.uptime).enter .lowering
      else (s.pole p).returned s.osm.uptime)
    else s.pole q := by
  have key : ∀ u : State, u.pwu = (s.setPole p ((s.pole p).returned s.osm.uptime)).pwu →
      (if u.pwu.operation = .lowerDescent then u.enterPole p .lowering else u).pole q =
      if p = q then
        (if s.pwu.operation = .lowerDescent then ((s.pole p).returned s.osm.uptime).enter .lowering
        else (s.pole p).returned s.osm.uptime)
      else s.pole q := by
    intro u hu
    have hop : u.pwu.operation = s.pwu.operation := by rw [hu]; cases p <;> rfl
    rw [hop]
    split
    · rw [State.pole_enterPole, State.pole_congr hu]
      split <;> rfl
    · exact State.pole_congr hu q
  unfold State.returnPole
  dsimp only
  refine key _ ?_
  split
  · exact State.onset_pwu _ _ _
  · rfl

theorem recordBounce_last (h : List Nat) (t : Nat) : (recordBounce h t).getLast? = some t := by
  unfold recordBounce
  exact List.getLast?_concat

/-- R77, R106, R107, R108: the poles after one is judged dewired. -/
theorem State.dewire_pole (s : State) (p q : Pole) : (s.dewire p).pole q =
    if p = q then (s.pole p).dewired.enter .retrieving
    else if (s.pole q).state.up then (s.pole q).enter .lowering else s.pole q := by
  have key : ∀ u : State, u.pwu = (s.setPole p (s.pole p).dewired).pwu →
      ((u.enterPole p .retrieving).lowerIf PoleState.up (otherPole p)).pole q =
      if p = q then (s.pole p).dewired.enter .retrieving
      else if (s.pole q).state.up then (s.pole q).enter .lowering else s.pole q := by
    intro u hu
    have hpole : ∀ r, (u.enterPole p .retrieving).pole r =
        if p = r then (s.pole p).dewired.enter .retrieving else s.pole r := fun r => by
      rw [State.pole_enterPole, State.pole_congr hu]
      split <;> rfl
    generalize u.enterPole p .retrieving = v at hpole
    unfold State.lowerIf
    rw [hpole (otherPole p), if_neg (ne_otherPole p)]
    have hq : p = q ∨ q = otherPole p := by cases p <;> cases q <;> decide
    obtain rfl | rfl := hq
    · rw [if_pos rfl]
      have hp := (hpole p).trans (if_pos rfl)
      split
      · rw [State.pole_enterPole, if_neg (ne_otherPole p).symm]
        exact hp
      · exact hp
    · rw [if_neg (ne_otherPole p)]
      have ho := (hpole (otherPole p)).trans (if_neg (ne_otherPole p))
      split
      · rw [State.pole_enterPole, if_pos rfl, ho]
      · exact ho
  unfold State.dewire
  dsimp only
  have hlast : ∀ v : State, (if v.pwu.operation = .lowerDrain then
      v.withPwu { v.pwu with operation := .lowerDescent, drainTimer := 0 } else v).pole q = v.pole q := fun v => by
    split
    · cases q <;> rfl
    · rfl
  rw [hlast]
  exact key _ (State.raiseDrop_pwu _ p)

theorem State.lowerIf_au (f : PoleState → Bool) (s : State) (p : Pole) : (s.lowerIf f p).au = s.au := by
  unfold State.lowerIf
  split <;> rfl

theorem State.dewire_inForce (p : Pole) (h : s.osm.op.alarmsTaken = true) : (s.dewire p).inForce .poleDrop (poleCode p) = true := by
  have hau : (s.dewire p).au = ((s.setPole p (s.pole p).dewired).raiseDrop p).au := by
    unfold State.dewire
    dsimp only
    have hlast : ∀ v : State, (if v.pwu.operation = .lowerDrain then
        v.withPwu { v.pwu with operation := .lowerDescent, drainTimer := 0 } else v).au = v.au := fun v => by
      split <;> rfl
    rw [hlast, State.lowerIf_au]
    rfl
  unfold State.inForce
  rw [hau]
  exact State.raiseDrop_inForce _ p h

/-- The cause of a pole's SUSPECT cut. -/
def suspectCause : Pole → CutCause
  | .pos => .suspectPos
  | .neg => .suspectNeg

/-- The cause of a pole's DEWIRE cut. -/
def dewireCause : Pole → CutCause
  | .pos => .dewirePos
  | .neg => .dewireNeg

variable {u t : State} {w : Option Pole}

/-- R103: a pole's SUSPECT cut stands with its state. -/
theorem Finished.suspect (f : Finished w u t) (p : Pole) : t.holdsCut (suspectCause p) = ((u.pole p).state == .suspect) := by
  cases p
  · exact f.suspectPos
  · exact f.suspectNeg

theorem Finished.dewired {p : Pole} (f : Finished (some p) u t) : t.holdsCut (dewireCause p) = true := by
  cases p
  · exact f.dewirePos
  · exact f.dewireNeg

/-- R76, R105: the whole of a step that returns a pole from SUSPECT. -/
theorem State.react_returnPole (p : Pole) (hr : s.polesRun = true) :
    ((State.react noCue s ((s.returnPole p).finishPoles none)).pole p).state =
      (if s.pwu.operation = .lowerDescent then .lowering else .onWire) ∧
    ((State.react noCue s ((s.returnPole p).finishPoles none)).pole p).count = (s.pole p).count ∧
    ((State.react noCue s ((s.returnPole p).finishPoles none)).pole p).bounces.getLast? = some s.osm.uptime ∧
    ((State.react noCue s ((s.returnPole p).finishPoles none)).pole (otherPole p)).state = (s.pole (otherPole p)).state ∧
    (State.react noCue s ((s.returnPole p).finishPoles none)).holdsCut (suspectCause p) = false := by
  have f := Finished.react noCue s (s.returnPole p) none ((Watched.returnPole s p).polesRun.trans hr)
  obtain ⟨x, hx⟩ := f.pole p
  rw [f.suspect, f.state (otherPole p), hx, State.returnPole_pole s p (otherPole p), if_neg (ne_otherPole p),
    State.returnPole_pole s p p, if_pos rfl]
  split
  · exact ⟨rfl, rfl, recordBounce_last _ _, rfl, rfl⟩
  · exact ⟨rfl, rfl, recordBounce_last _ _, rfl, rfl⟩

/-- R106 to R108: the whole of a step that judges a pole dewired. -/
theorem State.react_dewire (p : Pole) (hr : s.polesRun = true) :
    ((State.react noCue s ((s.dewire p).finishPoles (some p))).pole p).state = .retrieving ∧
    ((State.react noCue s ((s.dewire p).finishPoles (some p))).pole p).count = min 15 ((s.pole p).count + 1) ∧
    ((State.react noCue s ((s.dewire p).finishPoles (some p))).pole p).forgive = 0 ∧
    (State.react noCue s ((s.dewire p).finishPoles (some p))).inForce .poleDrop (poleCode p) = true ∧
    ((State.react noCue s ((s.dewire p).finishPoles (some p))).pole (otherPole p)).state =
      (if (s.pole (otherPole p)).state.up then .lowering else (s.pole (otherPole p)).state) ∧
    (State.react noCue s ((s.dewire p).finishPoles (some p))).holdsCut (dewireCause p) = true ∧
    (State.react noCue s ((s.dewire p).finishPoles (some p))).holdsCut (suspectCause p) = false := by
  have f := Finished.react noCue s (s.dewire p) (some p) ((Watched.dewire s p).polesRun.trans hr)
  have hdrop : (State.react noCue s ((s.dewire p).finishPoles (some p))).inForce .poleDrop (poleCode p) = true := by
    rw [State.react_finishPoles_inForce, State.dewire_inForce p (OpState.serves_taken (State.polesRun_role hr).2)]
    refine State.poleCondition_up (.inr rfl) ?_
    rw [State.dewire_pole, if_pos rfl]
    rfl
  obtain ⟨x, hx⟩ := f.pole p
  rw [hdrop, f.dewired, f.suspect, f.state (otherPole p), hx, State.dewire_pole s p (otherPole p),
    if_neg (ne_otherPole p), State.dewire_pole s p p, if_pos rfl]
  refine ⟨rfl, rfl, rfl, rfl, ?_, rfl, rfl⟩
  split <;> rfl

end

/-- Settles O52: a SUSPECT window ends with the pole's return or with its dewirement. -/
theorem suspectWindowEnds : Obligations.SuspectWindowEnds := by
  refine fun p s hr hs hd => ⟨_, rfl, ?_⟩
  rw [State.poleTimer_due _ _ hr (by simp [hs, hd])]
  unfold State.expireWindow
  by_cases hw : s.inWindowOf p = true
  · obtain ⟨hstate, hcount, hbounce, hother, hcut⟩ := State.react_returnPole p hr
    rw [if_pos hw, if_pos hw, if_pos hw]
    refine ⟨⟨hstate, hcount, hbounce, hother⟩, ?_⟩
    cases p <;> exact hcut
  · obtain ⟨hstate, hcount, hforgive, hdrop, hother, hheld, hcut⟩ := State.react_dewire p hr
    rw [if_neg hw, if_neg hw, if_neg hw]
    refine ⟨⟨hstate, hcount, hforgive, hdrop, hother, ?_⟩, ?_⟩
    · cases p <;> exact hheld
    · cases p <;> exact hcut

end Sys2Proof.Machine

/-! The pole commands: RAISE_POLES, LOWER_POLES and CLEAR_LOCKOUT judged by the pole station (R69, R74, R83, R84, R189). -/

namespace Sys2Proof.Machine

section
variable {s u x y : State} {w : Option Pole}

/-- What a step of the pole watch unit ends with is read of the unit and the cut set alone. -/
theorem Finished.congr (f : Finished w u x) (hp : y.pwu = x.pwu) (hc : y.cc.cuts = x.cc.cuts) : Finished w u y := by
  have hcut := fun c => State.holdsCut_congr hc c
  have hpole : ∀ p, y.pole p = x.pole p := fun p => by unfold State.pole; rw [hp]
  constructor
  · exact fun p => by rw [hpole]; exact f.pole p
  · rw [hp]; exact f.operation
  · rw [hp]; exact f.raiseTimer
  · rw [hp]; exact f.drainTimer
  · rw [hp]; exact f.line
  · rw [hp]; exact f.gapTimer
  · rw [hp]; exact f.loadPending
  · rw [hp]; exact f.source
  · rw [hp]; exact f.sourceSame
  · rw [hcut]; exact f.suspectPos
  · rw [hcut]; exact f.suspectNeg
  · rw [hcut]; exact f.dewirePos
  · rw [hcut]; exact f.dewireNeg
  · rw [hcut, hp]; exact f.sectionCut
  · rw [hcut, hp]; exact f.lowering
  · rw [hcut, hp]; exact f.sourceChange
  · rw [hcut]; exact f.driver

/-- What the reaction carries on of the unit, of a step that the pole station has taken. -/
theorem Finished.reacted (f : Finished w u x) (cue : Cue) (s0 : State) (hr : x.osm.role = .pole) :
    Finished w u (State.react cue s0 x) := by
  have c := Carried.react cue s0 x
  have hcut := State.holdsCut_congr (Reacted.react cue s0 x (State.driverSettled_pole hr)).cuts
  obtain ⟨-, -, hop, hraise, hdrain, hline, hgap, hsource, htimer, hload⟩ := c.poles
  have hpole := c.pole
  generalize State.react cue s0 x = t at hop hraise hdrain hline hgap hsource htimer hload hpole hcut
  constructor
  · exact fun p => by rw [hpole]; exact f.pole p
  · rw [hop]; exact f.operation
  · rw [hraise]; exact f.raiseTimer
  · rw [hdrain]; exact f.drainTimer
  · rw [hline]; exact f.line
  · rw [hgap]; exact f.gapTimer
  · rw [hload]; exact f.loadPending
  · rw [hsource, htimer]; exact f.source
  · rw [hsource]; exact f.sourceSame
  · rw [hcut]; exact f.suspectPos
  · rw [hcut]; exact f.suspectNeg
  · rw [hcut]; exact f.dewirePos
  · rw [hcut]; exact f.dewireNeg
  · rw [hcut, hline]; exact f.sectionCut
  · rw [hcut, hop]; exact f.lowering
  · rw [hcut, htimer]; exact f.sourceChange
  · rw [hcut]; exact f.driver

/-- A pole command whose step the pole watch unit has taken, its result stored (R188). -/
theorem Finished.stored (n : Nat) (r : Result) (hr : u.polesRun = true) :
    Finished none u (State.react noCue s ((u.finishPoles none).storeResult n r)) := by
  have f := Finished.finishPoles none u hr
  have hrole : (u.finishPoles none).osm.role = .pole := by
    rw [(Watched.finishPoles u none).osm]
    exact (State.polesRun_role hr).1
  generalize u.finishPoles none = x at f hrole ⊢
  exact (f.congr (y := x.storeResult n r) rfl rfl).reacted noCue s hrole

theorem State.react_result (n : Nat) (r : Result) : (State.react noCue s (u.storeResult n r)).bus.lastResult = some (n, r.code) :=
  (Carried.react noCue s _).lastResult

/-- A pole command that moves no pole. -/
theorem State.react_result_stays (n : Nat) (r : Result) :
    (State.react noCue s (s.storeResult n r)).bus.lastResult = some (n, r.code) ∧
    (State.react noCue s (s.storeResult n r)).pwu.pos = s.pwu.pos ∧
    (State.react noCue s (s.storeResult n r)).pwu.neg = s.pwu.neg := by
  obtain ⟨hpos, hneg, -⟩ := (Carried.react noCue s (s.storeResult n r)).poles
  exact ⟨State.react_result n r, hpos, hneg⟩

theorem OpState.judges_of_receives {o : OpState} (h : o.receives = true) : o.judges = true := by
  cases o with
  | loading => cases h
  | maintenance => cases h
  | dormant => cases h
  | _ => rfl

/-- R84, R189: a pole command as the pole station in ACTIVE judges it. -/
theorem State.judge_active {kind : CommandKind} {judge : State → State × Result} (k : Byte) (hr : s.osm.role = .pole)
    (ho : s.osm.op = .active) (hk : s.takeCommand k.toNat kind = s.poleCommand k.toNat judge) :
    s.judge k kind = State.react noCue s ((judge s).1.storeResult k.toNat (judge s).2) := by
  have hpole : s.poleCommand k.toNat judge = (judge s).1.storeResult k.toNat (judge s).2 := if_pos ⟨hr, ho⟩
  rw [← hpole, ← hk]
  exact if_pos (by rw [ho]; rfl)

/-- R84, R189: a pole command judged elsewhere. -/
theorem State.judge_elsewhere {kind : CommandKind} {judge : State → State × Result} (k : Byte)
    (h : s.osm.op.receives = true) (he : s.osm.role ≠ .pole ∨ s.osm.op ≠ .active)
    (hk : s.takeCommand k.toNat kind = s.poleCommand k.toNat judge) :
    (s.judge k kind).bus.lastResult = some (k.toNat, 1) ∧ (s.judge k kind).pwu.pos = s.pwu.pos ∧
      (s.judge k kind).pwu.neg = s.pwu.neg := by
  have hpole : s.poleCommand k.toNat judge = s.storeResult k.toNat .refusedState :=
    if_neg fun ⟨hr, ho⟩ => he.elim (fun k => k hr) (fun k => k ho)
  have hjudge : s.judge k kind = State.react noCue s (s.storeResult k.toNat .refusedState) := by
    rw [← hpole, ← hk]
    exact if_pos (OpState.judges_of_receives h)
  rw [hjudge]
  exact State.react_result_stays _ _

theorem State.polesRun_active (hr : s.osm.role = .pole) (ho : s.osm.op = .active) : s.polesRun = true := by
  unfold State.polesRun
  rw [hr, ho]
  rfl

/-- R70: a pole as a raise begins. -/
theorem State.beginRaise_pole (s : State) (p : Pole) : s.beginRaise.pole p = (s.pole p).enter .raising := by
  cases p <;> rfl

/-- R70: the whole of a step that begins a raise. -/
theorem State.react_beginRaise (n : Nat) (hr : s.polesRun = true) :
    (State.react noCue s ((s.beginRaise.finishPoles none).storeResult n .done)).pwu.pos.state = .raising ∧
    (State.react noCue s ((s.beginRaise.finishPoles none).storeResult n .done)).pwu.neg.state = .raising ∧
    (State.react noCue s ((s.beginRaise.finishPoles none).storeResult n .done)).pwu.pos.timer = 0 ∧
    (State.react noCue s ((s.beginRaise.finishPoles none).storeResult n .done)).pwu.neg.timer = 0 ∧
    (State.react noCue s ((s.beginRaise.finishPoles none).storeResult n .done)).pwu.operation = .raise ∧
    (State.react noCue s ((s.beginRaise.finishPoles none).storeResult n .done)).pwu.raiseTimer = 0 ∧
    (State.react noCue s ((s.beginRaise.finishPoles none).storeResult n .done)).pwu.line = .isOpen := by
  have f : Finished none s.beginRaise (State.react noCue s ((s.beginRaise.finishPoles none).storeResult n .done)) :=
    Finished.stored n .done ((Watched.beginRaise s).polesRun.trans hr)
  generalize State.react noCue s ((s.beginRaise.finishPoles none).storeResult n .done) = t at f
  obtain ⟨a, ha⟩ := f.pole .pos
  obtain ⟨b, hb⟩ := f.pole .neg
  rw [State.beginRaise_pole] at ha hb
  have ha : t.pwu.pos = { (s.pole .pos).enter .raising with suspectCut := a } := ha
  have hb : t.pwu.neg = { (s.pole .neg).enter .raising with suspectCut := b } := hb
  rw [ha, hb]
  exact ⟨rfl, rfl, rfl, rfl, f.operation, f.raiseTimer, f.line⟩

end

/-- Settles O39: Table 4-4 at the pole station in ACTIVE, and the refusal elsewhere. -/
theorem raiseIsJudged : Obligations.RaiseIsJudged := by
  refine fun k s => ⟨fun hr ho => ⟨_, rfl, ?_⟩, fun h he => ⟨_, rfl, State.judge_elsewhere k h he rfl⟩⟩
  rw [State.judge_active k hr ho rfl]
  have hlowers : s.pwu.operation.lowers = true ↔ s.pwu.operation = .lowerDrain ∨ s.pwu.operation = .lowerDescent := by
    cases s.pwu.operation <;> decide
  have hguard : (s.pwu.pos.state.moving || s.pwu.neg.state.moving || s.pwu.operation.lowers) = true ↔
      s.pwu.pos.state.moving = true ∨ s.pwu.neg.state.moving = true ∨ s.pwu.operation = .lowerDrain ∨
        s.pwu.operation = .lowerDescent := by
    rw [Bool.or_eq_true, Bool.or_eq_true, hlowers, or_assoc]
  unfold State.judgeRaise
  dsimp only
  simp only [hguard, Bool.and_eq_true]
  split
  · exact State.react_result_stays _ _
  · split
    · exact State.react_result_stays _ _
    · split
      · exact State.react_result_stays _ _
      · split
        · exact ⟨State.react_result _ _, State.react_beginRaise _ (State.polesRun_active hr ho)⟩
        · exact State.react_result_stays _ _

section
variable {s : State}

theorem State.endRaise_pole (s : State) (p : Pole) : s.endRaise.pole p = s.pole p := by cases p <;> rfl

/-- R74: the whole of a step in which a lowering ends a raise. -/
theorem State.react_lowerRaise (n : Nat) (hr : s.polesRun = true) :
    (State.react noCue s ((((bothPoles.foldl (State.lowerIf PoleState.rising) s).endRaise).finishPoles none).storeResult n
      .done)).pwu.operation = .none ∧ ∀ p,
    ((State.react noCue s ((((bothPoles.foldl (State.lowerIf PoleState.rising) s).endRaise).finishPoles none).storeResult n
      .done)).pole p).state =
        if (s.pole p).state = .raising ∨ (s.pole p).state = .seeking then .lowering else (s.pole p).state := by
  have hw : Watched s (bothPoles.foldl (State.lowerIf PoleState.rising) s).endRaise :=
    (Watched.foldl (Watched.lowerIf PoleState.rising) _ s).trans (Watched.withPwu _ _)
  have f := Finished.stored (s := s) n .done (hw.polesRun.trans hr)
  refine ⟨f.operation.trans (ite_self _), fun p => ?_⟩
  rw [f.state, State.endRaise_pole, State.pole_lowerAll]
  have hrising : (s.pole p).state.rising = true ↔ (s.pole p).state = .raising ∨ (s.pole p).state = .seeking := by
    cases (s.pole p).state <;> decide
  simp only [hrising]
  split <;> rfl

/-- R75: the poles and the operation as a lowering begins with the poles up. -/
theorem State.beginLowering_eq (s : State) : s.beginLowering = if s.drainComplete then
    (s.withPwu { s.pwu with operation := .lowerDrain, drainTimer := 0 }).endDrain
    else s.withPwu { s.pwu with operation := .lowerDrain, drainTimer := 0 } := by
  have hsame : (s.withPwu { s.pwu with operation := .lowerDrain, drainTimer := 0 }).drainComplete = s.drainComplete := rfl
  unfold State.beginLowering State.checkDrain
  rw [hsame]
  by_cases h : s.drainComplete = true
  · rw [if_pos h]
    exact if_pos ⟨rfl, h⟩
  · rw [if_neg h]
    exact if_neg fun k => h k.2

theorem State.beginLowering_pole (p : Pole) : (s.beginLowering.pole p).state =
    if s.drainComplete = true ∧ (s.pole p).state = .onWire then .lowering else (s.pole p).state := by
  have hsame : (s.withPwu { s.pwu with operation := .lowerDrain, drainTimer := 0 }).pole p = s.pole p := by cases p <;> rfl
  rw [State.beginLowering_eq]
  by_cases h : s.drainComplete = true
  · simp only [h, if_true, true_and]
    rw [State.endDrain_pole, hsame]
  · rw [if_neg h, if_neg fun k => h k.1, hsame]

theorem State.beginLowering_operation (s : State) :
    s.beginLowering.pwu.operation = if s.drainComplete then .lowerDescent else .lowerDrain := by
  rw [State.beginLowering_eq]
  split
  · rw [State.endDrain_unit]
  · rfl

theorem PoleState.up_not_down {st : PoleState} (h : st.up = true) : st.down = false := by
  obtain rfl | rfl := (PoleState.up_iff st).mp h <;> rfl

/-- R75: the whole of a step that begins a lowering with the poles up. -/
theorem State.react_beginLowering (n : Nat) (hr : s.polesRun = true) (hup : s.pwu.pos.state.up = true) :
    (State.react noCue s ((s.beginLowering.finishPoles none).storeResult n .done)).holdsCut .lowering = true ∧
    (State.react noCue s ((s.beginLowering.finishPoles none).storeResult n .done)).pwu.operation =
      (if s.drainComplete then .lowerDescent else .lowerDrain) ∧
    ∀ p, ((State.react noCue s ((s.beginLowering.finishPoles none).storeResult n .done)).pole p).state =
      if s.drainComplete = true ∧ (s.pole p).state = .onWire then .lowering else (s.pole p).state := by
  have f : Finished none s.beginLowering (State.react noCue s ((s.beginLowering.finishPoles none).storeResult n .done)) :=
    Finished.stored n .done ((Watched.beginLowering s).polesRun.trans hr)
  have hdown : s.beginLowering.bothDown = false := by
    refine State.bothDown_of (p := .pos) ?_
    rw [State.beginLowering_pole]
    split
    · rfl
    · exact PoleState.up_not_down hup
  have hop : _ = _ := f.operation
  rw [hdown, State.beginLowering_operation] at hop
  refine ⟨?_, hop, fun p => (f.state p).trans (State.beginLowering_pole p)⟩
  rw [f.lowering, hop]
  cases s.drainComplete <;> rfl

end

/-- Settles O40: Table 4-5 at the pole station in ACTIVE, and the refusal elsewhere. -/
theorem lowerIsJudged : Obligations.LowerIsJudged := by
  refine fun k s => ⟨fun hr ho => ⟨_, rfl, ?_⟩, fun h he => ⟨_, rfl, State.judge_elsewhere k h he rfl⟩⟩
  rw [State.judge_active k hr ho rfl]
  have hrun := State.polesRun_active hr ho
  have hgoes : ∀ st : PoleState, (st == .dewired || st.falling) = true ↔
      st ∈ [PoleState.dewired, PoleState.retrieving, PoleState.lowering] := by
    intro st; cases st <;> decide
  have hlowers : s.pwu.operation.lowers = true ↔ s.pwu.operation = .lowerDrain ∨ s.pwu.operation = .lowerDescent := by
    cases s.pwu.operation <;> decide
  unfold State.judgeLower
  dsimp only
  simp only [hlowers, Bool.or_eq_true (_ || _), hgoes, Bool.and_eq_true]
  by_cases h1 : s.pwu.operation = .lowerDrain ∨ s.pwu.operation = .lowerDescent
  · rw [if_pos h1, if_pos (h1.elim .inl fun h => .inr (.inl h))]
    exact State.react_result_stays _ _
  rw [if_neg h1]
  by_cases h2 : s.pwu.pos.state ∈ [PoleState.dewired, .retrieving, .lowering] ∨
      s.pwu.neg.state ∈ [PoleState.dewired, .retrieving, .lowering]
  · rw [if_pos h2, if_pos (.inr (.inr h2))]
    exact State.react_result_stays _ _
  have h3 : ¬ (s.pwu.operation = .lowerDrain ∨ s.pwu.operation = .lowerDescent ∨
      s.pwu.pos.state ∈ [PoleState.dewired, .retrieving, .lowering] ∨
      s.pwu.neg.state ∈ [PoleState.dewired, .retrieving, .lowering]) := by
    rw [← or_assoc]
    exact not_or.mpr ⟨h1, h2⟩
  rw [if_neg h2, if_neg h3]
  split
  · exact ⟨State.react_result _ _, State.react_lowerRaise _ hrun⟩
  · split
    · next hup => exact ⟨State.react_result _ _, State.react_beginLowering _ hrun hup.1⟩
    · exact State.react_result_stays _ _

section
variable {s : State}

/-- R83: a pole's record as a CLEAR_LOCKOUT that names it is taken. -/
def PoleRecord.freed (r : PoleRecord) : PoleRecord :=
  if r.state = .lockedOut then { r.enter .stowed with count := 0 } else r

theorem State.freePole_pole (s : State) (p q : Pole) :
    (s.freePole p).pole q = if p = q then (s.pole q).freed else s.pole q := by
  unfold State.freePole PoleRecord.freed
  by_cases h : (s.pole p).state = .lockedOut
  · rw [if_pos h]
    have hc : ∀ t : State, (t.clearCond .poleLocked (poleCode p)).pole q = t.pole q := fun t => by
      unfold State.pole
      rw [State.clearCond_pwu]
    rw [hc, State.pole_setPole]
    split
    · next e => subst e; rw [if_pos h]
    · rfl
  · rw [if_neg h]
    split
    · next e => subst e; rw [if_neg h]
    · rfl

theorem PoleRecord.freed_freed (r : PoleRecord) : r.freed.freed = r.freed := by
  unfold PoleRecord.freed
  split
  · exact if_neg fun h => PoleState.noConfusion h
  · rfl

/-- R83: the poles after those named are freed. -/
theorem State.freeAll_pole (l : List Pole) (q : Pole) :
    (l.foldl State.freePole s).pole q = if q ∈ l then (s.pole q).freed else s.pole q := by
  induction l generalizing s with
  | nil => rfl
  | cons p l ih =>
    rw [List.foldl_cons, ih, State.freePole_pole]
    by_cases h : p = q
    · subst h
      rw [if_pos rfl, if_pos List.mem_cons_self, PoleRecord.freed_freed, ite_self]
    · have hm : q ∈ p :: l ↔ q ∈ l := by simp [Ne.symm h]
      simp only [if_neg h, hm]

theorem Watched.freeAll (l : List Pole) (s : State) : Watched s (l.foldl State.freePole s) := Watched.foldl Watched.freePole l s

/-- Table 10-4: the poles a CLEAR_LOCKOUT names. -/
theorem polesNamed_eq (a : Nat) : (3 ≤ a ∧ polesNamed a = none) ∨
    a < 3 ∧ ∃ l, polesNamed a = some l ∧ (.pos ∈ l ↔ a ≠ 1) ∧ (.neg ∈ l ↔ a ≠ 0) := by
  obtain rfl | rfl | rfl | h : a = 0 ∨ a = 1 ∨ a = 2 ∨ 3 ≤ a := by omega
  · exact .inr ⟨by decide, _, rfl, by decide, by decide⟩
  · exact .inr ⟨by decide, _, rfl, by decide, by decide⟩
  · exact .inr ⟨by decide, _, rfl, by decide, by decide⟩
  · refine .inl ⟨h, ?_⟩
    obtain ⟨m, rfl⟩ := Nat.exists_eq_add_of_le' h
    rfl

/-- R83: the whole of a step that frees the poles named. -/
theorem State.react_free (n : Nat) (l : List Pole) (hr : s.polesRun = true) (p : Pole) {named : Prop}
    [Decidable named] (hn : p ∈ l ↔ named) :
    if (s.pole p).state = .lockedOut ∧ named then
      ((State.react noCue s (((l.foldl State.freePole s).finishPoles none).storeResult n .done)).pole p).state = .stowed ∧
      ((State.react noCue s (((l.foldl State.freePole s).finishPoles none).storeResult n .done)).pole p).count = 0 ∧
      ((State.react noCue s (((l.foldl State.freePole s).finishPoles none).storeResult n .done)).pole p).forgive = 0
    else
      ((State.react noCue s (((l.foldl State.freePole s).finishPoles none).storeResult n .done)).pole p).state =
        (s.pole p).state ∧
      ((State.react noCue s (((l.foldl State.freePole s).finishPoles none).storeResult n .done)).pole p).count =
        (s.pole p).count := by
  have f := Finished.stored (s := s) n .done ((Watched.freeAll l s).polesRun.trans hr)
  obtain ⟨x, hx⟩ := f.pole p
  rw [hx, State.freeAll_pole]
  unfold PoleRecord.freed
  by_cases hm : p ∈ l
  · by_cases hs : (s.pole p).state = .lockedOut
    · rw [if_pos ⟨hs, hn.mp hm⟩, if_pos hm, if_pos hs]
      exact ⟨rfl, rfl, rfl⟩
    · rw [if_neg fun h => hs h.1, if_pos hm, if_neg hs]
      exact ⟨rfl, rfl⟩
  · rw [if_neg fun h => hm (hn.mpr h.2), if_neg hm]
    exact ⟨rfl, rfl⟩

end

/-- Settles O41: the argument, the standstill and the poles named, at the pole station in ACTIVE; the refusal elsewhere. -/
theorem lockoutIsCleared : Obligations.LockoutIsCleared := by
  refine fun k a s => ⟨fun hr ho => ⟨_, rfl, ?_⟩, fun h he =>
    ⟨_, rfl, State.judge_elsewhere (judge := fun t => t.judgeClear a.toNat) k h he rfl⟩⟩
  rw [State.judge_active (judge := fun t => t.judgeClear a.toNat) k hr ho rfl]
  have hrun := State.polesRun_active hr ho
  unfold State.judgeClear
  obtain ⟨ha, hnone⟩ | ⟨ha, l, hl, hpos, hneg⟩ := polesNamed_eq a.toNat
  · rw [hnone, if_pos ha]
    exact State.react_result_stays _ _
  · rw [hl, if_neg (by omega)]
    dsimp only
    by_cases hs : s.standstill = true
    · rw [if_pos hs, if_neg (by rw [hs]; decide)]
      exact ⟨State.react_result _ _, State.react_free k.toNat l hrun .pos hpos, State.react_free k.toNat l hrun .neg hneg⟩
    · rw [if_neg hs, if_pos (Bool.eq_false_iff.mpr hs)]
      exact State.react_result_stays _ _

end Sys2Proof.Machine

/-! Frames heard: cuts and releases entered (R119, R120, R124), a duplicate of the own number (R186), a command taken (R188);
and the phase and the own entry after the reaction (R6, R127). -/

namespace Sys2Proof.Machine

section
variable {s t u : State}

/-- R127: the phase after one pass over the blocks that finds it RESTORING, by the shed list that the pass ends with. -/
theorem State.passFrom_phase (cue : Cue) (os : List Inhibits) (s0 : State) (h : s.cc.phase = .restoring) :
    (State.passFrom cue os s0 s).cc.phase =
      if s.cc.restSet.any (fun p => (State.passFrom cue os s0 s).onList p.channel) then .restoring else .none := by
  have hold := (Passed.tail cue os s0 s)
  have hset := (Kept.evaluate os s).settings
  have hbefore := ((s.evaluate_same os).trans (LoadOnly.refreshRequests _)).same
  unfold State.passFrom
  generalize (s.evaluate os).refreshRequests = x at hbefore
  have hx := (LoadOnly.admissions cue os s0 (x.clampRegen os)).same
  generalize State.admissions cue os s0 (x.clampRegen os) = y at hx
  obtain ⟨-, -, hphase, -, hrest, -⟩ := hbefore
  obtain ⟨-, -, yphase, -, yrest, -⟩ := hx
  have hcc : (if s.osm.op.evaluates = true then s.withIa s.evaluated else s).cc = s.cc := by split <;> rfl
  rw [hcc] at hphase hrest
  have yphase : y.cc.phase = .restoring := yphase.trans (hphase.trans h)
  have yrest : y.cc.restSet = s.cc.restSet := yrest.trans hrest
  have hlist : ∀ c, (y.settleRestoring.rebuildClaims.settleShare cue).onList c = y.onList c := fun c => by
    have hrec : (y.settleRestoring.rebuildClaims.settleShare cue).record c = y.record c := by
      rw [(Loads.settleShare y.settleRestoring.rebuildClaims cue).recordOf]
      unfold State.settleRestoring
      split <;> rfl
    unfold State.onList
    rw [hrec, (State.afterAdmission_state cue y c).1]
  simp only [hlist]
  rw [(LoadOnly.settleShare cue y.settleRestoring.rebuildClaims).same.2.2.1]
  show y.settleRestoring.cc.phase = _
  unfold State.settleRestoring
  rw [yrest]
  by_cases ha : (s.cc.restSet.any fun p => y.onList p.channel) = true
  · rw [if_pos ha, if_neg (by simp [ha]), yphase]
  · rw [if_neg ha, if_pos ⟨yphase, by simpa using ha⟩]
    rfl

/-- R127: the phase after the reaction to a step that has left the cut controller as it was. -/
theorem State.react_phaseStays (cue : Cue) (s0 : State) (h : u.DriverSettled) : u.phaseStays (State.react cue s0 u) := by
  refine ⟨fun hp => ?_, fun hp ho => ?_⟩
  · obtain ⟨h1, -⟩ | ⟨h1, -⟩ := (Reacted.react cue s0 u h).phase
    · exact h1
    · exact absurd h1 hp
  · have hc := Closed.react_same cue s0 u ho
    have hlist : ∀ c, (State.react cue s0 u).onList c = (State.settleBlocks cue s0 u).onList c := fun c => by
      unfold State.onList State.record State.chan
      rw [hc.lcm, (Carried.react cue s0 u).settings, (Kept.settleBlocks cue s0 u).settings]
    simp only [hlist, hc.cc]
    rw [State.settleBlocks_eq, u.driverCut_settled h]
    obtain ⟨hcc, -⟩ := u.forceZero_spec
    rw [← hcc] at hp ⊢
    exact State.passFrom_phase cue _ s0 hp

/-- An entry of the table agrees with one that differs from it in the effective period alone. -/
theorem Entry.agrees_of_carried {a b : Entry} (h : a.carried = b.carried) : a.agrees b := by
  unfold Entry.carried at h
  simp only [Entry.mk.injEq] at h
  exact ⟨h.1, h.2.1, h.2.2.2.1, h.2.2.2.2.1, h.2.2.2.2.2⟩

theorem State.reperiodAll_entry (s : State) (m : Nat) : (s.reperiodAll.entry m).carried = (s.entry m).carried := by
  have h : ∀ (l : List Nat) (t : State),
      ((l.foldl (fun t n => t.setEntry n (t.reperiod n)) t).entry m).carried = (t.entry m).carried := by
    intro l
    induction l with
    | nil => exact fun t => rfl
    | cons n l ih =>
      intro t
      rw [List.foldl_cons, ih, State.entry_setEntry]
      split
      · next hn => rw [hn.1]; exact t.reperiod_carried m
      · rfl
  exact h _ s

theorem State.wake_pvt (s : State) : s.wake.pvt = s.pvt := by
  have htrack : ∀ t : State, t.startTracking.pvt = t.pvt := fun t => by unfold State.startTracking; split <;> rfl
  have hflash : ∀ t : State, t.startFlash.pvt = t.pvt := fun t => by unfold State.startFlash; split <;> rfl
  have hspecial : ∀ t : State, t.readSpecial.pvt = t.pvt := fun t => by unfold State.readSpecial; split <;> rfl
  unfold State.wake
  rw [hspecial, hflash, htrack]
  rfl

/-- A move of the operating state by the key and the draw changes an entry's effective period at most. -/
theorem State.autoMove_entry (s : State) (m : Nat) : (s.autoMove.entry m).carried = (s.entry m).carried := by
  unfold State.autoMove
  split
  · split
    · have h : s.enterParked.pvt = (s.enterOp .parked).restartDue.reperiodAll.pvt :=
        ((LoadOnly.foldl LoadOnly.parkChannel _ _).trans (LoadOnly.resetCounter _)).same.2.2.2.2.2.2.2.2.1
      unfold State.entry
      rw [h]
      exact State.reperiodAll_entry _ m
    · rfl
  · split
    · exact State.reperiodAll_entry _ m
    · rfl
  · split <;> rfl
  · split
    · unfold State.entry
      rw [State.wake_pvt]
    · rfl
  · rfl

theorem State.settleMove_entry (s : State) (m : Nat) : (s.settleMove.entry m).carried = (s.entry m).carried := by
  unfold State.settleMove
  dsimp only
  split
  · rfl
  · have h := (Kept.settleBlocks noCue s s.autoMove).pvt
    rw [← s.autoMove_entry m]
    unfold State.entry
    rw [h]

theorem State.settleEvents_pvt (cue : Cue) (s0 s : State) : (State.settleEvents cue s0 s).pvt = s.pvt := by
  have hstart : ∀ t : State, t.startWaiting.pvt = t.pvt := fun t => by unfold State.startWaiting; split <;> rfl
  unfold State.settleEvents
  rw [hstart]
  split
  · exact hstart _
  · rfl

/-- The table after the reaction to a step that neither composes a beacon nor may have entered LISTENING from LOADING or
DORMANT. -/
theorem State.react_pvt (cue : Cue) (s0 s : State) (hc : cue.compose = false)
    (h0 : s0.osm.op ≠ .loading ∧ s0.osm.op ≠ .dormant) : ∃ y : State, y.pvt = (State.settleBlocks cue s0 s).settleMove.pvt ∧
      y.osm.role = s.osm.role ∧ y.osm.number = s.osm.number ∧ (State.react cue s0 s).pvt = y.followPoles.pvt ∧
      (State.react cue s0 s).polePart = y.polePart := by
  have hfill : State.fillAtEntry s0 (State.settleBlocks cue s0 s).settleMove = (State.settleBlocks cue s0 s).settleMove :=
    if_neg fun h => h.1.elim h0.1 h0.2
  have hcarried : Carried s (State.settleBlocks cue s0 s).settleMove :=
    (Kept.settleBlocks cue s0 s).carried.trans (Carried.settleMove _)
  unfold State.react State.composeIf
  rw [hfill, hc]
  generalize (State.settleBlocks cue s0 s).settleMove = z at hcarried ⊢
  have hpvt := State.settleEvents_pvt cue s0 z
  have hy := hcarried.trans (Carried.settleEvents cue s0 z)
  simp only [Bool.false_eq_true, if_false]
  generalize State.settleEvents cue s0 z = y at hpvt hy ⊢
  have hclosed := Carried.settleOutputs y
  refine ⟨y, hpvt, hy.role, hy.number, ?_, ?_⟩
  · unfold State.settleOutputs State.settleDormancy
    split <;> rfl
  · obtain ⟨hpos, hneg, -, -, -, hline, -, hsource, -⟩ := hclosed.poles
    unfold State.polePart State.ain
    rw [hpos, hneg, hline, hsource, hclosed.su]

/-- The own entry after such a step: as it was, its part at the pole station the pole watch unit's (R6). -/
theorem State.react_ownEntry (cue : Cue) (s0 s : State) (hc : cue.compose = false)
    (h0 : s0.osm.op ≠ .loading ∧ s0.osm.op ≠ .dormant) (hn : 1 ≤ s.osm.number ∧ s.osm.number ≤ 15) :
    ((State.react cue s0 s).entry s.osm.number).agrees { s.entry s.osm.number with
      beacon := (s.entry s.osm.number).beacon.map (fun b =>
        if s.osm.role = .pole then { b with part := .pole (State.react cue s0 s).polePart } else b) } := by
  obtain ⟨y, hy, hrole, hnumber, ht, hpart⟩ := State.react_pvt cue s0 s hc h0
  have hentry : (y.entry s.osm.number).carried = (s.entry s.osm.number).carried := by
    have h := ((State.settleBlocks cue s0 s).settleMove_entry s.osm.number)
    unfold State.entry at h ⊢
    rw [hy, h, (Kept.settleBlocks cue s0 s).pvt]
  have hreact : (State.react cue s0 s).entry s.osm.number = y.followPoles.entry s.osm.number := by
    unfold State.entry
    rw [ht]
  obtain ⟨h1, h2, h3, h4, h5⟩ := Entry.agrees_of_carried hentry
  rw [hreact, hpart]
  unfold State.followPoles
  dsimp only
  rw [hnumber, hrole]
  cases hb : (y.entry s.osm.number).beacon with
  | none =>
    rw [hb] at h5
    rw [← h5]
    exact ⟨h1, h2, h3, h4, by rw [hb]; rfl⟩
  | some b =>
    rw [hb] at h5
    rw [← h5]
    dsimp only
    by_cases hr : s.osm.role = .pole
    · rw [if_pos ⟨hr, by omega⟩, State.entry_setEntry, if_pos ⟨rfl, hn⟩]
      exact ⟨h1, h2, h3, h4, by simp [hr]⟩
    · rw [if_neg fun h => hr h.1]
      exact ⟨h1, h2, h3, h4, by rw [hb]; simp [hr]⟩

end

end Sys2Proof.Machine

/-! The rows of received frames (R119, R120, R124, R186, R188). -/

namespace Sys2Proof.Machine

section
variable {s t u : State}

/-- R119, R120: a change of the cuts of another station's origin keeps the driver's cut settled. -/
theorem State.putCuts_driver {cuts : List CutEntry} (h : s.DriverSettled)
    (hown : ownCause cuts .driver = ownCause s.cc.cuts .driver) : (s.putCuts cuts).DriverSettled := by
  have k := Kept.putCuts s cuts
  intro hr ho
  rw [k.osm] at hr ho
  unfold State.din
  rw [k.su, State.holdsCut_eq, State.putCuts_cuts, hown, ← State.holdsCut_eq]
  exact h hr ho

/-- R124: what a cut set that is not empty forces, after the whole of a step that has changed it. -/
theorem State.react_putCuts_held (cue : Cue) (s0 : State) {cuts : List CutEntry} (hi : s.cc.cuts ≠ [] ↔ s.cc.phase = .held)
    (hd : (s.putCuts cuts).DriverSettled) (h : cuts ≠ []) :
    (State.react cue s0 (s.putCuts cuts)).ae.draw = 0 ∧ (State.react cue s0 (s.putCuts cuts)).ae.regen = 0 ∧
      (State.react cue s0 (s.putCuts cuts)).cc.phase = .held := by
  have r := Reacted.react cue s0 (s.putCuts cuts) hd
  have hforced : (s.putCuts cuts).forced = true := by
    unfold State.forced
    rw [State.putCuts_cuts]
    cases cuts with
    | nil => exact absurd rfl h
    | cons e l => rfl
  have hheld := State.putCuts_held s cuts hi h
  obtain ⟨hdraw, hregen, -⟩ := r.zero hforced
  obtain ⟨hp, -⟩ | ⟨hp, -⟩ := r.phase
  · exact ⟨hdraw, hregen, hp.trans hheld⟩
  · rw [hheld] at hp
    cases hp

/-- The peer entries after the whole of a step that has changed the cut set alone. -/
theorem State.react_putCuts_entry (cue : Cue) (s0 : State) (cuts : List CutEntry) (m : Nat) (hm : s.isOwn m = false) :
    ((State.react cue s0 (s.putCuts cuts)).entry m).agrees (s.entry m) := by
  have k := Kept.putCuts s cuts
  have h := (Carried.react cue s0 (s.putCuts cuts)).agrees m (by unfold State.isOwn; rw [k.osm]; exact hm)
  rwa [show (s.putCuts cuts).entry m = s.entry m by unfold State.entry; rw [k.pvt]] at h

/-- R123, R119: the set after a cut heard from a peer. -/
theorem enterCut_eq {o : Nat} (cuts : List CutEntry) (hown : ∀ e ∈ cuts, e.origin = o → e.own = false) (c : CutCause) (k : Nat) :
    enterCut cuts o c k = if (⟨o, c, k, false⟩ : CutEntry) ∈ cuts then cuts
      else if ∃ e ∈ cuts, e.origin = o ∧ e.cause = c then
        cuts.filter (fun e => !(e.origin == o && e.cause == c)) ++ [⟨o, c, k, false⟩]
      else if cuts.length < 8 then cuts ++ [⟨o, c, k, false⟩]
      else if ∃ e ∈ cuts, e.own = false then dropOldestPeer cuts ++ [⟨o, c, k, false⟩]
      else cuts := by
  have hsame : (cuts.any fun e => e.isOf o c && e.number == k) = true ↔ (⟨o, c, k, false⟩ : CutEntry) ∈ cuts := by
    simp only [List.any_eq_true, CutEntry.isOf, Bool.and_eq_true, beq_iff_eq]
    constructor
    · rintro ⟨⟨o', c', k', own⟩, he, ⟨⟨rfl, rfl⟩, rfl⟩⟩
      have h := hown _ he rfl
      dsimp only at h
      rwa [h] at he
    · exact fun h => ⟨_, h, ⟨⟨rfl, rfl⟩, rfl⟩⟩
  have hof : (cuts.any fun e => e.isOf o c) = true ↔ ∃ e ∈ cuts, e.origin = o ∧ e.cause = c := by
    simp [List.any_eq_true, CutEntry.isOf]
  have hpeer : (cuts.any fun e => !e.own) = true ↔ ∃ e ∈ cuts, e.own = false := by
    simp [List.any_eq_true]
  unfold enterCut
  simp only [hsame, hof, hpeer]
  rfl

theorem State.CutsOk.peerOwn (h : s.CutsOk) {n : Nat} (hn : n ≠ s.osm.number) : ∀ e ∈ s.cc.cuts, e.origin = n → e.own = false := by
  obtain ⟨-, -, hown, -⟩ := h
  intro e he ho
  rw [hown e he, ho]
  exact beq_eq_false_iff_ne.mpr hn

end

/-- Settles O33: a cut of another origin, of an unknown cause or of an EMPTY entry changes nothing; every other one is
entered (`enterCut_eq`) and forces the draw. -/
theorem cutIsEntered : Obligations.CutIsEntered := by
  refine ⟨fun f n o c k s hr hk hf hn ho hd => ⟨_, rfl, ?_⟩, fun f n c k s hr hk hf hn he hc hd => ⟨_, rfl, ?_⟩⟩
  · rw [State.receive_eq s 1 f _ _ hr (by rw [hk]; rfl) hf]
    have hown : s.isOwn (Received.cut n o c k).station = false := hn
    have htake : s.takeCut n o c k = s := by
      unfold State.takeCut
      cases c with
      | none => rfl
      | some c =>
        refine if_neg fun h => ?_
        obtain ho | ho | ho := ho
        · exact ho h.1
        · cases ho
        · exact h.2 (h.1 ▸ ho)
    rw [hown, if_neg (by decide)]
    dsimp only
    rw [htake]
    exact ⟨(Reacted.react _ s s hd).cuts, State.react_phaseStays _ s hd⟩
  · have hnum := State.ne_number hn (checkFrame_station hf).2
    have hown : s.isOwn (Received.cut n n (some c) k).station = false := hn
    have htake : s.takeCut n n (some c) k = s.putCuts (enterCut s.cc.cuts n c k) := if_pos ⟨rfl, he⟩
    rw [State.receive_eq s 1 f _ _ hr (by rw [hk]; rfl) hf, hown, if_neg (by decide)]
    dsimp only
    rw [htake]
    have hpeer := hc.peerOwn hnum
    obtain ⟨-, -, hcown, hheld, -⟩ := hc
    have hset := State.putCuts_driver hd (enterCut_own s n c k hcown hnum .driver)
    have hcuts := (Reacted.react (s.frameCue (.cut n n (some c) k)) s _ hset).cuts
    rw [State.putCuts_cuts] at hcuts
    refine ⟨?_, fun h => ?_, fun m hm => State.react_putCuts_entry _ s _ m hm⟩
    · rw [hcuts]
      exact enterCut_eq _ hpeer c k
    · rw [hcuts] at h
      exact State.react_putCuts_held _ s hheld hset h

section
variable {s t u : State}

/-- A release heard from a peer leaves the own cuts (R120). -/
theorem removeCut_own {n : Nat} (hpeer : ∀ e ∈ s.cc.cuts, e.origin = n → e.own = false) (c d : CutCause) (k : Nat) :
    ownCause (removeCut s.cc.cuts n c k) d = ownCause s.cc.cuts d := by
  unfold ownCause removeCut
  rw [List.any_filter, Bool.eq_iff_iff]
  simp only [List.any_eq_true, Bool.and_eq_true]
  constructor
  · rintro ⟨e, he, -, h⟩
    exact ⟨e, he, h⟩
  · rintro ⟨e, he, h⟩
    refine ⟨e, he, ?_, h⟩
    rw [Bool.not_eq_true', Bool.eq_false_iff]
    intro hk
    simp only [CutEntry.isOf, Bool.and_eq_true, beq_iff_eq] at hk
    rw [hpeer e he hk.1.1] at h
    cases h.1

theorem State.putCuts_same (s : State) : s.putCuts s.cc.cuts = s := by
  unfold State.putCuts
  dsimp only
  rw [if_neg fun h => h.2 h.1, if_neg fun h => h.1 h.2.1]
  rfl

end

/-- Settles O34: a release of another origin or of an unknown cause changes nothing; every other one removes its entry. -/
theorem releaseRemovesItsCut : Obligations.ReleaseRemovesItsCut := by
  refine ⟨fun f n o c k s hr hk hf hn ho hd => ⟨_, rfl, ?_⟩, fun f n c k s hr hk hf hn hc hd => ⟨_, rfl, ?_⟩⟩
  · rw [State.receive_eq s 2 f _ _ hr (by rw [hk]; rfl) hf]
    have hown : s.isOwn (Received.release n o c k).station = false := hn
    have htake : s.takeRelease n o c k = s := by
      unfold State.takeRelease
      cases c with
      | none => rfl
      | some c => exact if_neg fun h => ho.elim (fun k => k h) nofun
    rw [hown, if_neg (by decide)]
    dsimp only
    rw [htake]
    exact ⟨(Reacted.react _ s s hd).cuts, State.react_phaseStays _ s hd⟩
  · have hnum := State.ne_number hn (checkFrame_station hf).2
    have hown : s.isOwn (Received.release n n (some c) k).station = false := hn
    have htake : s.takeRelease n n (some c) k = s.putCuts (removeCut s.cc.cuts n c k) := if_pos rfl
    rw [State.receive_eq s 2 f _ _ hr (by rw [hk]; rfl) hf, hown, if_neg (by decide)]
    dsimp only
    rw [htake]
    have hset := State.putCuts_driver hd (removeCut_own (hc.peerOwn hnum) c .driver k)
    have hcuts := (Reacted.react (s.frameCue (.release n n (some c) k)) s _ hset).cuts
    rw [State.putCuts_cuts] at hcuts
    refine ⟨hcuts, fun hnone => ?_⟩
    have hsame : removeCut s.cc.cuts n c k = s.cc.cuts := by
      refine List.filter_eq_self.mpr fun e he => ?_
      rw [Bool.not_eq_true', Bool.eq_false_iff]
      intro h
      simp only [CutEntry.isOf, Bool.and_eq_true, beq_iff_eq] at h
      exact hnone e he ⟨h.1.1, h.1.2, h.2⟩
    refine ⟨hcuts.trans hsame, ?_⟩
    rw [hsame, State.putCuts_same]
    exact State.react_phaseStays _ s hd

section
variable {s : State}

theorem OpState.receives_taken {o : OpState} (h : o.receives = true) : o.alarmsTaken = true := by
  cases o with
  | loading => cases h
  | maintenance => cases h
  | dormant => cases h
  | _ => rfl

/-- R186: what the finding of a duplicate changes. -/
theorem State.duplicateFound_only (s : State) : ∃ a,
    s.duplicateFound = (s.withBus { s.bus with duplicate := true }).withAu a ∧
      (s.osm.op.alarmsTaken = true → s.bus.duplicate = false → a.inForce.contains (.duplicateStation, 0) = true) := by
  unfold State.duplicateFound
  cases hb : s.bus.duplicate with
  | true =>
    refine ⟨s.au, ?_, fun _ h => nomatch h⟩
    rw [if_pos rfl, ← hb]
    rfl
  | false =>
    have hon := State.onset_inForce (s.withBus { s.bus with duplicate := true }) .duplicateStation .duplicateStation 0 0
    obtain ⟨a, ha, -⟩ := (s.withBus { s.bus with duplicate := true }).onset_only .duplicateStation 0
    refine ⟨a, (if_neg (by decide)).trans ha, fun ht _ => ?_⟩
    rw [ha] at hon
    refine hon.trans ?_
    show (_ || (s.osm.op.alarmsTaken && _)) = true
    rw [ht]
    simp

/-- R186: the whole of a step that finds the own number on the line. -/
theorem State.react_duplicate (h : s.osm.op.receives = true) (hn : 1 ≤ s.osm.number ∧ s.osm.number ≤ 15) :
    (State.react noCue s s.duplicateFound).bus.duplicate = true ∧
    (s.bus.duplicate = false → (State.react noCue s s.duplicateFound).inForce .duplicateStation 0 = true) ∧
    (∀ m, s.isOwn m = false → ((State.react noCue s s.duplicateFound).entry m).agrees (s.entry m)) ∧
    ((State.react noCue s s.duplicateFound).entry s.osm.number).agrees { s.entry s.osm.number with
      beacon := (s.entry s.osm.number).beacon.map (fun b =>
        if s.osm.role = .pole then { b with part := .pole (State.react noCue s s.duplicateFound).polePart } else b) } ∧
    (State.react noCue s s.duplicateFound).bus.lastResult = s.bus.lastResult ∧
    (s.DriverSettled → (State.react noCue s s.duplicateFound).cc.cuts = s.cc.cuts) := by
  obtain ⟨a, hu, ha⟩ := s.duplicateFound_only
  have hforce := State.react_inForce noCue s s.duplicateFound .duplicateStation 0 rfl
  rw [hu] at hforce ⊢
  have c := Carried.react noCue s ((s.withBus { s.bus with duplicate := true }).withAu a)
  refine ⟨congrArg (fun b => b.1.duplicate) c.bus, fun hb => ?_, fun m hm => c.agrees m hm, ?_, c.lastResult, fun hd => ?_⟩
  · rw [hforce]
    exact ha (OpState.receives_taken h) hb
  · refine State.react_ownEntry noCue s _ rfl ⟨fun k => ?_, fun k => ?_⟩ hn
    · rw [k] at h; cases h
    · rw [k] at h; cases h
  · exact (Reacted.react noCue s ((s.withBus { s.bus with duplicate := true }).withAu a) hd).cuts

theorem State.frameCue_own {r : Received} (h : s.isOwn r.station = true) : s.frameCue r = noCue := by
  cases r with
  | beacon n b => exact if_pos h
  | _ => rfl

/-- R186: a row of a received frame that bears the own number. -/
theorem State.receive_own {kind : Nat} {f : Frame} {r : Received} (act : State → Received → State)
    (h1 : s.osm.op.receives = true) (h2 : f.kind.toNat = kind) (h3 : checkFrame f = some r) (h : s.isOwn r.station = true) :
    s.receive kind f act = State.react noCue s s.duplicateFound := by
  rw [State.receive_eq s kind f r act h1 h2 h3, h, State.frameCue_own h]
  rfl

end

/-- Settles O36: a frame of any kind that bears the own number is handed to the duplicate detection alone. -/
theorem duplicateIsFound : Obligations.DuplicateIsFound := by
  intro f r c s hr hf hown hc
  obtain ⟨hs, hs0⟩ := checkFrame_station hf
  have hnum : s.osm.number = r.station := by
    unfold State.isOwn at hown
    simp only [Bool.and_eq_true, beq_iff_eq] at hown
    exact hown.1.symm
  have hn : 1 ≤ s.osm.number ∧ s.osm.number ≤ 15 := by
    have := f.station.isLt
    omega
  refine ⟨State.react noCue s s.duplicateFound, ?_, State.react_duplicate hr hn⟩
  obtain ⟨hk, rfl⟩ | ⟨hk, rfl⟩ | ⟨hk, rfl⟩ | ⟨hk, rfl⟩ | ⟨hk, rfl⟩ := hc
  · exact congrArg _ (State.receive_own _ hr (by rw [hk]; rfl) hf hown)
  · exact congrArg _ (State.receive_own _ hr (by rw [hk]; rfl) hf hown)
  · exact congrArg _ (State.receive_own _ hr (by rw [hk]; rfl) hf hown)
  · exact congrArg _ (State.receive_own _ hr (by rw [hk]; rfl) hf hown)
  · exact congrArg _ (State.receive_own _ hr (by rw [hk]; rfl) hf hown)

/-- Settles O38: a command taken is its row's step, one not taken leaves the result and the poles. -/
theorem commandIsTaken : Obligations.CommandIsTaken := by
  intro f n o g k kind s hr hk hf hn
  have hrow : exec (.commandReceived f) s =
      .next (State.react noCue s (if s.commandTaken n o g kind then s.takeCommand k.toNat kind else s)) := by
    refine (congrArg Host.Outcome.next (State.receive_eq s 3 f _ _ hr (by rw [hk]; rfl) hf)).trans ?_
    have hown : s.isOwn (Received.command n o g k.toNat kind).station = false := hn
    rw [hown, if_neg (by decide)]
    rfl
  have htaken : s.commandTaken n o g kind = true ↔
      o = n ∧ (s.isOwn g = true ∨ g = 0 ∧ (kind.isPole = true → s.osm.role = .pole)) := by
    unfold State.commandTaken
    cases kind.isPole <;> simp
  refine ⟨fun ho hg => ⟨_, hrow, ?_⟩, fun h => ⟨_, hrow, ?_⟩⟩
  · rw [if_pos (htaken.mpr ⟨ho, hg⟩)]
    have hjudge : s.judge k kind = State.react noCue s (s.takeCommand k.toNat kind) := if_pos (OpState.judges_of_receives hr)
    rw [← hjudge]
    cases kind <;> rfl
  · rw [if_neg]
    · have c := Carried.react noCue s s
      exact ⟨c.lastResult, c.poles.1, c.poles.2.1⟩
    · rw [htaken]
      rintro ⟨ho, hg⟩
      obtain h | ⟨h, h0⟩ | ⟨h0, hp, hrole⟩ := h
      · exact h ho
      · obtain hg | ⟨hg, -⟩ := hg
        · rw [hg] at h; cases h
        · exact h0 hg
      · obtain hg | ⟨-, hg⟩ := hg
        · rw [h0] at hg
          unfold State.isOwn at hg
          simp at hg
        · exact hrole (hg hp)

end Sys2Proof.Machine

/-! The cuts of other stations' origins and the mirrored alarms along the operations that originate own cuts and raise own
alarms: none of them is new (R116, R166). -/

namespace Sys2Proof.Machine

/-- From a state to the next no cut of another origin is entered and no mirrored alarm is created or changed. -/
structure Foreign (s t : State) : Prop where
  number : t.osm.number = s.osm.number
  alarms : ∀ e ∈ t.au.entries, e.source ≠ s.osm.number → e ∈ s.au.entries
  cuts : ∀ e ∈ t.cc.cuts, e.origin ≠ s.osm.number → e ∈ s.cc.cuts

namespace Foreign

variable {s t u : State}

theorem of_same (hn : t.osm.number = s.osm.number) (ha : t.au = s.au) (hc : t.cc.cuts = s.cc.cuts) : Foreign s t :=
  ⟨hn, fun _ he _ => ha ▸ he, fun _ he _ => hc ▸ he⟩

theorem refl (s : State) : Foreign s s := of_same rfl rfl rfl

theorem withAe (s : State) (x : Allotment) : Foreign s (s.withAe x) := of_same rfl rfl rfl

theorem withPwu (s : State) (x : PoleUnit) : Foreign s (s.withPwu x) := of_same rfl rfl rfl

theorem withIa (s : State) (x : Interlock) : Foreign s (s.withIa x) := of_same rfl rfl rfl

theorem withCf (s : State) (x : ConsoleUnit) : Foreign s (s.withCf x) := of_same rfl rfl rfl

theorem withLcm (s : State) (x : LoadUnit) : Foreign s (s.withLcm x) := of_same rfl rfl rfl

theorem withCc (s : State) (x : CutUnit) (h : x.cuts = s.cc.cuts) : Foreign s (s.withCc x) := of_same rfl rfl h

theorem trans (h : Foreign s t) (k : Foreign t u) : Foreign s u :=
  ⟨k.number.trans h.number, fun e he hs => h.alarms e (k.alarms e he (h.number ▸ hs)) hs,
    fun e he hs => h.cuts e (k.cuts e he (h.number ▸ hs)) hs⟩

theorem ite {p : Prop} [Decidable p] (h : Foreign s t) (k : Foreign s u) : Foreign s (if p then t else u) := by
  split <;> assumption

theorem foldl {α : Type} {f : State → α → State} (h : ∀ s a, Foreign s (f s a)) (l : List α) (s : State) :
    Foreign s (l.foldl f s) := by
  induction l generalizing s with
  | nil => exact refl s
  | cons a l ih => exact (h s a).trans (ih _)

/-- A change of the alarm unit alone. -/
theorem withAu (a : AlarmUnit) (h : ∀ e ∈ a.entries, e.source ≠ s.osm.number → e ∈ s.au.entries) : Foreign s (s.withAu a) :=
  ⟨rfl, h, fun _ he _ => he⟩

/-- The removal of alarms. -/
theorem remove (p : AlarmEntry → Bool) : Foreign s (s.withAu (s.au.remove p)) := by
  refine withAu _ fun e he _ => ?_
  rw [AlarmUnit.remove_entries] at he
  exact (List.mem_filter.mp he).1

/-- A change of own alarms. -/
theorem map (a : AlarmUnit) (f : AlarmEntry → AlarmEntry) (hf : ∀ e, (f e).source = e.source ∧ (e.source ≠ s.osm.number → f e = e))
    (h : ∀ e ∈ a.entries, e.source ≠ s.osm.number → e ∈ s.au.entries) : Foreign s (s.withAu { a with entries := a.entries.map f }) := by
  refine withAu _ fun e he hs => ?_
  obtain ⟨x, hx, rfl⟩ := List.mem_map.mp he
  rw [(hf x).1] at hs
  rw [(hf x).2 hs]
  exact h x hx hs

theorem create (p : AlarmEntry → Bool) {x : AlarmEntry} (hx : x.source = s.osm.number) :
    Foreign s (s.withAu ((s.au.remove p).create x)) ∧ Foreign s (s.withAu (s.au.create x)) := by
  constructor
  · refine withAu _ fun e he hs => ?_
    rw [AlarmUnit.create_entries, AlarmUnit.remove_entries, List.mem_append, List.mem_singleton] at he
    obtain he | rfl := he
    · exact (List.mem_filter.mp he).1
    · exact absurd hx hs
  · refine withAu _ fun e he hs => ?_
    rw [AlarmUnit.create_entries, List.mem_append, List.mem_singleton] at he
    obtain he | rfl := he
    · exact he
    · exact absurd hx hs

theorem createOwn (k : AlarmKind) (q : Nat) : Foreign s (s.createOwn k q) := by
  have hnew : (s.newAlarm k q).source = s.osm.number := rfl
  unfold State.createOwn
  dsimp only
  split
  · split
    · exact (create _ hnew).1
    · split
      · exact (create _ hnew).1
      · exact of_same rfl rfl rfl |>.trans (withAu _ fun e he _ => he)
  · split
    · split
      · exact (create _ hnew).1
      · exact (create (fun _ => false) hnew).2
    · exact (create (fun _ => false) hnew).2

theorem ownKey {k : AlarmKind} {q : Nat} {e : AlarmEntry} (h : e.source ≠ s.osm.number) : s.isOwnKey k q e = false := by
  rw [Bool.eq_false_iff]
  exact fun hk => h ((s.isOwnKey_iff k q e).mp hk).1

theorem raiseOwn (k : AlarmKind) (q : Nat) : Foreign s (s.raiseOwn k q) := by
  refine ite (map s.au _ (fun e => ⟨?_, fun he => ?_⟩) fun e he _ => he) (createOwn k q)
  · split <;> rfl
  · rw [ownKey he, if_neg (by decide)]

theorem clearOwn (k : AlarmKind) (q : Nat) : Foreign s (s.clearOwn k q) := by
  refine map (s.au.remove _) _ (fun e => ⟨?_, fun he => ?_⟩) fun e he _ => ?_
  · split <;> rfl
  · rw [ownKey he]
    exact if_neg Bool.false_ne_true
  · rw [AlarmUnit.remove_entries] at he
    exact (List.mem_filter.mp he).1

theorem onset (k : AlarmKind) (q : Nat) : Foreign s (s.onset k q) :=
  ite ((withAu (s := s) { s.au with inForce := s.au.inForce ++ [(k, q)] } fun _ he _ => he).trans (raiseOwn k q)) (refl s)

theorem clearCond (k : AlarmKind) (q : Nat) : Foreign s (s.clearCond k q) :=
  ite ((withAu (s := s) { s.au with inForce := s.au.inForce.filter (fun p => p != (k, q)) } fun _ he _ => he).trans
    (clearOwn k q)) (refl s)

theorem loads {C : ChannelRecord → Channel → Channel → Prop} (h : Loads C s t) : Foreign s t := by
  induction h with
  | refl s => exact refl s
  | trans _ _ ih ih' => exact ih.trans ih'
  | chan s c ch => exact of_same rfl rfl rfl
  | unit s x => exact of_same rfl rfl rfl
  | spaced s => exact of_same rfl rfl rfl
  | record s l => exact of_same rfl rfl rfl
  | onset s c => exact onset _ _
  | clear s c => exact clearCond _ _

theorem zeroDraw : Foreign s s.zeroDraw := (withAe s _).trans (clearCond _ _)

/-- A change of the cut set that enters no cut of another origin. -/
theorem putCuts {cuts : List CutEntry} (h : ∀ e ∈ cuts, e.origin ≠ s.osm.number → e ∈ s.cc.cuts) : Foreign s (s.putCuts cuts) := by
  have hput : Foreign s (s.withCc { s.cc with cuts := cuts }) := ⟨rfl, fun _ he _ => he, h⟩
  refine ite (hput.trans ?_) (ite (hput.trans (of_same rfl rfl rfl)) hput)
  obtain ⟨x, hx, hheld⟩ := (s.withCc { s.cc with cuts := cuts }).beginHeld_eq
  rw [hheld]
  generalize s.withCc { s.cc with cuts := cuts } = a at hx
  have hheld : Foreign a.zeroDraw (a.zeroDraw.withCc { a.cc with phase := .held, offset := 0 }) :=
    withCc _ _ (congrArg CutUnit.cuts a.zeroDraw_cc).symm
  exact ((zeroDraw.trans hheld).trans (loads hx)).trans (withCc x _ rfl)

theorem dropOldestPeer_mem {cuts : List CutEntry} {e : CutEntry} (h : e ∈ dropOldestPeer cuts) : e ∈ cuts := by
  induction cuts with
  | nil => exact h
  | cons x l ih =>
    unfold dropOldestPeer at h
    split at h
    · exact (List.mem_cons.mp h).elim (fun e => e ▸ List.mem_cons_self) fun h => List.mem_cons_of_mem _ (ih h)
    · exact List.mem_cons_of_mem _ h

theorem pushUrgent (m : Message) : Foreign s (s.pushUrgent m) := of_same rfl rfl rfl

theorem originate (c : CutCause) : Foreign s (s.originate c) := by
  unfold State.originate
  refine ite (refl s) ?_
  dsimp only
  generalize freeNumber s.heldNumbers 9 s.cc.counter = k
  have hroom : ∀ e ∈ (if 8 ≤ s.cc.cuts.length then dropOldestPeer s.cc.cuts else s.cc.cuts), e ∈ s.cc.cuts := by
    intro e he
    split at he
    · exact dropOldestPeer_mem he
    · exact he
  have hcount : Foreign s (s.withCc { s.cc with counter := (k + 1) % 256 }) := withCc s _ rfl
  refine (hcount.trans (putCuts fun e he hs => ?_)).trans (pushUrgent _)
  obtain he | he := List.mem_append.mp he
  · exact hroom e he
  · rw [List.mem_singleton.mp he] at hs
    exact absurd rfl hs

theorem releaseOwn (c : CutCause) : Foreign s (s.releaseOwn c) := by
  unfold State.releaseOwn
  split
  · exact refl s
  · exact (putCuts fun e he _ => (List.mem_filter.mp he).1).trans (pushUrgent _)

theorem driverCut : Foreign s s.driverCut := ite (ite (originate _) (releaseOwn _)) (refl s)

theorem forceZero : Foreign s s.forceZero := ite zeroDraw (refl s)

theorem settleRestoring : Foreign s s.settleRestoring := ite (withCc s _ rfl) (refl s)

/-- One pass over the blocks. -/
theorem settleBlocks (cue : Cue) (s0 s : State) : Foreign s (State.settleBlocks cue s0 s) := by
  rw [State.settleBlocks_eq]
  refine (driverCut.trans forceZero).trans ?_
  generalize State.outputPath cue.through (s0.pathBase cue) s.driverCut.forceZero = os
  generalize s.driverCut.forceZero = d
  unfold State.passFrom
  have hia : Foreign d (if d.osm.op.evaluates then d.withIa d.evaluated else d) := ite (withIa d _) (refl d)
  refine (hia.trans (loads (Loads.evaluate os d))).trans ((loads (Loads.refreshRequests _)).trans ?_)
  generalize (d.evaluate os).refreshRequests = x
  have hclamp : Foreign x (x.clampRegen os) := (withAe x _).trans (withAe _ _)
  refine hclamp.trans ((loads (Loads.admissions (x.clampRegen os) cue os s0)).trans ?_)
  generalize State.admissions cue os s0 (x.clampRegen os) = y
  have hclaims : Foreign y.settleRestoring y.settleRestoring.rebuildClaims := (withLcm _ _).trans (withAe _ _)
  exact settleRestoring.trans (hclaims.trans (loads (Loads.settleShare _ cue)))

theorem reperiodAll : Foreign s s.reperiodAll := by
  obtain ⟨x, hx⟩ := s.reperiodAll_only
  rw [hx]
  exact of_same rfl rfl rfl

theorem clearShort (c : Fin 4) : Foreign s (s.clearShort c) := clearCond _ _

theorem parkChannel (c : Fin 4) : Foreign s (s.parkChannel c) := by
  exact ite ((withLcm s _).trans (clearShort c)) (refl s)

theorem autoMove : Foreign s s.autoMove := by
  unfold State.autoMove
  split
  · refine ite ?_ (refl s)
    exact ((of_same (s := s) (t := (s.enterOp .parked).restartDue) rfl rfl rfl).trans reperiodAll).trans
      ((foldl (fun _ c => parkChannel c) _ _).trans (loads (Loads.resetCounter _)))
  · exact ite ((of_same (s := s) (t := (s.enterOp .listening).restartDue) rfl rfl rfl).trans reperiodAll) (refl s)
  · exact ite (refl s) (of_same rfl rfl rfl)
  · refine ite ?_ (refl s)
    have htrack : ∀ t : State, Foreign t t.startTracking := fun t => ite (of_same rfl rfl rfl) (refl t)
    have hflash : ∀ t : State, Foreign t t.startFlash := fun t => ite (of_same rfl rfl rfl) (refl t)
    have hspecial : ∀ t : State, Foreign t t.readSpecial := fun t => ite (of_same rfl rfl rfl) (refl t)
    exact (((of_same (s := s) (t := (s.enterOp .listening).restartDue.startCarrier) rfl rfl rfl).trans (htrack _)).trans (hflash _)).trans
      (hspecial _)
  · exact refl s

theorem closed (h : Closed s t) (hn : t.osm.number = s.osm.number) : Foreign s t := of_same hn h.au (congrArg CutUnit.cuts h.cc)

/-- The reaction of the blocks. -/
theorem react (cue : Cue) (s0 s : State) : Foreign s (State.react cue s0 s) := by
  have hmove : Foreign (State.settleBlocks cue s0 s) (State.settleBlocks cue s0 s).settleMove :=
    ite (refl _) (autoMove.trans (settleBlocks _ _ _))
  have hcarried : Carried s (State.settleBlocks cue s0 s).settleMove :=
    (Kept.settleBlocks cue s0 s).carried.trans (Carried.settleMove _)
  refine ((settleBlocks cue s0 s).trans hmove).trans (closed (Closed.react cue s0 s) ?_)
  rw [hcarried.number, (Carried.react cue s0 s).number]

theorem openLine : Foreign s s.openLine :=
  ite (refl s) (ite ((withPwu s _).trans (clearCond _ _)) (withPwu s _))

theorem endDescent : Foreign s s.endDescent := by
  have hdown : ∀ t p, Foreign t (State.clearDown t p) := fun t p => ite ((clearCond _ _).trans (clearCond _ _)) (refl t)
  refine (foldl hdown _ s).trans (ite ?_ (refl _))
  exact (ite (withPwu _ _) (refl _)).trans (clearCond _ _)

/-- The end of a step of the pole watch unit. -/
theorem finishPoles (w : Option Pole) : Foreign s (s.finishPoles w) := by
  have hsource : ∀ t : State, Foreign t t.updateSource := fun t => withPwu t _
  refine ite ((openLine.trans endDescent).trans ((hsource _).trans ?_)) (refl s)
  have horig : ∀ t c, Foreign t (State.originateIf w t c) := fun t c => ite (originate c) (refl t)
  have hrel : ∀ t c, Foreign t (State.releaseIf w t c) := fun t c => ite (refl t) (releaseOwn c)
  exact ((foldl horig _ _).trans (foldl hrel _ _)).trans (withPwu _ _)

theorem lowerIf (f : PoleState → Bool) (p : Pole) : Foreign s (s.lowerIf f p) := ite (withPwu s _) (refl s)

theorem polesReadTable : Foreign s s.polesReadTable :=
  ite ((ite ((withPwu s _).trans (foldl (fun _ p => lowerIf _ p) _ _)) (refl s)).trans
    (finishPoles none)) (refl s)

end Foreign

end Sys2Proof.Machine

/-! The ageing of an entry (R7, R9, R122, R171). -/

namespace Sys2Proof.Machine

section
variable {s u : State} {n : Nat}

/-- The entries after the whole of a step that has replaced one peer's. -/
theorem State.react_setEntry (cue : Cue) (s0 : State) {e : Entry} (hn : 1 ≤ n ∧ n ≤ 15) (hpeer : s.isOwn n = false)
    (hpvt : u.pvt = (s.setEntry n e).pvt) (hosm : u.osm = s.osm) :
    ((State.react cue s0 u).entry n).agrees e ∧
      ∀ m, m ≠ n → s.isOwn m = false → ((State.react cue s0 u).entry m).agrees (s.entry m) := by
  have c := Carried.react cue s0 u
  have hentry : ∀ m, u.entry m = if n = m then e else s.entry m := fun m => by
    have h := State.entry_setEntry s n m e
    unfold State.entry at h ⊢
    rw [hpvt, h]
    simp [hn]
  have hown : ∀ m, u.isOwn m = s.isOwn m := fun m => by unfold State.isOwn; rw [hosm]
  refine ⟨?_, fun m hm hm' => ?_⟩
  · have h := c.agrees n (by rw [hown]; exact hpeer)
    rwa [hentry, if_pos rfl] at h
  · have h := c.agrees m (by rw [hown]; exact hm')
    rwa [hentry, if_neg (Ne.symm hm)] at h

theorem State.onset_pvt (s : State) (k : AlarmKind) (q : Nat) : (s.onset k q).pvt = s.pvt := by
  obtain ⟨a, ha, -⟩ := s.onset_only k q
  rw [ha]
  rfl

theorem State.clearCond_pvt (s : State) (k : AlarmKind) (q : Nat) : (s.clearCond k q).pvt = s.pvt := by
  obtain ⟨a, ha, -⟩ := s.clearCond_only k q
  rw [ha]
  rfl

theorem State.stationLost_same (s : State) (n : Nat) : (s.stationLost n).pvt = s.pvt ∧ (s.stationLost n).osm = s.osm := by
  unfold State.stationLost
  split
  · exact ⟨State.onset_pvt _ _ _, State.onset_osm _ _ _⟩
  · exact ⟨rfl, rfl⟩

theorem Foreign.stationLost (s : State) (n : Nat) : Foreign s (s.stationLost n) := Foreign.ite (Foreign.onset _ _) (Foreign.refl s)

/-- R7, R122, R171: the cuts and the alarms of a phantom before the blocks take the change. -/
def State.phantomMarked (s : State) (n : Nat) : State :=
  ((s.setEntry n { s.entry n with state := .phantom, phantom := 10 * (s.entry n).pe }).putCuts (dropOrigin s.cc.cuts n)).markOrphans n

theorem State.becomePhantom_eq (s : State) (n : Nat) : s.becomePhantom n = ((s.phantomMarked n).stationLost n).polesReadTable := rfl

theorem State.phantomMarked_same (s : State) (n : Nat) : (s.phantomMarked n).pvt =
    (s.setEntry n { s.entry n with state := .phantom, phantom := 10 * (s.entry n).pe }).pvt ∧ (s.phantomMarked n).osm = s.osm := by
  have k := Kept.putCuts (s.setEntry n { s.entry n with state := .phantom, phantom := 10 * (s.entry n).pe }) (dropOrigin s.cc.cuts n)
  exact ⟨k.pvt, k.osm⟩

theorem State.phantomMarked_cuts (s : State) (n : Nat) : ∀ e ∈ (s.phantomMarked n).cc.cuts, e.origin ≠ n := by
  intro e he
  have hcuts : (s.phantomMarked n).cc.cuts = dropOrigin s.cc.cuts n := State.putCuts_cuts _ _
  rw [hcuts] at he
  exact bne_iff_ne.mp (List.mem_filter.mp he).2

theorem State.markOrphans_orphan (hn : n ≠ s.osm.number) : ∀ e ∈ (s.markOrphans n).au.entries, e.source = n → e.orphan = true := by
  intro e he hs
  obtain ⟨x, -, rfl⟩ := List.mem_map.mp he
  by_cases hx : (x.source == n && !s.ownAlarm x) = true
  · rw [if_pos hx]
  · rw [if_neg hx] at hs
    refine absurd ?_ hx
    rw [hs, beq_self_eq_true, State.ownAlarm, hs, beq_eq_false_iff_ne.mpr hn]
    rfl

/-- R9, R122, R171: an entry's end before the blocks take the change. -/
def State.emptied (s : State) (n : Nat) : State :=
  (((s.setEntry n (emptyEntry (s.entry n).pe)).clearCond .paramMismatch n).putCuts
    (dropOrigin ((s.setEntry n (emptyEntry (s.entry n).pe)).clearCond .paramMismatch n).cc.cuts n)).dropOrphans n

theorem State.becomeEmpty_eq (s : State) (n : Nat) : s.becomeEmpty n =
    (if (s.emptied n).osm.role = .console then (s.emptied n).closeCheck n else s.emptied n).polesReadTable := rfl

theorem State.dropOrphans_same (s : State) (n : Nat) : (s.dropOrphans n).pvt = s.pvt ∧ (s.dropOrphans n).osm = s.osm := by
  unfold State.dropOrphans
  split <;> exact ⟨rfl, rfl⟩

theorem State.emptied_same (s : State) (n : Nat) :
    (s.emptied n).pvt = (s.setEntry n (emptyEntry (s.entry n).pe)).pvt ∧ (s.emptied n).osm = s.osm := by
  obtain ⟨hpvt, hosm⟩ := State.dropOrphans_same (((s.setEntry n (emptyEntry (s.entry n).pe)).clearCond .paramMismatch n).putCuts
    (dropOrigin ((s.setEntry n (emptyEntry (s.entry n).pe)).clearCond .paramMismatch n).cc.cuts n)) n
  have k := Kept.putCuts ((s.setEntry n (emptyEntry (s.entry n).pe)).clearCond .paramMismatch n)
    (dropOrigin ((s.setEntry n (emptyEntry (s.entry n).pe)).clearCond .paramMismatch n).cc.cuts n)
  exact ⟨hpvt.trans (k.pvt.trans (State.clearCond_pvt _ _ _)), hosm.trans (k.osm.trans (State.clearCond_osm _ _ _))⟩

theorem State.dropOrphans_none (hr : s.osm.role ≠ .console) :
    ∀ e ∈ (s.dropOrphans n).au.entries, ¬ (e.source = n ∧ e.orphan = true) := by
  intro e he ⟨hs, ho⟩
  unfold State.dropOrphans at he
  rw [if_neg hr] at he
  have hkept := (List.mem_filter.mp (AlarmUnit.remove_entries _ _ ▸ he : e ∈ _)).2
  rw [hs, ho, beq_self_eq_true] at hkept
  cases hkept

theorem State.closeCheck_same (s : State) (n : Nat) : (s.closeCheck n).pvt = s.pvt ∧ (s.closeCheck n).osm = s.osm :=
  ⟨State.clearCond_pvt _ _ _, State.clearCond_osm _ _ _⟩

end

section
variable {s : State} {n : Nat}

/-- R7: the whole of the step in which a peer's entry becomes STALE. -/
theorem State.react_becomeStale (hn : 1 ≤ n ∧ n ≤ 15) (hpeer : s.isOwn n = false) :
    ((State.react noCue s (s.becomeStale n)).entry n).agrees { s.entry n with state := .stale } ∧
      ∀ m, m ≠ n → s.isOwn m = false → ((State.react noCue s (s.becomeStale n)).entry m).agrees (s.entry m) := by
  have hw := Watched.polesReadTable (s.setEntry n { s.entry n with state := .stale })
  exact State.react_setEntry noCue s hn hpeer hw.pvt hw.osm

/-- R7, R122, R171: the whole of the step in which a peer's entry becomes PHANTOM. -/
theorem State.react_becomePhantom (cue : Cue) (hn : 1 ≤ n ∧ n ≤ 15) (hpeer : s.isOwn n = false) :
    ((State.react cue s (s.becomePhantom n)).entry n).agrees
      { s.entry n with state := .phantom, phantom := 10 * (s.entry n).pe } ∧
    (∀ e ∈ (State.react cue s (s.becomePhantom n)).cc.cuts, e.origin ≠ n) ∧
    (∀ e ∈ (State.react cue s (s.becomePhantom n)).au.entries, e.source = n → e.orphan = true) ∧
    ∀ m, m ≠ n → s.isOwn m = false → ((State.react cue s (s.becomePhantom n)).entry m).agrees (s.entry m) := by
  have hnum := State.ne_number hpeer (by omega)
  rw [State.becomePhantom_eq]
  obtain ⟨hpvt, hosm⟩ := s.phantomMarked_same n
  obtain ⟨lpvt, losm⟩ := (s.phantomMarked n).stationLost_same n
  have hw := Watched.polesReadTable ((s.phantomMarked n).stationLost n)
  have hf := ((Foreign.stationLost (s.phantomMarked n) n).trans Foreign.polesReadTable).trans
    (Foreign.react cue s ((s.phantomMarked n).stationLost n).polesReadTable)
  obtain ⟨hentry, hother⟩ := State.react_setEntry cue s hn hpeer (hw.pvt.trans (lpvt.trans hpvt)) (hw.osm.trans (losm.trans hosm))
  rw [← hosm] at hnum
  refine ⟨hentry, fun e he ho => ?_, fun e he hs => ?_, hother⟩
  · exact s.phantomMarked_cuts n e (hf.cuts e he (ho.trans_ne hnum)) ho
  · refine State.markOrphans_orphan ?_ e (hf.alarms e he (hs.trans_ne hnum)) hs
    exact hnum

/-- R9, R122, R171: the whole of the step in which a peer's entry becomes EMPTY. -/
theorem State.react_becomeEmpty (cue : Cue) (hn : 1 ≤ n ∧ n ≤ 15) (hpeer : s.isOwn n = false) :
    ((State.react cue s (s.becomeEmpty n)).entry n).agrees (emptyEntry (s.entry n).pe) ∧
    (s.osm.role ≠ .console → ∀ e ∈ (State.react cue s (s.becomeEmpty n)).au.entries, ¬ (e.source = n ∧ e.orphan = true)) ∧
    ∀ m, m ≠ n → s.isOwn m = false → ((State.react cue s (s.becomeEmpty n)).entry m).agrees (s.entry m) := by
  have hnum := State.ne_number hpeer (by omega)
  rw [State.becomeEmpty_eq]
  obtain ⟨hpvt, hosm⟩ := s.emptied_same n
  have hclosed : (if (s.emptied n).osm.role = .console then (s.emptied n).closeCheck n else s.emptied n).pvt = (s.emptied n).pvt ∧
      (if (s.emptied n).osm.role = .console then (s.emptied n).closeCheck n else s.emptied n).osm = (s.emptied n).osm := by
    split
    · exact State.closeCheck_same _ n
    · exact ⟨rfl, rfl⟩
  have hw := Watched.polesReadTable (if (s.emptied n).osm.role = .console then (s.emptied n).closeCheck n else s.emptied n)
  obtain ⟨hentry, hother⟩ := State.react_setEntry cue s hn hpeer (hw.pvt.trans (hclosed.1.trans hpvt))
    (hw.osm.trans (hclosed.2.trans hosm))
  refine ⟨hentry, fun hr e he hs => ?_, hother⟩
  have hnot : ¬ (s.emptied n).osm.role = .console := by rw [hosm]; exact hr
  rw [if_neg hnot] at he
  have hf := (Foreign.polesReadTable (s := s.emptied n)).trans (Foreign.react cue s (s.emptied n).polesReadTable)
  rw [← hosm] at hnum
  refine State.dropOrphans_none ?_ e (hf.alarms e he (hs.1.trans_ne hnum)) hs
  rw [← (State.dropOrphans_same _ n).2]
  exact hnot

end

/-- Settles O37: the three ages of a peer's entry. -/
theorem entriesAge : Obligations.EntriesAge := by
  intro n s hn hpeer
  have hrange : 1 ≤ n.val ∧ n.val ≤ 15 := by
    have := n.isLt
    have : n.val ≠ 0 := fun h => hn (Fin.ext h)
    omega
  refine ⟨fun hf hd => ⟨_, rfl, ?_⟩, fun hf hd => ⟨_, rfl, ?_⟩, fun hf hd => ⟨_, rfl, ?_⟩⟩
  · rw [if_pos (by unfold State.staleDue; rw [hpeer, hf]; simpa using hd)]
    exact State.react_becomeStale hrange hpeer
  · rw [if_pos]
    · exact State.react_becomePhantom _ hrange hpeer
    · unfold State.phantomDue Entry.heard
      rw [hpeer]
      obtain hf | hf := hf <;> simpa [hf] using hd
  · rw [if_pos (by unfold State.holdOver; simp [hf, hd])]
    exact State.react_becomeEmpty _ hrange hpeer

end Sys2Proof.Machine

/-! LOADING_END (R195 to R197), LISTEN_IN_EXPIRY (R198) and DORMANCY_EXPIRY (R199), with what a reaction that moves no
operating state leaves of the bus interface and the alarm unit. -/

namespace Sys2Proof.Machine

section
variable {s u : State}

theorem State.loaded_settled (o : OpState) (r : Role) (n : Nat) (c : Settings) :
    (s.loaded o r n c).settings = c ∧ (s.loaded o r n c).osm.role = r ∧ (s.loaded o r n c).osm.number = n := by
  obtain ⟨v, -, hr, hn, hs, -, hv, -⟩ := s.loaded_changes o r n c
  have h := hv.settled (by simp)
  exact ⟨h.1.trans hs, h.2.1.trans hr, h.2.2.trans hn⟩

theorem State.readSpecial_osm (s : State) : s.readSpecial.osm = s.osm ∧ s.readSpecial.settings = s.settings := by
  unfold State.readSpecial
  split <;> exact ⟨rfl, rfl⟩

theorem State.enterFaulted_settled (x : Straps) : (s.enterFaulted x).settings = faultedSettings s.cs.image ∧
    (s.enterFaulted x).osm.role = strapsRole x ∧ (s.enterFaulted x).osm.number = x.number.toNat ∧
    (s.enterFaulted x).inForce .configFault 0 = true := by
  have h := s.loaded_settled .faulted (strapsRole x) x.number.toNat (faultedSettings s.cs.image)
  have ho := s.loaded_op .faulted (strapsRole x) x.number.toNat (faultedSettings s.cs.image)
  unfold State.enterFaulted
  generalize s.loaded .faulted (strapsRole x) x.number.toNat (faultedSettings s.cs.image) = v at h ho
  obtain ⟨hosm, hset⟩ := v.readSpecial_osm
  obtain ⟨a, ha, -⟩ := v.readSpecial.onset_only .configFault 0
  have hforce := v.readSpecial.onset_inForce .configFault .configFault 0 0
  rw [hosm, ho] at hforce
  rw [hforce, State.onset_osm, hosm, ha]
  exact ⟨hset.trans h.1, h.2.1, h.2.2, by simp [OpState.alarmsTaken]⟩

theorem State.startTracking_osm (s : State) : s.startTracking.osm = s.osm := by
  unfold State.startTracking
  split <;> rfl

theorem State.startFlash_osm (s : State) : s.startFlash.osm = s.osm := by
  unfold State.startFlash
  split <;> rfl

theorem State.enterRunning_osm (x : Straps) : (s.enterRunning x).osm.op = .listening ∧ (s.enterRunning x).osm.listen = 0 := by
  unfold State.enterRunning State.loaded
  dsimp only
  rw [(State.readSpecial_osm _).1, State.withPwu_osm, State.startFlash_osm, State.startTracking_osm]
  exact ⟨rfl, rfl⟩

theorem State.loadFails_iff (s : State) (x : Straps) : s.loadFails x = true ↔
    s.cs.image.sumAgrees = false ∨ s.cs.mark = true ∨ x.number = 0 ∨ 5 ≤ x.roleCode.toNat ∨
      rolesDisagree s.cs.image (strapsRole x) x.number.toNat = true := by
  simp [State.loadFails, strapsBad, or_assoc]

end

/-- Settles O27: the checks of LOADING_END in order, and what each outcome settles. -/
theorem loadingEnds : Obligations.LoadingEnds := by
  intro x s ho
  refine ⟨_, congrArg Host.Outcome.next (if_pos ho), ?_⟩
  have key : ∀ u : State, u.osm.op = .maintenance ∨ u.osm.op = .faulted ∨ u.osm.op = .listening →
      (State.react noCue s u).osm.op = u.osm.op := fun u h =>
    State.react_op_same noCue s u (.inr (h.elim .inl fun h => .inr (h.elim .inl fun h => .inr (.inl h))))
  have hcar := fun u => Carried.react noCue s u
  cases hx : x.cfgEn with
  | true =>
    have hset := s.loaded_settled .maintenance (strapsRole x) x.number.toNat defaultSettings
    have hop : (s.enterMaintenance x).osm.op = .maintenance := s.loaded_op _ _ _ _
    have c := hcar (s.enterMaintenance x)
    exact ⟨c.role.trans hset.2.1, c.number.trans hset.2.2, (key _ (.inl hop)).trans hop, c.settings.trans hset.1⟩
  | false =>
    simp only [Bool.false_eq_true, if_false]
    by_cases hf : s.loadFails x = true
    · have hset := s.enterFaulted_settled x
      have hop := s.enterFaulted_op x
      have c := hcar (s.enterFaulted x)
      rw [if_pos hf, if_pos ((s.loadFails_iff x).mp hf)]
      refine ⟨c.role.trans hset.2.1, c.number.trans hset.2.2.1, (key _ (.inr (.inl hop))).trans hop, c.settings.trans hset.1, ?_⟩
      rw [State.react_inForce _ _ _ _ _ rfl]
      exact hset.2.2.2
    · have hset := s.enterRunning_settled x
      obtain ⟨hop, hlisten⟩ := s.enterRunning_osm x
      have c := hcar (s.enterRunning x)
      have hsame := key _ (.inr (.inr hop))
      rw [if_neg hf, if_neg fun h => hf ((s.loadFails_iff x).mpr h)]
      exact ⟨c.role.trans hset.2.1, c.number.trans hset.2.2, hsame.trans hop, c.settings.trans hset.1,
        (State.react_kept noCue s _ hsame).2.1.trans hlisten⟩

section
variable {s t u : State}

/-- R198, R199: outside the states of R130 no driver's cut is judged. -/
theorem State.driverCut_idle (h : s.osm.op.serves = false) : s.driverCut = s := if_neg fun k => by rw [h] at k; cases k.2

/-- One pass over the blocks past the driver's cut hands the bus interface nothing. -/
theorem State.passFrom_bus (cue : Cue) (os : List Inhibits) (s0 a : State) : (State.passFrom cue os s0 a).bus = a.bus := by
  have hbefore := ((a.evaluate_same os).trans (LoadOnly.refreshRequests _)).same
  unfold State.passFrom
  generalize (a.evaluate os).refreshRequests = x at hbefore
  have hadm := (LoadOnly.admissions cue os s0 (x.clampRegen os)).same
  generalize State.admissions cue os s0 (x.clampRegen os) = y at hadm
  obtain ⟨-, -, -, -, -, -, -, -, -, -, -, -, -, xbus, -⟩ := hbefore
  obtain ⟨-, -, -, -, -, -, -, -, -, -, -, -, -, ybus, -⟩ := hadm
  obtain ⟨-, -, -, -, -, -, -, -, -, -, -, -, -, tbus, -⟩ := (LoadOnly.settleShare cue y.settleRestoring.rebuildClaims).same
  have hia : (if a.osm.op.evaluates then a.withIa a.evaluated else a).bus = a.bus := by split <;> rfl
  have hrest : y.settleRestoring.rebuildClaims.bus = y.bus := by
    unfold State.settleRestoring
    split <;> rfl
  rw [tbus, hrest, ybus]
  exact xbus.trans hia

theorem State.forceZero_bus (s : State) : s.forceZero.bus = s.bus := by
  unfold State.forceZero State.zeroDraw
  split
  · obtain ⟨a, ha, -⟩ := (s.withAe { s.ae with draw := 0, regen := 0, share := 0, shareBase := 0 }).clearCond_only .sinkShort 0
    rw [ha]
    rfl
  · rfl

theorem State.settleBlocks_bus (cue : Cue) (s0 s : State) : (State.settleBlocks cue s0 s).bus = s.driverCut.bus := by
  rw [State.settleBlocks_eq, State.passFrom_bus, State.forceZero_bus]

/-- The bus interface after a reaction that moves no operating state and composes no beacon. -/
theorem State.react_bus {cue : Cue} {s0 : State} (hc : cue.compose = false) (h : (State.react cue s0 s).osm.op = s.osm.op)
    (h0 : s0.osm.op ≠ .loading ∧ s0.osm.op ≠ .dormant) : (State.react cue s0 s).bus = s.driverCut.bus := by
  have hmove : (State.settleBlocks cue s0 s).settleMove = State.settleBlocks cue s0 s := by
    obtain ⟨-, hb⟩ | ⟨ha, hb⟩ := (State.settleBlocks cue s0 s).settleMove_cases
    · exact hb
    · refine absurd ?_ ha
      have hop := (Closed.react cue s0 s).op
      rw [hb, (Kept.settleBlocks _ _ _).osm] at hop
      rw [← hop, h, (Kept.settleBlocks _ _ _).osm]
  have hfill : State.fillAtEntry s0 (State.settleBlocks cue s0 s) = State.settleBlocks cue s0 s :=
    if_neg fun h => h.1.elim h0.1 h0.2
  have hevents : ∀ t, (State.settleEvents cue s0 t).bus = t.bus := fun t => by
    have hstart : ∀ t : State, t.startWaiting.bus = t.bus := fun t => by unfold State.startWaiting; split <;> rfl
    unfold State.settleEvents
    rw [hstart]
    split
    · exact hstart _
    · rfl
  have houtputs : ∀ t : State, t.settleOutputs.bus = t.bus := fun t => by
    have hpoles : t.followPoles.bus = t.bus := by
      unfold State.followPoles
      dsimp only
      split
      · split <;> rfl
      · rfl
    unfold State.settleOutputs State.settleDormancy
    split <;> exact hpoles
  unfold State.react State.composeIf
  rw [hmove, hfill, hc, houtputs, hevents]
  exact State.settleBlocks_bus cue s0 s

/-- The alarm unit takes nothing from the load channels where it takes no raise and no clear (R165). -/
theorem Loads.au {C : ChannelRecord → Channel → Channel → Prop} (h : Loads C s t) (hs : s.osm.op.alarmsTaken = false) :
    t.au = s.au := by
  have hop : ∀ {a b : State}, Loads C a b → b.osm = a.osm := fun h => h.only.same.2.2.2.2.2.2.1
  induction h with
  | refl s => rfl
  | trans h _ ih ih' => exact (ih' (by rw [hop h]; exact hs)).trans (ih hs)
  | chan s c ch => rfl
  | unit s x => rfl
  | spaced s => rfl
  | record s l => rfl
  | onset s c =>
    unfold State.onset
    rw [hs]
    rfl
  | clear s c =>
    unfold State.clearShort State.clearCond
    rw [hs]
    rfl

/-- One pass over the blocks past the driver's cut leaves the alarm unit where it takes no raise and no clear. -/
theorem State.passFrom_au (cue : Cue) (os : List Inhibits) (s0 a : State) (h : a.osm.op.alarmsTaken = false) :
    (State.passFrom cue os s0 a).au = a.au := by
  have hia : (if a.osm.op.evaluates then a.withIa a.evaluated else a).au = a.au ∧
      (if a.osm.op.evaluates then a.withIa a.evaluated else a).osm = a.osm := by split <;> exact ⟨rfl, rfl⟩
  have hev := Loads.evaluate os a
  have hosm : ∀ {C : ChannelRecord → Channel → Channel → Prop} {p q : State}, Loads C p q → q.osm = p.osm :=
    fun h => h.only.same.2.2.2.2.2.2.1
  have hop := hosm hev
  rw [hia.2] at hop
  have heval := (hev.au (by rw [hia.2]; exact h)).trans hia.1
  have href := Loads.refreshRequests (a.evaluate os)
  unfold State.passFrom
  have hxop := (hosm href).trans hop
  have hxau := (href.au (by rw [hop]; exact h)).trans heval
  generalize (a.evaluate os).refreshRequests = x at hxop hxau
  have hadm := Loads.admissions (x.clampRegen os) cue os s0
  have hyop : (State.admissions cue os s0 (x.clampRegen os)).osm = a.osm := (hosm hadm).trans hxop
  have hyau : (State.admissions cue os s0 (x.clampRegen os)).au = a.au :=
    (hadm.au (by rw [show (x.clampRegen os).osm = x.osm from rfl, hxop]; exact h)).trans hxau
  generalize State.admissions cue os s0 (x.clampRegen os) = y at hyop hyau
  have hz : y.settleRestoring.rebuildClaims.osm = y.osm ∧ y.settleRestoring.rebuildClaims.au = y.au := by
    unfold State.settleRestoring
    split <;> exact ⟨rfl, rfl⟩
  have hshare := Loads.settleShare y.settleRestoring.rebuildClaims cue
  exact (hshare.au (by rw [hz.1, hyop]; exact h)).trans (hz.2.trans hyau)

theorem State.forceZero_au (h : s.osm.op.alarmsTaken = false) : s.forceZero.au = s.au := by
  unfold State.forceZero State.zeroDraw State.clearCond
  split
  · rw [show (s.withAe { s.ae with draw := 0, regen := 0, share := 0, shareBase := 0 }).osm.op.alarmsTaken = false from h]
    rfl
  · rfl

end

end Sys2Proof.Machine

/-! LISTEN_IN_EXPIRY (R198) and DORMANCY_EXPIRY (R18, R46, R131, R153, R179, R183, R199). -/

namespace Sys2Proof.Machine

section
variable {s : State}

theorem State.clearEach_only (l : List (AlarmKind × Nat)) (s : State) :
    ∃ a, l.foldl (fun t p => t.clearCond p.1 p.2) s = s.withAu a := by
  induction l generalizing s with
  | nil => exact ⟨s.au, rfl⟩
  | cons p l ih =>
    obtain ⟨a, ha, -⟩ := s.clearCond_only p.1 p.2
    obtain ⟨b, hb⟩ := ih (s.clearCond p.1 p.2)
    exact ⟨b, by rw [List.foldl_cons, hb, ha]; rfl⟩

/-- R179: what the alarm unit keeps at entry to DORMANT. -/
theorem State.alarmsDormant_only (s : State) : ∃ a, s.alarmsDormant = s.withAu a ∧
    ∀ e ∈ a.entries, e.source = s.osm.number ∧ e.latched = true := by
  unfold State.alarmsDormant
  dsimp only
  obtain ⟨a, ha⟩ := State.clearEach_only (s.au.inForce.filter fun p => clearsAtDormant p.1) s
  rw [ha]
  refine ⟨_, rfl, fun e he => ?_⟩
  have he : e ∈ (a.remove fun e => !(s.withAu a).ownAlarm e || !e.latched).entries := he
  rw [AlarmUnit.remove_entries] at he
  have hkept := (List.mem_filter.mp he).2
  simpa [State.ownAlarm] using hkept

/-- What a clear keeps of every alarm. -/
theorem State.clearCond_all {P : AlarmEntry → Prop} (hP : ∀ e st, P e → P { e with state := st }) (k : AlarmKind) (q : Nat)
    (h : ∀ e ∈ s.au.entries, P e) : ∀ e ∈ (s.clearCond k q).au.entries, P e := by
  unfold State.clearCond
  split
  · intro e he
    obtain ⟨x, hx, rfl⟩ := List.mem_map.mp he
    rw [AlarmUnit.remove_entries] at hx
    have hx := h x (List.mem_filter.mp hx).1
    split
    · exact hP x _ hx
    · exact hx
  · exact h

theorem State.clearChannels_all {P : AlarmEntry → Prop} (hP : ∀ e st, P e → P { e with state := st })
    (h : ∀ e ∈ s.au.entries, P e) : ∀ e ∈ s.clearChannels.au.entries, P e := by
  have key : ∀ (l : List (Fin 4)) (t : State), (∀ e ∈ t.au.entries, P e) →
      ∀ e ∈ (l.foldl State.clearShort t).au.entries, P e := by
    intro l
    induction l with
    | nil => exact fun t h => h
    | cons c l ih => exact fun t h => ih _ (State.clearCond_all hP _ _ h)
  exact key _ _ h

/-- The key reads the same after the entry to PARKED. -/
theorem State.enterParked_keyOn (s : State) : s.enterParked.keyOn = s.keyOn := by
  obtain ⟨x, hx⟩ := (s.enterOp .parked).restartDue.reperiodAll_only
  have hentry := (s.enterOp .parked).restartDue.reperiodAll_entry s.settings.consoleStation
  have hload : LoadOnly ((s.enterOp .parked).restartDue.reperiodAll) s.enterParked :=
    (LoadOnly.foldl LoadOnly.parkChannel _ _).trans (LoadOnly.resetCounter _)
  have hpart : consolePartOf ((s.enterOp .parked).restartDue.reperiodAll).pvt s.settings.consoleStation =
      consolePartOf s.pvt s.settings.consoleStation := consolePartOf_carried (s := s) hentry
  rw [hload.keyOn]
  unfold State.keyOn
  rw [hx] at hpart ⊢
  have hpart : consolePartOf x s.settings.consoleStation = consolePartOf s.pvt s.settings.consoleStation := hpart
  show (if s.osm.role = .console then s.din 7 else _) = _
  rw [← hpart]
  rfl

/-- R18, R46, R131, R179, R183, R199: what DORMANT begins with. -/
theorem State.enterDormant_same (s : State) :
    s.enterDormant.osm = { s.osm with op := .dormant, listen := 0, dormancy := 0 } ∧ s.enterDormant.settings = s.settings ∧
    s.enterDormant.su.din = s.su.din ∧ s.enterDormant.pvt = emptyTable s.settings.period ∧ s.enterDormant.ia = s.ia ∧
    s.enterDormant.bus = s.bus.sleep ∧ s.enterDormant.cc = s.cc.sleep ∧ s.enterDormant.ae = s.ae.sleep ∧
    s.enterDormant.pwu = s.pwu.sleep ∧ ∀ e ∈ s.enterDormant.au.entries, e.source = s.osm.number ∧ e.latched = true := by
  obtain ⟨a, ha, hall⟩ := s.alarmsDormant_only
  have hau := State.clearChannels_all (s := s.alarmsDormant) (P := fun e => e.source = s.osm.number ∧ e.latched = true)
    (fun _ _ h => h) (by rw [ha]; exact hall)
  obtain ⟨l, b, r, hb⟩ := s.alarmsDormant.clearChannels_only
  unfold State.enterDormant
  dsimp only
  rw [hb] at hau ⊢
  rw [ha] at hau ⊢
  refine ⟨rfl, rfl, rfl, rfl, rfl, rfl, ?_, rfl, rfl, hau⟩
  show CutUnit.sleep _ = _
  unfold CutUnit.sleep
  rfl

theorem State.enterDormant_keyOn (hk : s.keyOn = false) (hh : s.ia.heldKey = false) : s.enterDormant.keyOn = false := by
  obtain ⟨hosm, hset, hsu, hpvt, hia, -⟩ := s.enterDormant_same
  unfold State.keyOn State.din at hk ⊢
  rw [hosm, hset, hsu, hpvt, hia]
  split
  · next hr => rwa [if_pos hr] at hk
  · next hr =>
    rw [if_neg hr] at hk
    split
    · next i hi => rwa [hi] at hk
    · have hnone : consolePartOf (emptyTable s.settings.period) s.settings.consoleStation = none := by
        unfold consolePartOf Entry.heardBeacon
        rw [(entryOf_emptyTable _ _).2, ite_self]
      rw [hnone, hh]
      rfl

/-- The whole of the step in which DORMANT is entered, the key off. -/
theorem State.react_enterDormant (ho : s.osm.op = .parked) (hk : s.keyOn = false) (hh : s.ia.heldKey = false) :
    (State.react noCue s s.enterDormant).osm.op = .dormant ∧
    (State.react noCue s s.enterDormant).osm.number = s.osm.number ∧
    (∀ n, ((State.react noCue s s.enterDormant).entry n).state = .empty ∧
      ((State.react noCue s s.enterDormant).entry n).beacon = none) ∧
    (State.react noCue s s.enterDormant).cc.cuts = [] ∧ (State.react noCue s s.enterDormant).cc.phase = .none ∧
    (State.react noCue s s.enterDormant).cc.counter = s.cc.counter ∧
    (State.react noCue s s.enterDormant).ae.draw = 0 ∧ (State.react noCue s s.enterDormant).ae.hot = false ∧
    (State.react noCue s s.enterDormant).bus = s.bus.sleep ∧
    (State.react noCue s s.enterDormant).au = s.enterDormant.au ∧
    (State.react noCue s s.enterDormant).pwu = s.pwu.sleep := by
  obtain ⟨hosm, hset, -, hpvt, -, hbus, hcc, hae, hpwu, -⟩ := s.enterDormant_same
  have hkey := s.enterDormant_keyOn hk hh
  have hop : s.enterDormant.osm.op = .dormant := congrArg OpMachine.op hosm
  have hnum : s.enterDormant.osm.number = s.osm.number := by rw [hosm]
  have hentry : ∀ n, s.enterDormant.entry n = entryOf (emptyTable s.settings.period) n := fun n => by
    unfold State.entry
    rw [hpvt]
  generalize s.enterDormant = u at hop hnum hentry hbus hcc hae hpwu hkey
  have hsame := State.react_op_same noCue s u (.inr (.inr (.inr (.inr (.inr (.inr (.inr ⟨hop, hkey⟩)))))))
  have hidle : u.driverCut = u := State.driverCut_idle (by rw [hop]; rfl)
  have hpass := Pass.afterDriver noCue s u
  rw [hidle] at hpass
  have hclosed := Closed.react_same noCue s u hsame
  have hcar := Carried.react noCue s u
  have h0 : s.osm.op ≠ .loading ∧ s.osm.op ≠ .dormant := by rw [ho]; exact ⟨nofun, nofun⟩
  have hau : (State.settleBlocks noCue s u).au = u.au := by
    have htaken : u.osm.op.alarmsTaken = false := by rw [hop]; rfl
    rw [State.settleBlocks_eq, hidle, State.passFrom_au, State.forceZero_au htaken]
    rw [(Kept.forceZero u).osm]
    exact htaken
  have hdraw : u.ae.draw = 0 := by rw [hae]; rfl
  refine ⟨hsame.trans hop, hcar.number.trans hnum, fun n => ?_, ?_, ?_, ?_, ?_, ?_, ?_, hclosed.au.trans hau, ?_⟩
  · obtain ⟨y, hy, hrole, hnumber, ht, -⟩ := State.react_pvt noCue s u rfl h0
    have hmoved : ∀ m, (y.entry m).carried = (u.entry m).carried := fun m => by
      have h := (State.settleBlocks noCue s u).settleMove_entry m
      unfold State.entry at h ⊢
      rw [hy, h, (Kept.settleBlocks noCue s u).pvt]
    have hempty : ∀ m, (u.entry m).state = .empty ∧ (u.entry m).beacon = none := fun m => by
      rw [hentry]
      exact entryOf_emptyTable _ _
    have hpoles : y.followPoles = y := by
      have hb : (y.entry y.osm.number).beacon = none :=
        (Entry.agrees_of_carried (hmoved y.osm.number)).2.2.2.2.trans (hempty _).2
      unfold State.followPoles
      dsimp only
      rw [hb]
    rw [hpoles] at ht
    have hreact : (State.react noCue s u).entry n = y.entry n := by unfold State.entry; rw [ht]
    obtain ⟨h1, -, -, -, h5⟩ := Entry.agrees_of_carried (hmoved n)
    rw [hreact, h1, h5]
    exact hempty n
  · rw [hclosed.cc, hpass.cuts, hcc]
    rfl
  · rw [hclosed.cc]
    obtain ⟨h, -⟩ | ⟨h, -⟩ := hpass.phase
    · rw [h, hcc]; rfl
    · rw [hcc] at h; cases h
  · rw [hclosed.cc, hpass.counter, hcc]
    rfl
  · rw [hclosed.draw, hpass.draw, hdraw, ite_self]
  · have h := congrArg (fun a => a.hot) hcar.ae
    have hhot : (State.react noCue s u).ae.hot = u.ae.hot := h
    rw [hhot, hae]
    rfl
  · rw [State.react_bus rfl hsame h0, hidle, hbus]
  · rw [(State.react_kept noCue s u hsame).2.2.1, hpwu]

end

/-- Settles O31: what each expiry enters, and what DORMANT leaves and keeps. -/
theorem listenInAndDormancyEnd : Obligations.ListenInAndDormancyEnd := by
  refine ⟨fun s => ⟨fun ho hl => ⟨_, congrArg Host.Outcome.next (if_pos ⟨ho, hl⟩), ?_⟩, fun h => ?_⟩, fun s ho hd hk hh =>
    ⟨_, congrArg Host.Outcome.next (if_pos ⟨ho, hd⟩), ?_⟩⟩
  · cases hk : s.keyOn with
    | true =>
      rw [if_pos rfl, if_pos rfl]
      have hop : (s.enterOp .active).osm.op = .active := rfl
      have hkey : (s.enterOp .active).keyOn = true := hk
      exact State.react_op_same noCue s _ (.inr (.inr (.inr (.inr (.inl ⟨hop, hkey⟩)))))
    | false =>
      rw [if_neg (by decide), if_neg (by decide)]
      have hop := s.enterParked_op
      refine (State.react_op_same noCue s _ (.inr (.inr (.inr (.inr (.inr (.inl ⟨hop, ?_⟩))))))).trans hop
      rw [State.enterParked_keyOn, hk]
  · exact congrArg Host.Outcome.next (if_neg fun k => h.elim (fun h => h k.1) fun h => absurd k.2 (by omega))
  · obtain ⟨hop, hnum, hentry, hcuts, hphase, hcounter, hdraw, hhot, hbus, hau, hpwu⟩ := State.react_enterDormant ho hk hh
    obtain ⟨-, -, -, -, -, -, -, -, -, hown⟩ := s.enterDormant_same
    refine ⟨hop, fun n _ _ => hentry n, hcuts, hphase, hcounter, hdraw, hhot, ?_⟩
    rw [hbus, hau, hpwu]
    refine ⟨rfl, rfl, rfl, rfl, rfl, rfl, fun e he => ?_, rfl, rfl, rfl, rfl⟩
    unfold State.ownAlarm
    rw [hnum]
    exact ⟨beq_iff_eq.mpr (hown e he).1, (hown e he).2⟩

end Sys2Proof.Machine

/-! ALLOTMENT_EVENT_PERIODIC (R20, R22) and the pattern commands (R190 to R192). -/

namespace Sys2Proof.Machine

section
variable {s : State}

theorem joinKind_periodic (w : Option CompKind) : joinKind w .periodic = .periodic := by
  obtain _ | (_ | _) := w <;> rfl

/-- R22: a periodic event where no computation is in progress. -/
theorem State.allotmentEvent_starts (h : s.ae.computing = none) : s.allotmentEvent .periodic =
    (s.withAe { s.ae with waiting := none }).startComputation .periodic := by
  unfold State.allotmentEvent State.startWaiting
  rw [joinKind_periodic]
  dsimp only [State.withAe_ae]
  rw [h]
  rfl

/-- R22: a periodic event beside a computation in progress. -/
theorem State.allotmentEvent_joins (h : s.ae.computing ≠ none) :
    s.allotmentEvent .periodic = s.withAe { s.ae with waiting := some .periodic } := by
  unfold State.allotmentEvent State.startWaiting
  rw [joinKind_periodic]
  dsimp only [State.withAe_ae]
  cases hc : s.ae.computing with
  | none => exact absurd hc h
  | some k => rfl

end

/-- Settles O44: a due time starts a computation on a snapshot, or joins the one pending. -/
theorem periodicEventStarts : Obligations.PeriodicEventStarts := by
  intro s ho hd
  refine ⟨_, congrArg Host.Outcome.next (if_pos ⟨ho, hd⟩), ?_⟩
  cases hc : s.ae.computing with
  | none =>
    rw [State.allotmentEvent_starts (s := s.withAe { s.ae with due := s.ae.due - s.periodInForce }) hc]
    exact ⟨rfl, fun _ => ⟨rfl, rfl, rfl, rfl⟩, fun h => absurd rfl h, rfl, rfl, rfl⟩
  | some k =>
    have hne : (s.withAe { s.ae with due := s.ae.due - s.periodInForce }).ae.computing ≠ none := by
      show s.ae.computing ≠ none
      rw [hc]
      exact nofun
    rw [State.allotmentEvent_joins hne]
    exact ⟨rfl, fun h => absurd h (Option.some_ne_none k), fun _ => ⟨hc, rfl, rfl⟩, rfl, rfl, rfl⟩

section
variable {s u : State}

theorem State.judge_receives {k : Byte} {kind : CommandKind} (h : s.osm.op.receives = true) :
    s.judge k kind = State.react noCue s (s.takeCommand k.toNat kind) := if_pos (OpState.judges_of_receives h)

theorem OpState.receives_not {o : OpState} (h : o.receives = true) : o ≠ .loading ∧ o ≠ .dormant := by
  constructor <;> rintro rfl <;> cases h

/-- The driver's cut keeps of the bus interface all but the urgent slots and the driven frame's place. -/
theorem State.driverCut_bus (s : State) : s.driverCut.bus.beaconSlot = s.bus.beaconSlot ∧
    s.driverCut.bus.sequence = s.bus.sequence ∧ s.driverCut.bus.commandSlots = s.bus.commandSlots := by
  have h := (Kept.driverCut s).bus
  exact ⟨congrArg (fun b => b.1.beaconSlot) h, congrArg (fun b => b.1.sequence) h, congrArg (fun b => b.1.commandSlots) h⟩

/-- No current flows after a reaction that stays in an operating state that may not draw. -/
theorem State.react_undrawn (cue : Cue) (s0 : State) (h : (State.react cue s0 u).osm.op = u.osm.op) (hd : u.osm.op.draws = false) :
    (State.react cue s0 u).ae.draw = 0 ∧ (State.react cue s0 u).ae.regen = 0 := by
  have hc := Closed.react_same cue s0 u h
  have hp := Pass.afterDriver cue s0 u
  have hforced : u.driverCut.forced = true := State.forced_of _ (by rw [(Kept.driverCut u).osm]; exact hd)
  have hdraw := hp.draw
  have hregen := hp.regen
  rw [if_pos hforced] at hdraw hregen
  exact ⟨hc.draw.trans hdraw, hc.regen.trans (Nat.le_zero.mp hregen)⟩

/-- R153: the state in which the entry beacon is composed. -/
def State.patternEntered (s : State) : State :=
  (s.enterOp .pattern).clearChannels.withAe { (s.enterOp .pattern).clearChannels.ae with regenRequest := 0 }

theorem State.patternEntered_same (s : State) : s.patternEntered.bus = s.bus ∧ s.patternEntered.cc.cuts = s.cc.cuts ∧
    s.patternEntered.osm = (s.enterOp .pattern).osm ∧ s.patternEntered.ae = { s.ae with regenRequest := 0 } := by
  obtain ⟨l, a, r, h⟩ := (s.enterOp .pattern).clearChannels_only
  unfold State.patternEntered
  rw [h]
  exact ⟨rfl, rfl, rfl, rfl⟩

theorem State.fillOwn_bus (s : State) (b : Beacon) : (s.fillOwn b).bus = s.bus := by
  unfold State.fillOwn
  split <;> rfl

/-- R191: the entry beacon and the number it has taken. -/
theorem State.enterPattern_bus (hn : s.osm.number ≠ 0) : s.enterPattern.bus.sequence = (s.bus.sequence + 1) % 256 ∧
    s.enterPattern.bus.beaconSlot = some (.beacon (s.patternEntered.ownBeacon [] 0 true)) ∧
    s.enterPattern.bus.lastResult = s.bus.lastResult := by
  obtain ⟨hbus, -, hosm, -⟩ := s.patternEntered_same
  have hnum : ¬ s.patternEntered.osm.number = 0 := by rw [hosm]; exact hn
  have henter : s.enterPattern = s.patternEntered.composeBeacon (s.patternEntered.ownBeacon [] 0 true) := if_neg hnum
  rw [henter]
  unfold State.composeBeacon State.pushBeacon
  dsimp only [State.withBus_bif]
  rw [State.fillOwn_bus, hbus]
  exact ⟨rfl, rfl, rfl⟩

theorem State.enterPattern_lastResult (s : State) : s.enterPattern.bus.lastResult = s.bus.lastResult := by
  by_cases hn : s.osm.number = 0
  · obtain ⟨hbus, -, hosm, -⟩ := s.patternEntered_same
    have hnum : s.patternEntered.osm.number = 0 := by rw [hosm]; exact hn
    have henter : s.enterPattern = s.patternEntered := if_pos hnum
    rw [henter, hbus]
  · exact (State.enterPattern_bus hn).2.2

theorem State.patternResult_code (s : State) : s.patternResult.code =
    if s.osm.op ≠ .active then 1
    else if s.ae.draw ≠ 0 ∨ s.cc.cuts ≠ [] ∨
        (s.osm.role = .pole ∧ ¬ (s.pwu.pos.state = .stowed ∧ s.pwu.neg.state = .stowed)) then 1
    else if s.standstill then 0 else 4 := by
  unfold State.patternResult
  split
  · rfl
  · split
    · rfl
    · split <;> rfl

/-- R190: when a PATTERN_ON is answered DONE. -/
theorem State.patternResult_eq_done (ho : s.osm.op = .active) (hd : s.ae.draw = 0) (hc : s.cc.cuts = [])
    (hp : s.osm.role = .pole → s.pwu.pos.state = .stowed ∧ s.pwu.neg.state = .stowed) (hs : s.standstill = true) :
    s.patternResult = .done := by
  unfold State.patternResult
  rw [if_neg (not_not.mpr ho), if_neg, if_pos hs]
  rintro (h | h | ⟨hr, h⟩)
  · exact h hd
  · exact h hc
  · exact h (hp hr)

/-- R191: the whole of the step in which PATTERN is entered. -/
theorem State.react_enterPattern {n : Nat} (ho : s.osm.op = .active) (hc : s.cc.cuts = [])
    (hkey : s.keyOn = true) (hplaced : s.ConsolePlaced) :
    (State.react noCue s (s.storeResult n .done).enterPattern).osm.op = .pattern ∧
    (State.react noCue s (s.storeResult n .done).enterPattern).ae.draw = 0 ∧
    (State.react noCue s (s.storeResult n .done).enterPattern).ae.regen = 0 ∧
    (s.osm.number ≠ 0 →
      (State.react noCue s (s.storeResult n .done).enterPattern).bus.sequence = (s.bus.sequence + 1) % 256 ∧
      ∃ b, (State.react noCue s (s.storeResult n .done).enterPattern).bus.beaconSlot = some (.beacon b) ∧
        b.op = .pattern ∧ b.pattern = true ∧ b.claims = [] ∧ b.draw = 0 ∧ b.regenRequest = 0 ∧ b.regen = 0 ∧ b.sink = 0 ∧
        b.sequence = s.bus.sequence ∧ b.lastResult = some (n, 0) ∧ b.cuts = [] ∧
        b.duplicate = s.bus.duplicate ∧ b.hot = s.ae.hot) := by
  have hop := (s.storeResult n .done).enterPattern_op
  have hk : (s.storeResult n .done).enterPattern.keyOn = true := (State.enterPattern_keyOn (s := s.storeResult n .done) hplaced).trans hkey
  have hsame := State.react_op_same noCue s _ (.inr (.inr (.inr (.inr (.inr (.inr (.inl ⟨hop, hk⟩)))))))
  obtain ⟨hdraw, hregen⟩ := State.react_undrawn noCue s hsame (by rw [hop]; rfl)
  refine ⟨hsame.trans hop, hdraw, hregen, fun hn => ?_⟩
  obtain ⟨hseq, hslot, -⟩ := State.enterPattern_bus (s := s.storeResult n .done) hn
  obtain ⟨dslot, dseq, -⟩ := (s.storeResult n .done).enterPattern.driverCut_bus
  have h0 : s.osm.op ≠ .loading ∧ s.osm.op ≠ .dormant := by rw [ho]; exact ⟨nofun, nofun⟩
  rw [State.react_bus rfl hsame h0, dslot, dseq]
  obtain ⟨pbus, pcuts, posm, pae⟩ := (s.storeResult n .done).patternEntered_same
  refine ⟨hseq, _, hslot, ?_⟩
  have hop' : (s.storeResult n .done).patternEntered.osm.op = .pattern := congrArg OpMachine.op posm
  unfold State.ownBeacon State.ownCuts
  rw [pbus, pcuts, pae, hop']
  refine ⟨rfl, rfl, rfl, rfl, rfl, rfl, rfl, rfl, rfl, ?_, rfl, rfl⟩
  rw [show (s.storeResult n .done).cc.cuts = [] from hc]
  rfl

end

/-- Settles O43: the results of R190, the entry beacon, and the end of pattern mode. -/
theorem patternModeBeginsAndEnds : Obligations.PatternModeBeginsAndEnds := by
  refine ⟨fun k s h => ⟨_, congrArg Host.Outcome.next (State.judge_receives h), ?_⟩, fun k s h =>
    ⟨_, congrArg Host.Outcome.next (State.judge_receives h), ?_⟩⟩
  · have htake : s.takeCommand k.toNat .patternOff =
        if s.osm.op = .pattern then (s.storeResult k.toNat .done).endPattern else s.storeResult k.toNat .done := rfl
    rw [htake]
    by_cases hp : s.osm.op = .pattern
    · rw [if_pos hp]
      have hop : (s.storeResult k.toNat .done).endPattern.osm.op = .listening := rfl
      have hsame := State.react_op_same noCue s _ (.inr (.inr (.inr (.inl hop))))
      exact ⟨(Carried.react noCue s _).lastResult, fun _ => ⟨hsame.trans hop, (State.react_kept noCue s _ hsame).2.1⟩⟩
    · rw [if_neg hp]
      exact ⟨State.react_result _ _, fun h => absurd h hp⟩
  · have htake : s.takeCommand k.toNat .patternOn = s.takePatternOn k.toNat := rfl
    rw [htake, State.takePatternOn_eq, ← s.patternResult_code]
    refine ⟨?_, fun ho hd hc hp hs hkey hn => ?_⟩
    · rw [(Carried.react noCue s _).lastResult]
      split
      · exact State.enterPattern_lastResult _
      · rfl
    · rw [State.patternResult_eq_done ho hd hc hp hs, if_pos rfl]
      refine State.react_enterPattern ho hc hkey fun hown => hn.elim id fun hne => ?_
      unfold State.isOwn at hown
      simp only [Bool.and_eq_true, beq_iff_eq] at hown
      exact absurd hown.1.symm hne

end Sys2Proof.Machine

/-! The reaction at a calm station moves nothing (R42, R142, R148, R198), and an ACK_ALARMS there (R168). -/

namespace Sys2Proof.Machine

section
variable {s u : State}

theorem State.placeOn_au (s : State) (c : Fin 4) (p : Nat) : (s.placeOn c p).au = s.au := by
  unfold State.placeOn
  split <;> rfl

theorem State.spread_au (limit : State → Fin 4 → Nat) (l : List (Fin 4)) (s : State) (left : Nat) :
    (State.spread limit s left l).1.au = s.au := by
  induction l generalizing s left with
  | nil => rfl
  | cons c l ih => exact (ih _ _).trans (s.placeOn_au c _)

/-- What follows the admission in a pass over the blocks leaves the alarm unit. -/
theorem State.afterAdmission_au (cue : Cue) (s : State) : (s.settleRestoring.rebuildClaims.settleShare cue).au = s.au := by
  have h : s.settleRestoring.rebuildClaims.au = s.au := by
    unfold State.settleRestoring
    split <;> rfl
  unfold State.settleShare
  split
  · exact (State.spread_au _ _ _ _).trans h
  · exact (State.spread_au _ _ _ _).trans h

/-- R42, R57: the forcing at a station on which it has nothing left to do. -/
theorem State.forceZero_quiet (hf : s.forced = true → s.ae.draw = 0 ∧ s.inForce .sinkShort 0 = false) :
    ∃ e, s.forceZero = s.withAe e ∧ e.draw = s.ae.draw := by
  unfold State.forceZero
  split
  · next h =>
    obtain ⟨hd, hs⟩ := hf h
    refine ⟨_, if_neg (fun k => ?_), hd.symm⟩
    have k := (Bool.and_eq_true_iff.mp k).2
    rw [show (s.withAe { s.ae with draw := 0, regen := 0, share := 0, shareBase := 0 }).inForce .sinkShort 0 =
      s.inForce .sinkShort 0 from rfl, hs] at k
    cases k
  · exact ⟨s.ae, rfl, rfl⟩

/-- R142: no admission event is made where the applied draw stays and no channel has changed. -/
theorem State.admissions_quiet {s0 : State} {os : List Inhibits} (ho : ∀ o ∈ os, o = noInhibits)
    (hd : s.ae.draw = s0.ae.draw) (hc : ∀ c, State.channelEvent s0 s c = false) : State.admissions noCue os s0 s = s := by
  have hreach : ∀ c, noInhibits.reaches c = false := by decide
  have hpulse : ∀ c, pulses os c = false := fun c => by
    unfold pulses
    rw [Bool.and_eq_false_iff, List.any_eq_false]
    exact .inl fun o h => by rw [ho o h, hreach c]; decide
  unfold State.admissions
  dsimp only
  rw [if_pos hd, if_neg]
  have hpresent : s.present.any (pulses os) = false := List.any_eq_false.mpr fun c _ => by rw [hpulse c]; decide
  have hevents : channelNumbers.any (State.channelEvent s0 s) = false := List.any_eq_false.mpr fun c _ => by rw [hc c]; decide
  rw [hpresent, hevents, Bool.and_false]
  decide

/-- The whole of a step at a calm station that moves no channel, no cut and no pole: the alarm table stays as the command
left it. -/
theorem State.react_calm {s0 : State} (hd : u.DriverSettled) (hl : u.LoadsSettled)
    (hf : u.forced = true → u.ae.draw = 0 ∧ u.inForce .sinkShort 0 = false) (hm : u.autoMove.osm.op = u.osm.op)
    (hdraw : u.ae.draw = s0.ae.draw) (hp : s0.pwu = u.pwu) (hcc : s0.cc = u.cc)
    (hc : ∀ c, State.channelEvent s0 u c = false) :
    (State.react noCue s0 u).au = u.au ∧ (State.react noCue s0 u).osm.op = u.osm.op := by
  obtain ⟨e, hz, he⟩ := State.forceZero_quiet hf
  have hos : ∀ o ∈ State.outputPath noCue.through (s0.pathBase noCue) (u.withAe e), o = noInhibits := fun o h =>
    (State.outputPath_same (s := u.withAe e) hp hcc o h).trans hl.1
  have hblocks : State.settleBlocks noCue s0 u =
      State.passFrom noCue (State.outputPath noCue.through (s0.pathBase noCue) (u.withAe e)) s0 (u.withAe e) := by
    rw [State.settleBlocks_eq, u.driverCut_settled hd, hz]
  have hau : (State.settleBlocks noCue s0 u).au = u.au := by
    rw [hblocks]
    unfold State.passFrom
    generalize State.outputPath noCue.through (s0.pathBase noCue) (u.withAe e) = os at hos
    obtain ⟨i, n, e', h1, h2⟩ := (u.withAe e).beforeAdmission_quiet os hos hl
    have hadm := State.admissions_quiet (s := (((u.withAe e).withIa i).withShed n).withAe e') hos (h2.trans (he.trans hdraw)) hc
    rw [h1, hadm, State.afterAdmission_au]
    rfl
  have hdr : (State.settleBlocks noCue s0 u).ae.draw = u.ae.draw := by
    have h := (Pass.afterDriver noCue s0 u).draw
    rw [u.driverCut_settled hd] at h
    rw [h]
    split
    · next hforced => exact (hf hforced).1.symm
    · rfl
  have hop : (State.settleBlocks noCue s0 u).autoMove.osm.op = (State.settleBlocks noCue s0 u).osm.op := by
    have h := u.autoMove_op
    rw [State.autoMove_op, State.settleBlocks_keyOn, hdr, (Kept.settleBlocks noCue s0 u).osm, ← h, hm]
  have hc := Closed.react noCue s0 u
  rw [State.settleMove_same _ hop] at hc
  exact ⟨hc.au.trans hau, hc.op.trans (congrArg OpMachine.op (Kept.settleBlocks noCue s0 u).osm)⟩

/-- R168: the entries after one record of an ACK_ALARMS. -/
def ackEntries (s : State) (es : List AlarmEntry) (r : AckRecord) : List AlarmEntry :=
  (es.filter (fun e => !(s.named r e && e.state == .clearedUnack))).map (fun e =>
    if s.named r e && e.state == .activeUnack then { e with state := .activeAck } else e)

theorem State.named_eq {r : AckRecord} {k : AlarmKind} (h : alarmKindOfCode r.kind.toNat = some k) (e : AlarmEntry) :
    s.named r e = (s.isOwnKey k r.qualifier.toNat e && e.count == r.count.toNat) := by
  unfold State.named State.isOwnKey
  rw [h, Option.some_beq_some]
  have hcomm : (k == e.kind) = (e.kind == k) := by rw [Bool.eq_iff_iff, beq_iff_eq, beq_iff_eq, eq_comm]
  rw [hcomm]

theorem State.named_unknown {r : AckRecord} (h : alarmKindOfCode r.kind.toNat = none) (e : AlarmEntry) : s.named r e = false := by
  unfold State.named
  rw [h]
  simp

/-- R168: the alarm unit alone is changed by an ACK_ALARMS, by its records in order. -/
theorem State.ackAll_only (s : State) (rs : List AckRecord) : ∃ a, (s.ackAll rs).1 = s.withAu a ∧
    a.inForce = s.au.inForce ∧ a.entries = rs.foldl (ackEntries s) s.au.entries := by
  induction rs generalizing s with
  | nil => exact ⟨s.au, rfl, rfl, rfl⟩
  | cons r rs ih =>
    unfold State.ackAll
    split
    · next h =>
      obtain ⟨a, ha, hi, he⟩ := ih s
      refine ⟨a, ha, hi, ?_⟩
      have hsame : ackEntries s s.au.entries r = s.au.entries := by
        unfold ackEntries
        simp [State.named_unknown h]
      rw [List.foldl_cons, hsame, he]
    · next k h =>
      dsimp only
      have hone : ∃ b, s.ackOne k r.qualifier.toNat r.count.toNat = s.withAu b ∧ b.inForce = s.au.inForce ∧
          b.entries = ackEntries s s.au.entries r := by
        refine ⟨_, rfl, ?_, ?_⟩
        · show (s.au.remove _).inForce = _
          unfold AlarmUnit.remove
          dsimp only
          split <;> rfl
        · show (s.au.remove _).entries.map _ = _
          rw [AlarmUnit.remove_entries]
          unfold ackEntries
          simp only [State.named_eq h]
      obtain ⟨b, hb, hbi, hbe⟩ := hone
      rw [hb]
      obtain ⟨a, ha, hi, he⟩ := ih (s.withAu b)
      refine ⟨a, ha, hi.trans hbi, ?_⟩
      rw [he, List.foldl_cons, ← hbe]
      rfl

theorem State.ackAll_single (s : State) (r : AckRecord) : (s.ackAll [r]).2 = true ↔ ∃ e ∈ s.au.entries, s.ownAlarm e = true ∧
    alarmKindOfCode r.kind.toNat = some e.kind ∧ e.qualifier = r.qualifier.toNat ∧ e.count ≠ r.count.toNat := by
  unfold State.ackAll
  split
  · next h => simp [h, State.ackAll]
  · next k h =>
    simp only [State.ackAll, Bool.or_false, State.ackStale, List.any_eq_true, State.isOwnKey, Bool.and_eq_true, beq_iff_eq,
      bne_iff_ne, h, Option.some.injEq]
    constructor
    · rintro ⟨e, he, ⟨⟨ho, hk⟩, hq⟩, hc⟩
      exact ⟨e, he, ho, hk.symm, hq, hc⟩
    · rintro ⟨e, he, ho, hk, hq, hc⟩
      exact ⟨e, he, ⟨⟨ho, hk.symm⟩, hq⟩, hc⟩

theorem State.channelEvent_self (h : u.lcm = s.lcm) (c : Fin 4) : State.channelEvent s u c = false := by
  unfold State.channelEvent State.chan
  rw [h]
  simp

end

/-- Settles O42: the answer by the records' staleness, and at a calm station the table the records leave (`react_calm`). -/
theorem alarmsAreAcknowledged : Obligations.AlarmsAreAcknowledged := by
  intro k rs s h
  refine ⟨_, congrArg Host.Outcome.next (State.judge_receives h), ?_⟩
  obtain ⟨a, ha, hi, he⟩ := s.ackAll_only rs
  have htake : s.takeCommand k.toNat (.ackAlarms rs) =
      (s.withAu a).storeResult k.toNat (if (s.ackAll rs).2 then .ignoredStale else .done) := by
    rw [← ha]
    rfl
  have hresult : (State.react noCue s (s.takeCommand k.toNat (.ackAlarms rs))).bus.lastResult =
      some (k.toNat, if (s.ackAll rs).2 then 5 else 0) := by
    rw [htake, State.react_result]
    cases (s.ackAll rs).2 <;> rfl
  refine ⟨hresult, fun r hr => ?_, fun ⟨hd, hl, hf, hm⟩ => ?_⟩
  · subst hr
    rw [hresult]
    simp only [State.ackAll_single]
  · rw [htake]
    have hforce : ((s.withAu a).storeResult k.toNat (if (s.ackAll rs).2 then .ignoredStale else .done)).inForce .sinkShort 0 =
        s.inForce .sinkShort 0 := congrArg (fun l => l.contains (AlarmKind.sinkShort, 0)) hi
    generalize (if (s.ackAll rs).2 then Result.ignoredStale else .done) = r at hforce ⊢
    have hm : ((s.withAu a).storeResult k.toNat r).autoMove.osm.op = ((s.withAu a).storeResult k.toNat r).osm.op := by
      have h := s.autoMove_op
      rw [hm] at h
      rw [State.autoMove_op]
      exact h.symm
    have hcalm := State.react_calm (s0 := s) (u := (s.withAu a).storeResult k.toNat r) hd hl
      (fun k => ⟨(hf k).1, hforce.trans (hf k).2⟩) hm rfl rfl rfl (State.channelEvent_self rfl)
    rw [hcalm.1]
    exact he

end Sys2Proof.Machine

/-! The pattern check of the console and STATION_LOST (R178, R193). -/

namespace Sys2Proof.Machine

section
variable {s t u : State} {n : Nat}

/-- R165: a condition that a block ends is in force no more. -/
theorem State.clearCond_ends (k : AlarmKind) (q : Nat) (h : s.osm.op.alarmsTaken = true) : (s.clearCond k q).inForce k q = false := by
  unfold State.clearCond
  rw [h, Bool.true_and]
  split
  · show (AlarmUnit.remove _ _).inForce.contains (k, q) = false
    rw [AlarmUnit.remove_inForce]
    show (s.au.inForce.filter _).contains (k, q) = false
    simp
  · next h => exact Bool.eq_false_iff.mpr h

/-- What of the conditions in force an operation that keeps what a pass keeps leaves (R165). -/
theorem Kept.inForce_of (h : Kept s t) (k : AlarmKind) (q : Nat) (hb : blockCondition (k, q) = false) :
    t.inForce k q = s.inForce k q := by
  have key : ∀ a : AlarmUnit, a.inForce.contains (k, q) = a.steady.contains (k, q) := by
    intro a
    unfold AlarmUnit.steady
    rw [Bool.eq_iff_iff]
    simp [List.mem_filter, hb]
  unfold State.inForce
  rw [key, key, h.inForce]

theorem State.createMirror_entriesOnly (s : State) (e : AlarmEntry) : ∃ a, s.createMirror e = s.withAu a ∧ a.inForce = s.au.inForce := by
  unfold State.createMirror
  split
  · split
    · exact ⟨_, rfl, AlarmUnit.remove_inForce _ _⟩
    · exact ⟨_, rfl, rfl⟩
  · exact ⟨_, rfl, rfl⟩

theorem State.mirrorOne_entriesOnly (s : State) (n : Nat) (r : AlarmRecord) : ∃ a, s.mirrorOne n r = s.withAu a ∧ a.inForce = s.au.inForce := by
  unfold State.mirrorOne
  dsimp only
  split
  · exact ⟨_, rfl, rfl⟩
  · exact State.createMirror_entriesOnly s _

/-- R170: a report changes the alarm unit's entries alone. -/
theorem State.mirrorReport_only (s : State) (n : Nat) (rs : List AlarmRecord) :
    ∃ a, s.mirrorReport n rs = s.withAu a ∧ a.inForce = s.au.inForce := by
  have key : ∀ (l : List AlarmRecord) (t : State), ∃ a,
      l.foldl (fun t r => t.mirrorOne n r) t = t.withAu a ∧ a.inForce = t.au.inForce := by
    intro l
    induction l with
    | nil => exact fun t => ⟨t.au, rfl, rfl⟩
    | cons r l ih =>
      intro t
      obtain ⟨a, ha, hi⟩ := t.mirrorOne_entriesOnly n r
      obtain ⟨b, hb, hj⟩ := ih (t.mirrorOne n r)
      rw [ha] at hb hj
      exact ⟨b, by rw [List.foldl_cons, ha, hb]; rfl, hj.trans hi⟩
  unfold State.mirrorReport
  dsimp only
  obtain ⟨a, ha, hi⟩ := key (firstRecords [] rs)
    (s.withAu { s.au with entries := s.au.entries.filter (fun e => !unreported n (firstRecords [] rs) e) })
  rw [ha]
  split
  · exact ⟨_, rfl, hi⟩
  · exact ⟨a, rfl, hi⟩

/-- R193: a check record read after one is replaced. -/
theorem State.check_setCheck (s : State) (c : PatternCheck) (h : 1 ≤ n ∧ n ≤ 15) : (s.setCheck n c).check n = c := by
  have e : (s.setCheck n c).check n = if n = n ∧ 1 ≤ n ∧ n ≤ 15 then c else s.check n := stationGet_stationPut _ _ _ _ _
  rw [e, if_pos ⟨rfl, h⟩]

/-- A check record is read of the console functions alone. -/
theorem State.check_congr (h : t.cf = s.cf) : t.check n = s.check n := by
  unfold State.check
  rw [h]

theorem State.onset_cf (s : State) (k : AlarmKind) (q : Nat) : (s.onset k q).cf = s.cf := by
  obtain ⟨a, ha, -⟩ := s.onset_only k q
  rw [ha]
  rfl

theorem State.clearCond_cf (s : State) (k : AlarmKind) (q : Nat) : (s.clearCond k q).cf = s.cf := by
  obtain ⟨a, ha, -⟩ := s.clearCond_only k q
  rw [ha]
  rfl

theorem State.react_check (cue : Cue) (s0 : State) (n : Nat) : (State.react cue s0 u).check n = u.check n := by
  have h : (State.react cue s0 u).cf.carried.checks = u.cf.carried.checks :=
    congrArg ConsoleUnit.checks (Carried.react cue s0 u).cf
  exact congrArg (fun l => stationGet closedCheck l n) h

/-- R92: at the console no rule of the pole watch unit runs. -/
theorem State.polesReadTable_console (h : s.osm.role = .console) : s.polesReadTable = s := by
  refine if_neg fun k => ?_
  have hr := (State.polesRun_role k).1
  rw [h] at hr
  cases hr

theorem State.checksPatterns_of (hr : s.osm.role = .console) (ho : s.osm.op.serves = true) : s.checksPatterns = true := by
  unfold State.checksPatterns
  rw [hr, ho]
  rfl

theorem State.checkPattern_osm (s : State) (n : Nat) (p : List Byte) : (s.checkPattern n p).osm = s.osm := by
  unfold State.checkPattern
  split
  · dsimp only
    split
    · exact State.clearCond_osm _ _ _
    · exact State.onset_osm _ _ _
  · rfl

theorem State.checkBeacon_osm (s : State) (n : Nat) (pattern : Bool) : (s.checkBeacon n pattern).osm = s.osm := by
  unfold State.checkBeacon
  split
  · split
    · split <;> rfl
    · exact (State.closeCheck_same s n).2
  · rfl

/-- R193: the check record and the condition after a PATTERN frame is checked. -/
theorem State.checkPattern_spec (s : State) (n : Nat) (p : List Byte) (hr : s.osm.role = .console) (ho : s.osm.op.serves = true)
    (hn : 1 ≤ n ∧ n ≤ 15) : (s.checkPattern n p).check n = ⟨true, 0, false⟩ ∧
      (s.checkPattern n p).inForce .patternError n = decide (p ≠ patternBytes n) ∧
      (s.checkPattern n p).inForce .stationLost n = s.inForce .stationLost n := by
  have hcheck := State.check_setCheck s ⟨true, 0, false⟩ hn
  have htaken : (s.setCheck n ⟨true, 0, false⟩).osm.op.alarmsTaken = true := OpState.serves_taken ho
  have hforce : (s.setCheck n ⟨true, 0, false⟩).inForce .stationLost n = s.inForce .stationLost n := rfl
  unfold State.checkPattern
  rw [if_pos (State.checksPatterns_of hr ho)]
  dsimp only
  generalize s.setCheck n ⟨true, 0, false⟩ = u at hcheck htaken hforce ⊢
  by_cases hp : p = patternBytes n
  · rw [if_pos hp, State.check_congr (State.clearCond_cf _ _ _), State.clearCond_ends _ _ htaken,
      State.clearCond_inForce _ _ _ _ _ (by simp)]
    exact ⟨hcheck, by simp [hp], hforce⟩
  · rw [if_neg hp, State.check_congr (State.onset_cf _ _ _), State.onset_inForce, State.onset_inForce, htaken]
    exact ⟨hcheck, by simp [hp], by rw [hforce]; simp⟩

/-- R178: what the hearing of a station ends. -/
theorem State.stationFound_spec (s : State) (n : Nat) (hr : s.osm.role = .console) (ho : s.osm.op.alarmsTaken = true) :
    (s.stationFound n).cf = s.cf ∧ (s.stationFound n).osm = s.osm ∧ (s.stationFound n).inForce .stationLost n = false ∧
      (s.stationFound n).inForce .patternError n = s.inForce .patternError n := by
  have h : s.stationFound n = s.clearCond .stationLost n := if_pos hr
  rw [h]
  exact ⟨State.clearCond_cf _ _ _, State.clearCond_osm _ _ _, State.clearCond_ends _ _ ho,
    State.clearCond_inForce _ _ _ _ _ (by simp)⟩

/-- R193: the check record and the condition after a beacon is taken. -/
theorem State.checkBeacon_spec (s : State) (n : Nat) (pattern : Bool) (hr : s.osm.role = .console) (ho : s.osm.op.serves = true)
    (hn : 1 ≤ n ∧ n ≤ 15) :
    (s.checkBeacon n pattern).inForce .stationLost n = s.inForce .stationLost n ∧
    (pattern = false → (s.checkBeacon n pattern).check n = closedCheck ∧
      (s.checkBeacon n pattern).inForce .patternError n = false) ∧
    (pattern = true → (s.checkBeacon n pattern).check n = (if (s.check n).opened then s.check n else ⟨true, 0, false⟩) ∧
      (s.checkBeacon n pattern).inForce .patternError n = s.inForce .patternError n) := by
  unfold State.checkBeacon
  rw [if_pos (State.checksPatterns_of hr ho)]
  cases pattern with
  | true =>
    refine ⟨?_, nofun, fun _ => ?_⟩
    · cases (s.check n).opened <;> rfl
    · cases hop : (s.check n).opened with
      | true => exact ⟨rfl, rfl⟩
      | false => exact ⟨State.check_setCheck s _ hn, rfl⟩
  | false =>
    have hcheck := State.check_setCheck s closedCheck hn
    have hclose : (s.closeCheck n).check n = closedCheck := (State.check_congr (State.clearCond_cf _ _ _)).trans hcheck
    refine ⟨State.clearCond_inForce _ _ _ _ _ (by simp), fun _ => ⟨hclose, State.clearCond_ends _ _ ?_⟩, nofun⟩
    exact OpState.serves_taken ho

/-- R2, R170: what a beacon's entry, cuts and report leave of the console functions and the conditions in force. -/
theorem State.takeBeacon_before (s : State) (n : Nat) (b : Beacon) :
    ∃ x : State, s.takeBeacon n b = ((x.stationFound n).checkBeacon n b.pattern).polesReadTable ∧ x.cf = s.cf ∧ x.osm = s.osm ∧
      x.inForce .patternError n = s.inForce .patternError n := by
  have hjudge : ∀ t : State, (t.judgeMismatch n).cf = t.cf ∧ (t.judgeMismatch n).osm = t.osm ∧
      (t.judgeMismatch n).inForce .patternError n = t.inForce .patternError n := fun t => by
    unfold State.judgeMismatch
    split
    · refine ⟨State.onset_cf _ _ _, State.onset_osm _ _ _, ?_⟩
      rw [State.onset_inForce]
      simp
    · exact ⟨State.clearCond_cf _ _ _, State.clearCond_osm _ _ _, State.clearCond_inForce _ _ _ _ _ (by simp)⟩
  obtain ⟨jcf, josm, jforce⟩ := hjudge (s.setEntry n (s.beaconEntry n b))
  unfold State.takeBeacon
  dsimp only
  generalize (s.setEntry n (s.beaconEntry n b)).judgeMismatch n = a at jcf josm jforce
  have k := Kept.putCuts a (applyCutList a.cc.cuts n b.cuts)
  have kforce := k.inForce_of .patternError n rfl
  have kcf := k.cf
  have kosm := k.osm
  generalize a.putCuts (applyCutList a.cc.cuts n b.cuts) = y at kforce kcf kosm
  obtain ⟨m, hm, hi⟩ := y.mirrorReport_only n b.alarms
  refine ⟨y.mirrorReport n b.alarms, rfl, ?_, ?_, ?_⟩
  · rw [hm]; exact kcf.trans jcf
  · rw [hm]; exact kosm.trans josm
  · rw [hm]
    exact (congrArg (fun l => l.contains (AlarmKind.patternError, n)) hi).trans (kforce.trans jforce)

/-- R178, R193: the whole of the step in which a peer's entry becomes PHANTOM, for the condition of STATION_LOST. -/
theorem State.becomePhantom_stationLost (hr : s.osm.role = .console) (ho : s.osm.op.serves = true) (hn : 1 ≤ n ∧ n ≤ 15) :
    (s.becomePhantom n).inForce .stationLost n =
      (s.inForce .stationLost n || decide ((s.entry n).beacon.map Beacon.op ≠ some .parked)) := by
  rw [State.becomePhantom_eq]
  obtain ⟨hpvt, hosm⟩ := s.phantomMarked_same n
  have hentry : (s.phantomMarked n).entry n = { s.entry n with state := .phantom, phantom := 10 * (s.entry n).pe } := by
    have e := State.entry_setEntry s n n { s.entry n with state := .phantom, phantom := 10 * (s.entry n).pe }
    rw [if_pos ⟨rfl, hn⟩] at e
    unfold State.entry at e ⊢
    rw [hpvt]
    exact e
  have hforce : (s.phantomMarked n).inForce .stationLost n = s.inForce .stationLost n :=
    (Kept.putCuts (s.setEntry n { s.entry n with state := .phantom, phantom := 10 * (s.entry n).pe })
      (dropOrigin s.cc.cuts n)).inForce_of .stationLost n rfl
  generalize s.phantomMarked n = u at hosm hentry hforce ⊢
  have hrole : (u.stationLost n).osm.role = .console := by
    rw [(u.stationLost_same n).2, hosm]
    exact hr
  rw [State.polesReadTable_console hrole]
  unfold State.stationLost
  rw [hosm, hentry]
  by_cases hb : (s.entry n).beacon.map Beacon.op = some .parked
  · rw [if_neg (fun h => h.2.2 hb), hforce]
    simp [hb]
  · rw [if_pos ⟨hr, ho, hb⟩, State.onset_inForce, hosm, OpState.serves_taken ho, hforce]
    simp [hb]

/-- R193: the end of a phantom hold at the console closes the check record. -/
theorem State.becomeEmpty_check (hr : s.osm.role = .console) (ho : s.osm.op.serves = true) (hn : 1 ≤ n ∧ n ≤ 15) :
    (s.becomeEmpty n).check n = closedCheck ∧ (s.becomeEmpty n).inForce .patternError n = false ∧
      (s.becomeEmpty n).inForce .stationLost n = s.inForce .stationLost n := by
  rw [State.becomeEmpty_eq]
  obtain ⟨-, hosm⟩ := s.emptied_same n
  have hforce : (s.emptied n).inForce .stationLost n = s.inForce .stationLost n := by
    unfold State.emptied
    unfold State.dropOrphans
    have hclear : ((s.setEntry n (emptyEntry (s.entry n).pe)).clearCond .paramMismatch n).inForce .stationLost n =
        s.inForce .stationLost n := State.clearCond_inForce _ _ _ _ _ (by simp)
    generalize (s.setEntry n (emptyEntry (s.entry n).pe)).clearCond .paramMismatch n = a at hclear ⊢
    have k := (Kept.putCuts a (dropOrigin a.cc.cuts n)).inForce_of .stationLost n rfl
    generalize a.putCuts (dropOrigin a.cc.cuts n) = b at k ⊢
    split
    · exact k.trans hclear
    · exact (congrArg (fun l => l.contains (AlarmKind.stationLost, n)) (AlarmUnit.remove_inForce _ _)).trans (k.trans hclear)
  generalize s.emptied n = u at hosm hforce ⊢
  have hur : u.osm.role = .console := by rw [hosm]; exact hr
  rw [if_pos hur]
  have hcosm := (State.closeCheck_same u n).2
  rw [State.polesReadTable_console (by rw [hcosm]; exact hur)]
  refine ⟨(State.check_congr (State.clearCond_cf _ _ _)).trans (State.check_setCheck u closedCheck hn), State.clearCond_ends _ _ ?_,
    (State.clearCond_inForce _ _ _ _ _ (by simp)).trans hforce⟩
  show u.osm.op.alarmsTaken = true
  rw [hosm]
  exact OpState.serves_taken ho

end

/-- A number of a station that is not 0. -/
theorem station_range {n : Fin 16} (h : n ≠ 0) : 1 ≤ n.val ∧ n.val ≤ 15 := by
  have := n.isLt
  have : n.val ≠ 0 := fun k => h (Fin.ext k)
  omega

theorem OpState.serves_receives {o : OpState} (h : o.serves = true) : o.receives = true := by
  cases o with
  | loading => cases h
  | maintenance => cases h
  | dormant => cases h
  | _ => rfl

/-- A station that a frame names is one of the fifteen. -/
theorem checkFrame_range {f : Frame} {r : Received} (h : checkFrame f = some r) : 1 ≤ r.station ∧ r.station ≤ 15 := by
  obtain ⟨hs, h0⟩ := checkFrame_station h
  have := f.station.isLt
  omega

/-- Settles O46: each row's check record and conditions pass the reaction unchanged. -/
theorem patternSilence : Obligations.PatternSilence := by
  refine ⟨fun f n p s hr ho hk hf hn => ⟨_, rfl, ?_⟩, fun f n b s hr ho hk hf hn => ⟨_, rfl, ?_⟩,
    fun n s hn hpeer hr ho => ⟨fun hf hd => ⟨_, rfl, ?_⟩, fun hf hd => ⟨_, rfl, ?_⟩⟩, fun n s hn hd => ⟨_, rfl, ?_⟩⟩
  · have hrange : 1 ≤ n ∧ n ≤ 15 := checkFrame_range hf
    rw [State.receive_eq s 4 f _ _ (OpState.serves_receives ho) (by rw [hk]; rfl) hf]
    have hown : s.isOwn (Received.pattern n p).station = false := hn
    rw [hown, if_neg Bool.false_ne_true]
    show _ ∧ _
    rw [State.react_check, State.react_inForce _ _ _ _ _ rfl, State.react_inForce _ _ _ _ _ rfl]
    dsimp only
    unfold State.takePattern
    obtain ⟨-, fosm, flost, -⟩ := (s.setEntry n (s.patternEntry n)).stationFound_spec n hr (OpState.serves_taken ho)
    generalize (s.setEntry n (s.patternEntry n)).stationFound n = x at fosm flost ⊢
    have hxr : x.osm.role = .console := by rw [fosm]; exact hr
    obtain ⟨hc, he, hl⟩ := x.checkPattern_spec n p hxr (by rw [fosm]; exact ho) hrange
    rw [State.polesReadTable_console (by rw [x.checkPattern_osm]; exact hxr), hc, he, hl]
    exact ⟨rfl, rfl, rfl, rfl, flost⟩
  · have hrange : 1 ≤ n ∧ n ≤ 15 := checkFrame_range hf
    rw [State.receive_eq s 0 f _ _ (OpState.serves_receives ho) (by rw [hk]; rfl) hf]
    have hown : s.isOwn (Received.beacon n b).station = false := hn
    rw [hown, if_neg Bool.false_ne_true]
    rw [State.react_check, State.react_inForce _ _ _ _ _ rfl, State.react_inForce _ _ _ _ _ rfl]
    dsimp only
    obtain ⟨x, hx, xcf, xosm, xerror⟩ := s.takeBeacon_before n b
    rw [hx]
    have hcheck : x.check n = s.check n := State.check_congr xcf
    obtain ⟨ycf, yosm, ylost, yerror⟩ := x.stationFound_spec n (by rw [xosm]; exact hr) (by rw [xosm]; exact OpState.serves_taken ho)
    rw [← State.check_congr ycf] at hcheck
    generalize x.stationFound n = y at ycf yosm ylost yerror hcheck ⊢
    have hyr : y.osm.role = .console := by rw [yosm, xosm]; exact hr
    obtain ⟨zlost, zclosed, zopen⟩ := y.checkBeacon_spec n b.pattern hyr (by rw [yosm, xosm]; exact ho) hrange
    rw [State.polesReadTable_console (by rw [y.checkBeacon_osm]; exact hyr)]
    refine ⟨zlost.trans ylost, fun hp => ?_, fun hp => ?_⟩
    · obtain ⟨hc, he⟩ := zclosed hp
      exact ⟨by rw [hc]; rfl, he⟩
    · obtain ⟨hc, he⟩ := zopen hp
      rw [hc, he, hcheck]
      refine ⟨?_, yerror.trans xerror, fun hclosed => ?_⟩
      · split
        · assumption
        · rfl
      · rw [hclosed]
        exact ⟨rfl, rfl⟩
  · have hdue : s.phantomDue n.val = true := by
      unfold State.phantomDue Entry.heard
      rw [hpeer]
      obtain hf | hf := hf <;> simpa [hf] using hd
    rw [if_pos hdue, State.react_inForce _ _ _ _ _ rfl]
    exact State.becomePhantom_stationLost hr ho (station_range hn)
  · rw [if_pos (by unfold State.holdOver; simp [hf, hd]), State.react_check, State.react_inForce _ _ _ _ _ rfl,
      State.react_inForce _ _ _ _ _ rfl]
    obtain ⟨hc, he, hl⟩ := s.becomeEmpty_check hr ho (station_range hn)
    exact ⟨by rw [hc]; rfl, he, hl⟩
  · rw [if_pos hd, State.react_check, State.react_inForce _ _ _ _ _ rfl, State.onset_inForce,
      State.check_congr (State.onset_cf _ _ _), State.check_setCheck _ _ (station_range hn)]
    unfold State.silenceDue State.checksPatterns at hd
    simp only [Bool.and_eq_true] at hd
    obtain ⟨⟨⟨⟨-, hserves⟩, hopen⟩, -⟩, -⟩ := hd
    have htaken : (s.setCheck n.val { s.check n.val with stopped := true }).osm.op.alarmsTaken = true := OpState.serves_taken hserves
    rw [htaken]
    exact ⟨rfl, hopen, by simp⟩

end Sys2Proof.Machine

/-! The start and the end of the restoration offset (R125, R127), and the forced stop with the places on the shed list (R124, R128,
R144). -/

namespace Sys2Proof.Machine

section
variable (s : State) (d : Fin 4)

@[simp] theorem State.stop_shedCounter (c : Fin 4) : (s.stop c).lcm.shedCounter = s.lcm.shedCounter := by
  have hclear : ∀ t : State, (t.clearShort c).lcm = t.lcm := fun t => by
    obtain ⟨a, ha, -⟩ := t.clearCond_only .shortCycle c.val
    unfold State.clearShort
    rw [ha]
    rfl
  unfold State.stop
  dsimp only
  split
  · rw [hclear]; rfl
  · rfl

/-- R124, R143: the channel as the forced stop leaves it, at the place it is given. -/
def State.stopped (s : State) (c : Fin 4) (place : Option Nat) : Channel :=
  { (s.chan c).leave (shedState (s.record c)) with shedPos := place }

theorem State.stopped_listed (c : Fin 4) (place : Option Nat) : (s.stopped c place).state.listed = true :=
  shedState_listed (s.record c)

theorem ChannelState.running_of_listed {x : ChannelState} (h : x.listed = true) : x.running = false := by
  cases x with
  | shed => rfl
  | suspended => rfl
  | _ => cases h

/-- What of a channel the steps of the forced stop read. -/
theorem State.runs_congr {s t : State} (hr : t.record d = s.record d) (hc : t.chan d = s.chan d) : t.runs d = s.runs d := by
  unfold State.runs
  rw [hr, hc]

theorem State.returnShed_record (p : Placed) : (s.returnShed p).record d = s.record d := (Loads.returnShed s p).recordOf d

/-- R128: what a channel of the restoration record becomes. -/
theorem State.returnShed_chan (p : Placed) : (s.returnShed p).chan d =
    if p.channel = d ∧ s.runs d = true then s.stopped d (some p.position) else s.chan d := by
  unfold State.returnShed
  by_cases hr : s.runs p.channel = true
  · rw [if_pos hr]
    dsimp only
    have hset := State.chan_setChan (s.stop p.channel) p.channel d { (s.stop p.channel).chan p.channel with shedPos := some p.position }
    refine Eq.trans ?_ (hset.trans ?_)
    · rfl
    · by_cases hd : p.channel = d
      · subst hd
        rw [if_pos rfl, if_pos ⟨rfl, hr⟩, State.stop_chan, if_pos rfl]
        rfl
      · rw [if_neg hd, if_neg (fun h => hd h.1), State.stop_chan, if_neg hd]
  · rw [if_neg hr, if_neg (by rintro ⟨rfl, h⟩; exact hr h)]

theorem State.returnShed_counter (p : Placed) : s.lcm.shedCounter ≤ (s.returnShed p).lcm.shedCounter := by
  unfold State.returnShed
  split
  · refine le_trans (le_of_eq ?_) (Nat.le_max_left _ p.position)
    exact (s.stop_shedCounter p.channel).symm
  · exact le_rfl

/-- R128: what the channels of the restoration record become, each by its first entry. -/
theorem State.returnAll_chan (l : List Placed) : (l.foldl State.returnShed s).chan d =
    match l.find? (fun p => p.channel == d) with
    | some p => if s.runs d = true then s.stopped d (some p.position) else s.chan d
    | none => s.chan d := by
  induction l generalizing s with
  | nil => rfl
  | cons p l ih =>
    rw [List.foldl_cons, ih]
    have hchan := s.returnShed_chan d p
    have hrec := s.returnShed_record d p
    by_cases hd : p.channel = d
    · rw [List.find?_cons_of_pos (by simp [hd])]
      have hrest : (s.returnShed p).chan d = if s.runs d = true then s.stopped d (some p.position) else s.chan d := by
        rw [hchan]
        simp only [hd, true_and]
      have hstopped : (s.returnShed p).runs d = false := by
        by_cases hr : s.runs d = true
        · unfold State.runs
          rw [hrest, if_pos hr, ChannelState.running_of_listed (s.stopped_listed d _), Bool.and_false]
        · rw [State.runs_congr d hrec (by rw [hrest, if_neg hr])]
          simpa using hr
      split
      · rw [hstopped]
        exact hrest
      · exact hrest
    · rw [List.find?_cons_of_neg (by simp [hd])]
      have hsame : (s.returnShed p).chan d = s.chan d := by rw [hchan, if_neg (fun h => hd h.1)]
      have hplace : ∀ q, (s.returnShed p).stopped d q = s.stopped d q := fun q => by
        unfold State.stopped
        rw [hsame, hrec]
      simp only [hsame, State.runs_congr d hrec hsame, hplace]

theorem State.returnAll_counter (l : List Placed) : s.lcm.shedCounter ≤ (l.foldl State.returnShed s).lcm.shedCounter := by
  induction l generalizing s with
  | nil => exact le_rfl
  | cons p l ih => exact (s.returnShed_counter p).trans (ih _)

/-- R142: what the stop of every channel leaves. -/
theorem State.stopAll_chan : s.stopAll.chan d = if s.runs d = true then s.stopped d none else s.chan d := by
  have key : ∀ (l : List (Fin 4)) (t : State), (l.foldl (fun t c => if t.runs c then t.stop c else t) t).chan d =
      if d ∈ l ∧ t.runs d = true then t.stopped d none else t.chan d := by
    intro l
    induction l with
    | nil => exact fun t => rfl
    | cons c l ih =>
      intro t
      rw [List.foldl_cons]
      by_cases hr : t.runs c = true
      · rw [if_pos hr, ih]
        have hrec := (Loads.stop t c hr).recordOf d
        have hchan := t.stop_chan c d
        by_cases hd : c = d
        · subst hd
          rw [if_pos rfl] at hchan
          have hstopped : (t.stop c).runs c = false := by
            unfold State.runs
            rw [hchan]
            exact (congrArg (_ && ·) (ChannelState.running_of_listed (shedState_listed (t.record c)))).trans (Bool.and_false _)
          rw [if_neg (by simp [hstopped]), if_pos ⟨List.mem_cons_self, hr⟩, hchan]
          rfl
        · rw [if_neg hd] at hchan
          have hplace : (t.stop c).stopped d none = t.stopped d none := by
            unfold State.stopped
            rw [hchan, hrec]
          simp [hchan, State.runs_congr d hrec hchan, hplace, Ne.symm hd]
      · rw [if_neg hr, ih]
        by_cases hd : c = d
        · subst hd
          simp [hr]
        · simp [Ne.symm hd]
  unfold State.stopAll
  rw [key]
  simp [mem_channelNumbers]

theorem State.stopAll_counter : s.stopAll.lcm.shedCounter = s.lcm.shedCounter := by
  have key : ∀ (l : List (Fin 4)) (t : State),
      (l.foldl (fun t c => if t.runs c then t.stop c else t) t).lcm.shedCounter = t.lcm.shedCounter := by
    intro l
    induction l with
    | nil => exact fun t => rfl
    | cons c l ih =>
      intro t
      rw [List.foldl_cons, ih]
      split
      · exact t.stop_shedCounter c
      · rfl
  exact key _ s

/-- R144: one channel takes its place. -/
def State.placeOne (t : State) (c : Fin 4) : State :=
  if t.onList c && (t.chan c).shedPos == none then
    let p := t.lcm.shedCounter + 1
    let u := t.setChan c { t.chan c with shedPos := some p }
    u.withLcm { u.lcm with shedCounter := p }
  else t

theorem State.placeOne_other {c : Fin 4} (h : c ≠ d) : (s.placeOne c).chan d = s.chan d := by
  unfold State.placeOne
  split
  · exact (State.chan_setChan s c d _).trans (if_neg h)
  · rfl

theorem State.placeOne_record (c : Fin 4) : (s.placeOne c).record d = s.record d := by
  unfold State.placeOne
  split <;> rfl

theorem State.placeOne_counter (c : Fin 4) : s.lcm.shedCounter ≤ (s.placeOne c).lcm.shedCounter := by
  unfold State.placeOne
  split
  · exact Nat.le_succ _
  · exact le_rfl

/-- R144: a channel on the list that holds a place, or is not on the list, keeps what it is. -/
theorem State.placeAll_stays (l : List (Fin 4)) (h : (s.onList d && (s.chan d).shedPos == none) = false) :
    (l.foldl State.placeOne s).chan d = s.chan d := by
  induction l generalizing s with
  | nil => rfl
  | cons c l ih =>
    have hone : (s.placeOne c).chan d = s.chan d := by
      by_cases hd : c = d
      · subst hd
        unfold State.placeOne
        rw [if_neg (by rw [h]; exact Bool.false_ne_true)]
      · exact s.placeOne_other d hd
    rw [List.foldl_cons, ih, hone]
    unfold State.onList at h ⊢
    rw [s.placeOne_record, hone]
    exact h

/-- R144: a channel newly on the list takes a place behind every place taken. -/
theorem State.placeAll_takes (l : List (Fin 4)) (hl : d ∈ l) (h : (s.onList d && (s.chan d).shedPos == none) = true) :
    ∃ q, s.lcm.shedCounter < q ∧ (l.foldl State.placeOne s).chan d = { s.chan d with shedPos := some q } := by
  induction l generalizing s with
  | nil => cases hl
  | cons c l ih =>
    rw [List.foldl_cons]
    by_cases hd : c = d
    · subst hd
      have hone : (s.placeOne c).chan c = { s.chan c with shedPos := some (s.lcm.shedCounter + 1) } := by
        unfold State.placeOne
        rw [if_pos h]
        exact (State.chan_setChan s c c _).trans (if_pos rfl)
      refine ⟨s.lcm.shedCounter + 1, Nat.lt_succ_self _, ?_⟩
      rw [State.placeAll_stays _ _ _ (by rw [hone]; exact Bool.and_false _), hone]
    · have hone := s.placeOne_other d hd
      have hnew : ((s.placeOne c).onList d && ((s.placeOne c).chan d).shedPos == none) = true := by
        unfold State.onList at h ⊢
        rw [s.placeOne_record, hone]
        exact h
      obtain ⟨q, hq, ht⟩ := ih (s.placeOne c) ((List.mem_cons.mp hl).resolve_left (Ne.symm hd)) hnew
      exact ⟨q, (s.placeOne_counter c).trans_lt hq, by rw [ht, hone]⟩

theorem State.resetCounter_chan : s.resetCounter.chan d = s.chan d := by
  unfold State.resetCounter
  split <;> rfl

theorem State.finishShed_stays (h : (s.onList d && (s.chan d).shedPos == none) = false) : s.finishShed.chan d = s.chan d :=
  (State.resetCounter_chan _ d).trans (s.placeAll_stays d _ h)

theorem State.finishShed_takes (hp : (s.record d).present = true) (h : (s.onList d && (s.chan d).shedPos == none) = true) :
    ∃ q, s.lcm.shedCounter < q ∧ s.finishShed.chan d = { s.chan d with shedPos := some q } := by
  obtain ⟨q, hq, ht⟩ := s.placeAll_takes d _ ((s.mem_byPriority d).mpr hp) h
  exact ⟨q, hq, (State.resetCounter_chan _ d).trans ht⟩

theorem State.finishShed_state : (s.finishShed.chan d).state = (s.chan d).state := by
  cases h : (s.onList d && (s.chan d).shedPos == none) with
  | false => rw [s.finishShed_stays d h]
  | true =>
    have hon := (Bool.and_eq_true_iff.mp h).1
    obtain ⟨q, -, ht⟩ := s.finishShed_takes d ((s.onList_iff d).mp hon).1 h
    rw [ht]

/-- R124, R128: what a channel becomes as the channels of the record are stopped, then all others, and the places are taken. -/
theorem State.forcedStop_chan (l : List Placed) :
    ((s.runs d = false → (((l.foldl State.returnShed s).stopAll.finishShed).chan d).state = (s.chan d).state ∧
      ((s.onList d = true → (s.chan d).shedPos ≠ none) →
        ((l.foldl State.returnShed s).stopAll.finishShed).chan d = s.chan d)) ∧
    ∀ p, s.runs d = true → l.find? (fun p => p.channel == d) = some p →
      ((l.foldl State.returnShed s).stopAll.finishShed).chan d = s.stopped d (some p.position)) ∧
    (s.runs d = true → l.find? (fun p => p.channel == d) = none →
      ∃ q, s.lcm.shedCounter < q ∧ ((l.foldl State.returnShed s).stopAll.finishShed).chan d = s.stopped d (some q)) := by
  have hall := s.returnAll_chan d l
  have hcount := (s.returnAll_counter l).trans (le_of_eq (State.stopAll_counter _).symm)
  have hrec := (Loads.foldl (Loads.returnShed) l s).recordOf d
  have hrec' := (Loads.stopAll (l.foldl State.returnShed s)).recordOf d
  have hstop := (l.foldl State.returnShed s).stopAll_chan d
  generalize l.foldl State.returnShed s = t at hall hcount hrec hrec' hstop ⊢
  generalize t.stopAll = u at hcount hrec' hstop ⊢
  refine ⟨⟨fun hr => ?_, fun p hr hp => ?_⟩, fun hr hp => ?_⟩
  · have htd : t.chan d = s.chan d := by
      rw [hall]
      split
      · exact if_neg (by rw [hr]; exact Bool.false_ne_true)
      · rfl
    have hud : u.chan d = s.chan d := by rw [hstop, State.runs_congr d hrec htd, hr, if_neg Bool.false_ne_true, htd]
    refine ⟨by rw [State.finishShed_state, hud], fun hl => ?_⟩
    rw [State.finishShed_stays, hud]
    unfold State.onList at hl ⊢
    rw [hrec', hrec, hud, Bool.and_eq_false_iff]
    by_cases hon : ((s.record d).present && (s.chan d).state.listed) = true
    · exact .inr (beq_eq_false_iff_ne.mpr (hl hon))
    · exact .inl (by simpa using hon)
  · rw [hp] at hall
    dsimp only at hall
    rw [if_pos hr] at hall
    have htr : t.runs d = false := by
      unfold State.runs
      rw [hall, ChannelState.running_of_listed (s.stopped_listed d _), Bool.and_false]
    rw [htr, if_neg Bool.false_ne_true, hall] at hstop
    rw [State.finishShed_stays, hstop]
    rw [hstop]
    exact Bool.and_false _
  · rw [hp] at hall
    dsimp only at hall
    have hplace : t.stopped d none = s.stopped d none := by
      unfold State.stopped
      rw [hall, hrec]
    rw [State.runs_congr d hrec hall, if_pos hr, hplace] at hstop
    have hpresent : (u.record d).present = true := by rw [hrec', hrec]; exact ((s.runs_iff d).mp hr).1
    obtain ⟨q, hq, ht⟩ := u.finishShed_takes d hpresent (by
      unfold State.onList
      rw [hpresent, hstop, s.stopped_listed]
      rfl)
    exact ⟨q, hcount.trans_lt hq, by rw [ht, hstop]; rfl⟩

/-- R124: what the start of a cut set leaves of the other blocks. -/
theorem State.beginHeld_units : s.beginHeld.cc = { s.cc with phase := .held, offset := 0, restSet := [], restRecord := [] } ∧
    s.beginHeld.ae.draw = 0 ∧ s.beginHeld.ae.regen = 0 ∧ s.beginHeld.ae.share = 0 := by
  obtain ⟨t, ht, he⟩ := s.beginHeld_eq
  rw [he]
  obtain ⟨l, a, r, rfl⟩ := ht.only
  obtain ⟨b, hb, -⟩ := (s.withAe { s.ae with draw := 0, regen := 0, share := 0, shareBase := 0 }).clearCond_only .sinkShort 0
  unfold State.zeroDraw
  rw [hb]
  exact ⟨rfl, rfl, rfl, rfl⟩

theorem State.zeroDraw_lcm : s.zeroDraw.lcm = s.lcm ∧ s.zeroDraw.settings = s.settings := by
  obtain ⟨b, hb, -⟩ := (s.withAe { s.ae with draw := 0, regen := 0, share := 0, shareBase := 0 }).clearCond_only .sinkShort 0
  unfold State.zeroDraw
  rw [hb]
  exact ⟨rfl, rfl⟩

/-- R124: the state as the forced stop begins. -/
def State.forcing (s : State) : State := s.zeroDraw.withCc { s.zeroDraw.cc with phase := .held, offset := 0 }

theorem State.beginHeld_def : s.beginHeld = ((s.forcing.cc.restRecord.foldl State.returnShed s.forcing).stopAll.finishShed).withCc
    { ((s.forcing.cc.restRecord.foldl State.returnShed s.forcing).stopAll.finishShed).cc with
      restSet := [], restRecord := [] } := by
  unfold State.beginHeld State.forcing
  rfl

theorem State.forcing_same : s.forcing.cc.restRecord = s.cc.restRecord ∧ s.forcing.lcm = s.lcm ∧
    s.forcing.settings = s.settings := by
  obtain ⟨hlcm, hset⟩ := s.zeroDraw_lcm
  have hrest : s.zeroDraw.cc.restRecord = s.cc.restRecord := congrArg CutUnit.restRecord s.zeroDraw_cc
  exact ⟨hrest, hlcm, hset⟩

/-- R124, R128: the channels after the start of a cut set. -/
theorem State.beginHeld_chan : s.beginHeld.runs d = false ∧
    (s.runs d = true → (s.beginHeld.chan d).state = shedState (s.record d) ∧
      (∀ p, s.cc.restRecord.find? (fun p => p.channel == d) = some p → (s.beginHeld.chan d).shedPos = some p.position) ∧
      (s.cc.restRecord.find? (fun p => p.channel == d) = none →
        ∃ q, s.lcm.shedCounter < q ∧ (s.beginHeld.chan d).shedPos = some q)) ∧
    (s.onList d = true → (s.chan d).shedPos ≠ none → s.beginHeld.chan d = s.chan d) := by
  obtain ⟨hcc, hlcm, hset⟩ := s.forcing_same
  have hdef := s.beginHeld_def
  rw [hcc] at hdef
  generalize s.forcing = z at hlcm hset hdef
  have hchan : z.chan d = s.chan d := congrArg (fun x : LoadUnit => x.chans[d]) hlcm
  have hrec : z.record d = s.record d := congrArg (fun x : Settings => x.chans[d]) hset
  have hcount : z.lcm.shedCounter = s.lcm.shedCounter := congrArg LoadUnit.shedCounter hlcm
  have hload := ((Loads.foldl Loads.returnShed s.cc.restRecord z).trans (Loads.stopAll _)).trans (Loads.finishShed _)
  obtain ⟨⟨hidle, hformer⟩, hbehind⟩ := z.forcedStop_chan d s.cc.restRecord
  generalize (s.cc.restRecord.foldl State.returnShed z).stopAll.finishShed = u at hdef hload hidle hformer hbehind
  have heq : s.beginHeld.chan d = u.chan d := by rw [hdef]; rfl
  have hrest : s.beginHeld.record d = s.record d := by
    rw [hdef]
    exact (hload.recordOf d).trans hrec
  generalize s.beginHeld = v at heq hrest ⊢
  have hplace : ∀ q, z.stopped d q = s.stopped d q := fun q => by
    unfold State.stopped
    rw [hchan, hrec]
  simp only [State.runs_congr d hrec hchan, hchan, hcount, hplace, ← heq] at hidle hformer hbehind
  refine ⟨?_, fun hr => ⟨?_, fun p hp => by rw [hformer p hr hp]; rfl, fun hp => ?_⟩, fun hl hpos => (hidle ?_).2 fun _ => hpos⟩
  · by_cases hr : s.runs d = true
    · unfold State.runs
      cases hf : s.cc.restRecord.find? (fun p => p.channel == d) with
      | some p => rw [hformer p hr hf, ChannelState.running_of_listed (s.stopped_listed d _), Bool.and_false]
      | none =>
        obtain ⟨q, -, hq⟩ := hbehind hr hf
        rw [hq, ChannelState.running_of_listed (s.stopped_listed d _), Bool.and_false]
    · rw [Bool.not_eq_true] at hr
      unfold State.runs at hr ⊢
      rw [hrest, (hidle hr).1]
      exact hr
  · cases hf : s.cc.restRecord.find? (fun p => p.channel == d) with
    | some p => rw [hformer p hr hf]; rfl
    | none =>
      obtain ⟨q, -, hq⟩ := hbehind hr hf
      rw [hq]
      rfl
  · obtain ⟨q, hlt, hq⟩ := hbehind hr hp
    exact ⟨q, hlt, by rw [hq]; rfl⟩
  · unfold State.runs
    rw [ChannelState.running_of_listed ((s.onList_iff d).mp hl).2, Bool.and_false]

end

/-- R127: what the restoration set is after the reaction to its forming. -/
theorem State.react_beginRestoring (s : State) (h : s.DriverSettled) (cue : Cue) :
    ((State.react cue s s.beginRestoring).cc.phase = .restoring ∧ (State.react cue s s.beginRestoring).cc.restSet = s.shedList ∧
        (State.react cue s s.beginRestoring).cc.restSet ≠ [] ∨
      (State.react cue s s.beginRestoring).cc.phase = .none ∧ (State.react cue s s.beginRestoring).cc.restSet = []) := by
  obtain ⟨hp, hr, hne⟩ | ⟨-, hp, hr⟩ := (Reacted.react cue s s.beginRestoring h).phase
  · exact .inl ⟨hp, hr, hne hp⟩
  · exact .inr ⟨hp, hr⟩

/-- Settles O35: the last release starts the offset, its end forms the restoration set, and a cut set that becomes non-empty
stops every channel. -/
theorem offsetStartsAndEnds : Obligations.OffsetStartsAndEnds := by
  refine ⟨fun f n c k s hr hk hf hn hd hp hc => ⟨_, rfl, ?_⟩, fun s => ⟨fun hp ho hd => ⟨_, rfl, ?_⟩, fun h => ?_⟩,
    fun s cuts hc hne => ?_⟩
  · have hown : s.isOwn (Received.release n n (some c) k).station = false := hn
    have htake : s.takeRelease n n (some c) k = s.putCuts (removeCut s.cc.cuts n c k) := if_pos rfl
    have hnone : removeCut s.cc.cuts n c k = [] := by
      rw [hc]
      simp [removeCut, CutEntry.isOf]
    rw [State.receive_eq s 2 f _ _ hr (by rw [hk]; rfl) hf, hown, if_neg Bool.false_ne_true]
    dsimp only
    rw [htake, hnone]
    have hset : (s.putCuts []).DriverSettled := State.putCuts_driver hd (by rw [hc]; rfl)
    have hput : (s.putCuts []).cc = { s.cc with cuts := [], phase := .offset, offset := 0 } := by
      unfold State.putCuts
      dsimp only
      rw [if_neg (by simp), if_pos ⟨by rw [hc]; simp, rfl, hp⟩]
      rfl
    have hreact := Reacted.react (s.frameCue (.release n n (some c) k)) s _ hset
    have hphase := (State.react_phaseStays (s.frameCue (.release n n (some c) k)) s hset).1 (by rw [hput]; simp)
    rw [hreact.cuts, hreact.offset, hphase, hput]
    exact ⟨rfl, rfl, rfl⟩
  · rw [if_pos ⟨hp, ho⟩]
    have hset : s.beginRestoring.DriverSettled := hd
    have hreact := Reacted.react { noCue with admission := true } s _ hset
    refine ⟨hreact.cuts, hreact.offset, s.react_beginRestoring hd _, fun hop => ?_⟩
    rw [(State.react_phaseStays { noCue with admission := true } s hset).2 rfl hop]
    show (if s.shedList.any _ = true then Phase.restoring else Phase.none) = .restoring ↔ _
    rw [← List.any_eq_true]
    split
    · next h => exact ⟨fun _ => h, fun _ => rfl⟩
    · next h => exact ⟨nofun, fun k => absurd k h⟩
  · refine congrArg Host.Outcome.next (if_neg fun k => ?_)
    obtain h | h := h
    · exact h k.1
    · omega
  · have hput : s.putCuts cuts = (s.withCc { s.cc with cuts := cuts }).beginHeld := if_pos ⟨hc, hne⟩
    rw [hput]
    obtain ⟨hcc, hdraw, hregen, hshare⟩ := (s.withCc { s.cc with cuts := cuts }).beginHeld_units
    exact ⟨hcc, hdraw, hregen, hshare, fun c => (s.withCc { s.cc with cuts := cuts }).beginHeld_chan c⟩

end Sys2Proof.Machine

/-! Raise and clear of an own alarm, the room that R166 and R172 make, and the overflow flag (R166, R167, R172). -/

namespace Sys2Proof.Machine

section
variable (s : State) (k : AlarmKind) (q : Nat)

/-- R166: the entry that an own creation appends. -/
def State.createdAlarm : AlarmEntry := { s.newAlarm k q with sequence := s.au.nextSeq }

theorem AlarmUnit.remove_nextSeq (a : AlarmUnit) (p : AlarmEntry → Bool) : (a.remove p).nextSeq = a.nextSeq := by
  unfold AlarmUnit.remove
  dsimp only
  split <;> rfl

/-- The entries where one makes room for another. -/
theorem AlarmUnit.replace_entries (a : AlarmUnit) (x e : AlarmEntry) : ((a.remove (sameEntry x)).create e).entries =
    a.entries.filter (fun y => y != x) ++ [{ e with sequence := a.nextSeq }] := by
  rw [AlarmUnit.create_entries, AlarmUnit.remove_entries, AlarmUnit.remove_nextSeq]
  congr 1
  refine List.filter_congr fun y _ => ?_
  unfold sameEntry
  rw [Bool.eq_iff_iff]
  simp only [Bool.not_eq_true', Bool.and_eq_false_iff, beq_eq_false_iff_ne, bne_iff_ne]
  exact ⟨fun h e => h.elim (fun k => k (by rw [e])) (fun k => k e), .inr⟩

/-- R172: the overflow flag after a removal. -/
theorem AlarmUnit.remove_overflow (a : AlarmUnit) (p : AlarmEntry → Bool) : (a.remove p).overflow = true ↔
    a.overflow = true ∧ ((∃ e ∈ a.entries, p e = true) → 12 < (a.entries.filter (fun e => !p e)).length) := by
  have hless : (a.entries.filter (fun e => !p e)).length < a.entries.length ↔ ∃ e ∈ a.entries, p e = true := by
    rw [List.length_filter_lt_length_iff_exists]
    simp
  unfold AlarmUnit.remove
  dsimp only
  split
  · next h => simp [hless.mp h]
  · next h => simp [mt hless.mpr h]

/-- R166: an own entry is created in a table that holds fewer than 8 own entries and 16 in all. -/
theorem State.createOwn_room (h8 : (s.au.entries.filter s.ownAlarm).length < 8) (h16 : s.au.entries.length < 16) :
    (s.createOwn k q).au.entries = s.au.entries ++ [s.createdAlarm k q] := by
  unfold State.createOwn
  dsimp only
  rw [if_neg (by omega), if_neg (by omega)]
  rfl

/-- R166: in a full table with fewer than 8 own entries the oldest mirrored one makes room. -/
theorem State.createOwn_full (h8 : (s.au.entries.filter s.ownAlarm).length < 8) (h16 : 16 ≤ s.au.entries.length) :
    ∃ x, s.au.entries.find? (fun e => !s.ownAlarm e) = some x ∧
      (s.createOwn k q).au.entries = s.au.entries.filter (fun e => e != x) ++ [s.createdAlarm k q] := by
  cases hf : s.au.entries.find? (fun e => !s.ownAlarm e) with
  | none =>
    have hall : s.au.entries.filter s.ownAlarm = s.au.entries :=
      List.filter_eq_self.mpr fun e he => by simpa using List.find?_eq_none.mp hf e he
    rw [hall] at h8
    omega
  | some x =>
    refine ⟨x, rfl, ?_⟩
    unfold State.createOwn
    dsimp only
    rw [if_neg (by omega), if_pos h16, hf]
    exact s.au.replace_entries x _

/-- R166: with 8 own entries the oldest that is not latched makes room, cleared ones first; else the entry is not created. -/
theorem State.createOwn_eight (h8 : 8 ≤ (s.au.entries.filter s.ownAlarm).length) :
    match s.oldestFree .clearedUnack with
    | some x => (s.createOwn k q).au.entries = s.au.entries.filter (fun e => e != x) ++ [s.createdAlarm k q]
    | none => match s.oldestFree .activeAck with
      | some x => (s.createOwn k q).au.entries = s.au.entries.filter (fun e => e != x) ++ [s.createdAlarm k q]
      | none => (s.createOwn k q).au.entries = s.au.entries ∧ (s.createOwn k q).au.overflow = true := by
  unfold State.createOwn
  dsimp only
  rw [if_pos h8]
  cases s.oldestFree .clearedUnack with
  | some x => exact s.au.replace_entries x _
  | none =>
    cases s.oldestFree .activeAck with
    | some x => exact s.au.replace_entries x _
    | none => exact ⟨rfl, rfl⟩

/-- R166: no creation adds an entry but its own. -/
theorem State.createOwn_mem {e : AlarmEntry} (h : e ∈ (s.createOwn k q).au.entries) :
    e ∈ s.au.entries ∨ e = s.createdAlarm k q := by
  have hreplace : ∀ x, e ∈ s.au.entries.filter (fun y => y != x) ++ [s.createdAlarm k q] →
      e ∈ s.au.entries ∨ e = s.createdAlarm k q := fun x hx => by
    obtain hx | hx := List.mem_append.mp hx
    · exact .inl (List.mem_filter.mp hx).1
    · exact .inr (List.mem_singleton.mp hx)
  by_cases h8 : 8 ≤ (s.au.entries.filter s.ownAlarm).length
  · have key := s.createOwn_eight k q h8
    cases hc : s.oldestFree .clearedUnack with
    | some x =>
      rw [hc] at key
      exact hreplace x (key ▸ h)
    | none =>
      rw [hc] at key
      cases ha : s.oldestFree .activeAck with
      | some x =>
        rw [ha] at key
        exact hreplace x (key ▸ h)
      | none =>
        rw [ha] at key
        exact .inl (key.1 ▸ h)
  · by_cases h16 : 16 ≤ s.au.entries.length
    · obtain ⟨x, -, hx⟩ := s.createOwn_full k q (by omega) h16
      exact hreplace x (hx ▸ h)
    · rw [s.createOwn_room k q (by omega) (by omega)] at h
      obtain h | h := List.mem_append.mp h
      · exact .inl h
      · exact .inr (List.mem_singleton.mp h)

/-- R166: a raise where an own entry of the kind and qualifier stands. -/
theorem State.raiseOwn_counts (h : ∃ e ∈ s.au.entries, s.isOwnKey k q e = true) : (s.raiseOwn k q).au.entries =
    s.au.entries.map (fun e => if s.isOwnKey k q e then { e with count := min 255 (e.count + 1), state := .activeUnack } else e) := by
  unfold State.raiseOwn
  rw [if_pos (List.any_eq_true.mpr h)]
  rfl

/-- R166: a raise where none stands. -/
theorem State.raiseOwn_creates (h : ∀ e ∈ s.au.entries, s.isOwnKey k q e = false) : s.raiseOwn k q = s.createOwn k q := by
  unfold State.raiseOwn
  refine if_neg fun k => ?_
  obtain ⟨e, he, hk⟩ := List.any_eq_true.mp k
  rw [h e he] at hk
  cases hk

/-- R164: a table within its bounds holds one own entry of a kind and qualifier. -/
theorem State.ownKey_unique (h : s.AlarmsOk) {x y : AlarmEntry} (hx : x ∈ s.au.entries) (hy : y ∈ s.au.entries)
    (kx : s.isOwnKey k q x = true) (ky : s.isOwnKey k q y = true) : x = y := by
  obtain ⟨xs, xk, xq⟩ := (s.isOwnKey_iff k q x).mp kx
  obtain ⟨ys, yk, yq⟩ := (s.isOwnKey_iff k q y).mp ky
  by_contra hne
  have hsymm : Std.Symm (fun a b : AlarmEntry => ¬ a.sameKey b) :=
    ⟨fun a b hab hba => hab ⟨hba.1.symm, hba.2.1.symm, hba.2.2.symm⟩⟩
  exact (s.alarmsOk_iff.mp h).1.keys.forall hx hy hne
    ⟨xk.trans yk.symm, xs.trans ys.symm, xq.trans yq.symm⟩

/-- R166: the own entry after a raise, in a table within its bounds. -/
theorem State.raiseOwn_entry (h : s.AlarmsOk) {e : AlarmEntry} (he : e ∈ (s.raiseOwn k q).au.entries)
    (hk : s.isOwnKey k q e = true) : e.state = .activeUnack ∧
      ((∀ x ∈ s.au.entries, s.isOwnKey k q x = false) → e.count = 1) ∧
      ∀ x ∈ s.au.entries, s.isOwnKey k q x = true → e.count = min 255 (x.count + 1) := by
  by_cases hex : ∃ x ∈ s.au.entries, s.isOwnKey k q x = true
  · rw [s.raiseOwn_counts k q hex, List.mem_map] at he
    obtain ⟨y, hy, rfl⟩ := he
    have hyk : s.isOwnKey k q y = true := by
      split at hk
      · assumption
      · exact hk
    rw [if_pos hyk]
    refine ⟨rfl, fun hno => ?_, fun x hx hxk => ?_⟩
    · rw [hno y hy] at hyk
      cases hyk
    · rw [s.ownKey_unique k q h hx hy hxk hyk]
  · have hno : ∀ x ∈ s.au.entries, s.isOwnKey k q x = false := fun x hx => Bool.eq_false_iff.mpr fun h => hex ⟨x, hx, h⟩
    rw [s.raiseOwn_creates k q hno] at he
    obtain he | rfl := s.createOwn_mem k q he
    · rw [hno e he] at hk
      cases hk
    · exact ⟨rfl, fun _ => rfl, fun x hx hxk => absurd ⟨x, hx, hxk⟩ hex⟩

/-- R112: the raise of POLE_DROP, with the condition in force. -/
theorem State.raiseDrop_eq (p : Pole) (h : s.osm.op.alarmsTaken = true) : ∃ l, (AlarmKind.poleDrop, poleCode p) ∈ l ∧
    s.raiseDrop p = (s.withAu { s.au with inForce := l }).raiseOwn .poleDrop (poleCode p) := by
  unfold State.raiseDrop
  rw [if_pos h]
  split
  · next hin => exact ⟨s.au.inForce, List.contains_iff_mem.mp hin, rfl⟩
  · exact ⟨_, List.mem_append_right _ (List.mem_singleton_self _), rfl⟩

/-- R172: a mirrored entry in a full table. -/
theorem State.createMirror_full (e : AlarmEntry) (h : 16 ≤ s.au.entries.length) :
    match s.au.entries.find? (fun x => !s.ownAlarm x && decide (x.severity.rank < e.severity.rank)) with
    | some x => (s.createMirror e).au.entries =
        s.au.entries.filter (fun y => y != x) ++ [{ e with sequence := s.au.nextSeq }]
    | none => (s.createMirror e).au.entries = s.au.entries ∧ (s.createMirror e).au.overflow = true := by
  unfold State.createMirror
  rw [if_pos h]
  cases s.au.entries.find? (fun x => !s.ownAlarm x && decide (x.severity.rank < e.severity.rank)) with
  | some x => exact s.au.replace_entries x _
  | none => exact ⟨rfl, rfl⟩

end

/-- Settles O60: raises count or create, clears remove or mark, and a full table makes room by the rules' order. -/
theorem alarmRaiseAndClear : Obligations.AlarmRaiseAndClear := by
  intro k q s
  refine ⟨s.raiseOwn_counts k q, fun new hnew hno => ?_, ?_, ?_, fun p hok ht => ?_, fun new => ⟨fun h => ?_, s.createMirror_full new⟩⟩
  · have hcreated : new = s.createdAlarm k q := hnew
    rw [s.raiseOwn_creates k q hno, hcreated]
    exact ⟨s.createOwn_room k q, s.createOwn_full k q, s.createOwn_eight k q⟩
  · exact congrArg (List.map _) (AlarmUnit.remove_entries _ _)
  · have hlen : (s.clearOwn k q).au.entries.length =
        (s.au.entries.filter (fun e => !(s.isOwnKey k q e && e.state == .activeAck))).length :=
      (List.length_map _).trans (congrArg List.length (AlarmUnit.remove_entries _ _))
    rw [hlen]
    refine (AlarmUnit.remove_overflow s.au (fun e => s.isOwnKey k q e && e.state == .activeAck)).trans ?_
    simp only [Bool.and_eq_true, beq_iff_eq]
  · obtain ⟨l, hl, he⟩ := s.raiseDrop_eq p ht
    rw [he]
    obtain ⟨a, ha, hi⟩ := State.raiseOwn_only (s.withAu { s.au with inForce := l }) .poleDrop (poleCode p)
    refine ⟨?_, fun e hm hk => ?_⟩
    · rw [ha]
      exact List.contains_iff_mem.mpr (hi ▸ hl)
    · have hkey : (s.withAu { s.au with inForce := l }).isOwnKey .poleDrop (poleCode p) e = true := by
        rw [ha] at hk
        exact hk
      exact (s.withAu { s.au with inForce := l }).raiseOwn_entry _ _ hok hm hkey
  · unfold State.createMirror
    rw [if_neg (by omega)]
    rfl

end Sys2Proof.Machine

/-! What one pass over the blocks leaves of the load channels: the requests as their sources give them, the duties within them, and
the currents within the applied draw (R137, R146, R150). -/

namespace Sys2Proof.Machine

section
variable {s t : State}

/-- R151, R152, R153: the operating state lets a channel ask. -/
def State.asksIn (s : State) (c : Fin 4) : Bool :=
  match s.osm.op with
  | .listening | .active => true
  | .parked => (s.record c).park
  | .dormant => (s.record c).source == .din
  | _ => false

/-- R137, Table 7-3: what the source of a channel asks for. -/
def State.sourceRequest (s : State) (c : Fin 4) : Nat :=
  match (s.record c).kind, (s.record c).source with
  | .switched, .din => if s.din (s.record c).input then 1 else 0
  | .switched, .pressure => if (s.chan c).requesting then 1 else 0
  | .modulated, .din => if s.din (s.record c).input then 8 else 0
  | .modulated, .heatDuty => s.heatRead
  | .timed, .din => if (s.chan c).cyclePending then 1 else 0
  | .converter, .demand =>
    if s.su.valid then
      min (s.record c).rated
        (if s.osm.role = .traction && (s.record c).demandInput == 1 then s.signedDraw else s.ain (s.record c).demandInput)
    else 0
  | _, _ => 0

theorem State.wantedRequest_eq (s : State) (c : Fin 4) :
    s.wantedRequest c = if (s.record c).present && s.asksIn c then s.sourceRequest c else 0 := rfl

theorem State.wantedRequest_idle (h : s.osm.op.runs = false) (c : Fin 4) : s.wantedRequest c = 0 := by
  have hi : s.asksIn c = false := by
    unfold State.asksIn
    generalize s.osm.op = o at h
    cases o <;> cases h <;> rfl
  rw [State.wantedRequest_eq, hi, Bool.and_false, if_neg Bool.false_ne_true]

/-- What the request of a channel is read from. -/
structure SameSource (c : Fin 4) (s t : State) : Prop where
  settings : t.settings = s.settings
  op : t.osm.op = s.osm.op
  role : t.osm.role = s.osm.role
  su : t.su = s.su
  heat : (s.record c).source = .heatDuty → s.osm.op.runs = true → t.heatRead = s.heatRead
  requesting : (t.chan c).requesting = (s.chan c).requesting
  pending : (t.chan c).cyclePending = (s.chan c).cyclePending

theorem SameSource.wanted {c : Fin 4} (h : SameSource c s t) : t.wantedRequest c = s.wantedRequest c := by
  cases hr : s.osm.op.runs with
  | false => rw [State.wantedRequest_idle hr, State.wantedRequest_idle (by rw [h.op]; exact hr)]
  | true =>
    have hrec : t.record c = s.record c := by rw [State.record, State.record, h.settings]
    have hasks : t.asksIn c = s.asksIn c := by
      unfold State.asksIn
      rw [h.op, hrec]
    have hsource : t.sourceRequest c = s.sourceRequest c := by
      have hheat := fun hs => h.heat hs hr
      unfold State.sourceRequest State.din State.signedDraw State.ain
      rw [hrec, h.role, h.su, h.requesting, h.pending]
      cases hs : (s.record c).source with
      | heatDuty => rw [hheat hs]
      | _ => cases (s.record c).kind <;> rfl
    rw [State.wantedRequest_eq, State.wantedRequest_eq, hrec, hasks, hsource]

theorem State.heatRead_congr (hset : t.settings = s.settings) (hr : t.osm.role = s.osm.role) (hcf : t.cf.heat = s.cf.heat)
    (hpvt : s.osm.role ≠ .console → consolePartOf t.pvt s.settings.consoleStation = consolePartOf s.pvt s.settings.consoleStation) :
    t.heatRead = s.heatRead := by
  unfold State.heatRead
  rw [hr, hcf, hset]
  split
  · rfl
  · next h => rw [hpvt h]

/-- What an operation of the load channels leaves of the reading of a request. -/
theorem Kept.source (h : Kept s t) {c : Fin 4} (hp : (t.chan c).cyclePending = (s.chan c).cyclePending) : SameSource c s t where
  settings := h.settings
  op := congrArg OpMachine.op h.osm
  role := congrArg OpMachine.role h.osm
  su := h.su
  heat := fun _ _ => State.heatRead_congr h.settings (congrArg OpMachine.role h.osm) (congrArg ConsoleUnit.heat h.cf) fun _ => by rw [h.pvt]
  requesting := congrArg (fun x : Nat × Bool × Bool => x.2.1) (h.chan c)
  pending := hp

/-- What of a channel its request is compared with. -/
def Channel.asked (a : Channel) : Nat × Bool × Nat × Nat × Bool := (a.request, a.cyclePending, a.cycle, a.cap, a.requesting)

theorem ChannelStep.asked {rises : Bool} {r : ChannelRecord} {a b : Channel} (h : ChannelStep false rises r a b) : b.asked = a.asked := by
  cases h with
  | wait h => cases h
  | off h => cases h
  | request q h => cases h
  | _ => rfl

theorem ChannelStep.pending {asks rises : Bool} {r : ChannelRecord} {a b : Channel} (h : ChannelStep asks rises r a b) :
    b.cyclePending = a.cyclePending := by
  cases h <;> rfl

theorem Loads.asked {rises : Bool} (h : Loads (ChannelStep false rises) s t) (c : Fin 4) : (t.chan c).asked = (s.chan c).asked :=
  h.chans (R := fun _ a b => b.asked = a.asked) (fun _ _ => rfl) (fun _ _ _ _ h k => k.trans h) (fun _ _ _ h => h.asked) c

theorem Loads.pending {asks rises : Bool} (h : Loads (ChannelStep asks rises) s t) (c : Fin 4) :
    (t.chan c).cyclePending = (s.chan c).cyclePending :=
  h.chans (R := fun _ a b => b.cyclePending = a.cyclePending) (fun _ _ => rfl) (fun _ _ _ _ h k => k.trans h)
    (fun _ _ _ h => h.pending) c

/-- A duty lies within the request it serves. -/
def Channel.Fits (a : Channel) : Prop := a.request ≠ 0 → a.duty ≤ a.effective

theorem Channel.fits_of_zero {a : Channel} (h : a.duty = 0) : a.Fits := fun _ => h ▸ Nat.zero_le _

theorem ChannelStep.fits {rises : Bool} {r : ChannelRecord} {a b : Channel} (h : ChannelStep false rises r a b) (ha : a.Fits) :
    b.Fits := by
  cases h with
  | shed => exact Channel.fits_of_zero rfl
  | wait h => cases h
  | off h => cases h
  | request q h => cases h
  | lower d _ _ _ hd => exact fun hr => hd.trans (ha hr)
  | raise d _ _ _ _ _ hd => exact fun _ => hd
  | start d _ _ _ _ hd => exact fun _ => hd
  | position p => exact ha
  | place p e => exact ha

theorem Loads.fits {rises : Bool} (h : Loads (ChannelStep false rises) s t) (c : Fin 4) (hs : (s.chan c).Fits) : (t.chan c).Fits :=
  h.chans (R := fun _ a b => a.Fits → b.Fits) (fun _ _ h => h) (fun _ _ _ _ h k ha => k (h ha)) (fun _ _ _ h => h.fits) c hs

/-- Every channel rests by its record. -/
def State.LoadsRest (s : State) : Prop := ∀ c, (s.chan c).Rests (s.record c)

theorem Loads.rest {C : ChannelRecord → Channel → Channel → Prop} (hC : ∀ r a b, C r a b → a.Eases True r b) (h : Loads C s t)
    (hs : s.LoadsRest) : t.LoadsRest := by
  intro c
  rw [h.recordOf]
  exact h.chans (R := fun r a b => a.Rests r → b.Rests r) (fun _ _ h => h) (fun _ _ _ _ h k ha => k (h ha))
    (fun _ _ _ h => (hC _ _ _ h).rests) c (hs c)

theorem ChannelStep.easesAny {asks rises : Bool} {r : ChannelRecord} {a b : Channel} (h : ChannelStep asks rises r a b) :
    a.Eases True r b := h.eases.mono fun _ => trivial

/-- The sum of the currents follows the channels. -/
theorem State.load_le (h : ∀ c, loadCurrent (t.record c) (t.chan c) ≤ loadCurrent (s.record c) (s.chan c)) : t.load ≤ s.load := by
  unfold State.load
  have : channelNumbers = [0, 1, 2, 3] := rfl
  rw [this]
  simp only [List.map_cons, List.map_nil, List.sum_cons, List.sum_nil]
  have h0 := h 0
  have h1 := h 1
  have h2 := h 2
  have h3 := h 3
  omega

theorem State.sameLoad (h : ∀ c, loadCurrent (t.record c) (t.chan c) = loadCurrent (s.record c) (s.chan c)) : t.load = s.load :=
  Nat.le_antisymm (State.load_le fun c => (h c).le) (State.load_le fun c => (h c).ge)

/-- Operations that let no channel start leave the start-spacing timer. -/
theorem Loads.spacing_same {C : ChannelRecord → Channel → Channel → Prop}
    (hC : ∀ r a b, C r a b → b.state = .starting → a.state = .starting) (h : Loads C s t) :
    t.lcm.spacing = s.lcm.spacing ∧ t.lcm.spacingRuns = s.lcm.spacingRuns := by
  have honset : ∀ (s : State) k q, (s.onset k q).lcm = s.lcm := fun s k q => by
    obtain ⟨a, ha, -⟩ := s.onset_only k q
    rw [ha]
    rfl
  have hclear : ∀ (s : State) k q, (s.clearCond k q).lcm = s.lcm := fun s k q => by
    obtain ⟨a, ha, -⟩ := s.clearCond_only k q
    rw [ha]
    rfl
  induction h with
  | refl s => exact ⟨rfl, rfl⟩
  | trans _ _ ih ih' => exact ⟨ih'.1.trans ih.1, ih'.2.trans ih.2⟩
  | chan s c ch => exact ⟨rfl, rfl⟩
  | unit s x _ h =>
    simp only [Prod.mk.injEq] at h
    exact ⟨h.2.2.2.1, h.2.2.2.2⟩
  | spaced s h =>
    obtain ⟨r, a, b, h, hn, hs⟩ := h
    exact absurd (hC r a b h hs) hn
  | record s l => exact ⟨rfl, rfl⟩
  | onset s c => rw [honset]; exact ⟨rfl, rfl⟩
  | clear s c =>
    unfold State.clearShort
    rw [hclear]
    exact ⟨rfl, rfl⟩

theorem RequestStep.load {r : ChannelRecord} {a b : Channel} (h : RequestStep r a b) : loadCurrent r b ≤ loadCurrent r a := by
  cases h with
  | shed hp hs =>
    refine (Channel.Eases.loadCurrent_idle ?_).trans_le (Nat.zero_le _)
    unfold shedState
    split <;> rfl
  | wait _ hp => exact (Channel.Eases.loadCurrent_idle rfl).trans_le (Nat.zero_le _)
  | off _ hp => exact (Channel.Eases.loadCurrent_idle rfl).trans_le (Nat.zero_le _)
  | position p => exact le_rfl
  | lower d _ _ _ hd => exact (Channel.Eases.of_lower (P := False) (a := a) (b := a.lowered d) rfl hd rfl).load.resolve_left id
  | raise d h => cases h
  | start d h => cases h
  | place p e => exact le_rfl
  | request q => exact le_rfl

theorem InhibitStep.load {r : ChannelRecord} {a b : Channel} (h : InhibitStep r a b) : loadCurrent r b ≤ loadCurrent r a := by
  cases h with
  | inhibit => exact (Channel.Eases.loadCurrent_idle rfl).trans_le (Nat.zero_le _)
  | free => exact (Channel.Eases.loadCurrent_idle rfl).trans_le (Nat.zero_le _)

theorem Loads.load_le {C : ChannelRecord → Channel → Channel → Prop}
    (hC : ∀ r a b, C r a b → loadCurrent r b ≤ loadCurrent r a) (h : Loads C s t) : t.load ≤ s.load :=
  State.load_le fun c => by
    rw [h.recordOf]
    exact h.chans (R := fun r a b => loadCurrent r b ≤ loadCurrent r a) (fun _ _ => le_rfl) (fun _ _ _ _ h k => k.trans h) hC c

end

section
variable (s : State) (c d : Fin 4)

theorem State.setChan_self (ch : Channel) : (s.setChan c ch).chan c = ch := (s.chan_setChan c c ch).trans (if_pos rfl)

theorem State.setChan_ne (ch : Channel) (h : c ≠ d) : (s.setChan c ch).chan d = s.chan d := (s.chan_setChan c d ch).trans (if_neg h)

theorem State.fitDuty_ne (h : c ≠ d) : (s.fitDuty c).chan d = s.chan d := by
  unfold State.fitDuty
  dsimp only
  split
  · exact s.setChan_ne c d _ h
  · rfl

theorem State.fitDuty_same : ((s.fitDuty c).chan c).request = (s.chan c).request ∧ ((s.fitDuty c).chan c).state = (s.chan c).state ∧
    ((s.fitDuty c).chan c).cycle = (s.chan c).cycle := by
  unfold State.fitDuty
  dsimp only
  split
  · rw [s.setChan_self]
    exact ⟨rfl, rfl, rfl⟩
  · exact ⟨rfl, rfl, rfl⟩

/-- R146: a duty above the request is lowered to it. -/
theorem State.fitDuty_fits (h : (s.chan c).Rests (s.record c)) : ((s.fitDuty c).chan c).Fits := by
  unfold State.fitDuty
  dsimp only
  split
  · rw [s.setChan_self]
    exact fun _ => le_rfl
  · next hn =>
    intro hq
    by_contra hd
    have hduty : (s.chan c).duty ≠ 0 := fun e => hd (e ▸ Nat.zero_le _)
    have hrun : (s.chan c).state.running = true := by
      by_contra k
      exact hduty (h.1 (.inl (by simpa using k)))
    have hkind : (s.record c).kind = .modulated := by
      by_contra k
      exact hduty (h.1 (.inr k))
    have hpresent : (s.record c).present = true := by
      by_contra k
      have := (h.2 (by simpa using k)).1
      rw [this] at hrun
      cases hrun
    refine hn ?_
    unfold State.runs Channel.asks
    rw [hpresent, hrun, hkind]
    simp [hq, Nat.lt_of_not_le hd]

theorem State.endRequest_ne (h : c ≠ d) : (s.endRequest c).chan d = s.chan d := by
  unfold State.endRequest State.leaveList
  split
  · split
    · rw [State.clearShort_chan]
      exact s.setChan_ne c d _ h
    · rfl
  · split
    · rw [State.clearShort_chan]
      exact s.setChan_ne c d _ h
    · rfl

/-- R146: what the end of a request makes of a channel. -/
theorem State.endRequest_self : (s.endRequest c).chan c =
    if s.runs c = true then (if s.minOnElapsed c = true then (s.chan c).leave .waiting else s.chan c)
    else if s.onList c = true then (s.chan c).leave (if s.minOffElapsed c then .off else .waiting) else s.chan c := by
  unfold State.endRequest State.leaveList
  split
  · split
    · rw [State.clearShort_chan, s.setChan_self]
    · rfl
  · split
    · rw [State.clearShort_chan, s.setChan_self]
    · rfl

theorem State.refreshOne_ne (h : c ≠ d) : (s.refreshOne c).chan d = s.chan d := by
  unfold State.refreshOne
  dsimp only
  split
  · exact s.fitDuty_ne c d h
  · have hset := s.setChan_ne c d { s.chan c with request := s.wantedRequest c } h
    split
    · rw [State.endRequest_ne _ c d h, hset]
    · rw [State.fitDuty_ne _ c d h, hset]

/-- R137, R146: a channel's request is the one its source gives, and its duty within it. -/
theorem State.refreshOne_self : ((s.refreshOne c).chan c).request = s.wantedRequest c ∧
    ((s.record c).present = true → (s.chan c).Rests (s.record c) → ((s.refreshOne c).chan c).Fits) := by
  unfold State.refreshOne
  dsimp only
  split
  · next hw =>
    exact ⟨(s.fitDuty_same c).1.trans hw.symm, fun _ h => s.fitDuty_fits c h⟩
  · have hset := s.setChan_self c { s.chan c with request := s.wantedRequest c }
    have hrec : (s.setChan c { s.chan c with request := s.wantedRequest c }).record c = s.record c := rfl
    split
    · next hz =>
      have hend := (s.setChan c { s.chan c with request := s.wantedRequest c }).endRequest_self c
      have hq : (((s.setChan c { s.chan c with request := s.wantedRequest c }).endRequest c).chan c).request = s.wantedRequest c := by
        rw [hend, hset]
        split
        · split <;> rfl
        · split <;> rfl
      exact ⟨hq, fun _ _ k => absurd (hq.trans hz) k⟩
    · refine ⟨(State.fitDuty_same _ c).1.trans (by rw [hset]), fun hp h => State.fitDuty_fits _ c ?_⟩
      rw [hset, hrec]
      exact ⟨h.1, fun k => absurd (hp.symm.trans k) (by simp)⟩

theorem State.refreshOne_source (h : (s.record c).present = true) : SameSource d s (s.refreshOne c) :=
  (Kept.refreshOne s c).source ((Loads.refreshOne s c h).pending d)

/-- R137: every channel of a list takes its request. -/
theorem State.refreshAll (l : List (Fin 4)) (hl : ∀ c ∈ l, (s.record c).present = true) :
    (d ∈ l → ((l.foldl State.refreshOne s).chan d).request = s.wantedRequest d ∧
      (s.LoadsRest → ((l.foldl State.refreshOne s).chan d).Fits)) ∧
      (d ∉ l → (l.foldl State.refreshOne s).chan d = s.chan d) := by
  induction l generalizing s with
  | nil => exact ⟨nofun, fun _ => rfl⟩
  | cons c l ih =>
    have hp := hl c List.mem_cons_self
    have hone := Loads.refreshOne s c hp
    obtain ⟨hin, hout⟩ := ih (s.refreshOne c) (fun e he => by rw [hone.recordOf]; exact hl e (List.mem_cons_of_mem _ he))
    rw [(s.refreshOne_source c d hp).wanted] at hin
    rw [List.foldl_cons]
    refine ⟨fun hd => ?_, fun hd => ?_⟩
    · by_cases hm : d ∈ l
      · exact ⟨(hin hm).1, fun hs => (hin hm).2 (hone.rest (fun _ _ _ => ChannelStep.easesAny) hs)⟩
      · have hc : c = d := ((List.mem_cons.mp hd).resolve_right hm).symm
        subst hc
        rw [hout hm]
        exact ⟨(s.refreshOne_self c).1, fun hs => (s.refreshOne_self c).2 hp (hs c)⟩
    · rw [hout (fun h => hd (List.mem_cons_of_mem _ h)), s.refreshOne_ne c d (fun h => hd (h ▸ List.mem_cons_self))]

/-- R137, R146: after the requests are taken anew. -/
theorem State.refreshRequests_chan (hp : (s.record d).present = true) :
    (s.refreshRequests.chan d).request = s.wantedRequest d ∧ (s.LoadsRest → (s.refreshRequests.chan d).Fits) := by
  unfold State.refreshRequests
  rw [State.resetCounter_chan]
  exact (s.refreshAll d s.present fun c hc => (s.mem_present c).mp hc).1 ((s.mem_present d).mpr hp)

/-- What the end of a pass, after its admission, leaves of the load channels. -/
structure AfterAdmission (s t : State) : Prop where
  asked : ∀ c, (t.chan c).asked = (s.chan c).asked
  fits : ∀ c, (s.chan c).Fits → (t.chan c).Fits
  rest : s.LoadsRest → t.LoadsRest
  state : ∀ c, (t.chan c).state = (s.chan c).state ∧ (t.chan c).duty = (s.chan c).duty
  load : t.load = s.load
  draw : t.ae.draw = s.ae.draw
  spacing : t.lcm.spacing = s.lcm.spacing ∧ t.lcm.spacingRuns = s.lcm.spacingRuns

theorem State.passFrom_after (cue : Cue) (os : List Inhibits) (s0 a : State) :
    AfterAdmission (State.admissions cue os s0 ((a.evaluate os).refreshRequests.clampRegen os)) (State.passFrom cue os s0 a) := by
  unfold State.passFrom
  generalize State.admissions cue os s0 ((a.evaluate os).refreshRequests.clampRegen os) = y
  have hset : y.settleRestoring.rebuildClaims.settings = y.settings := by
    unfold State.settleRestoring
    split <;> rfl
  have hae : y.settleRestoring.rebuildClaims.ae.draw = y.ae.draw := by
    unfold State.settleRestoring
    split <;> rfl
  have hchan : ∀ c, y.settleRestoring.rebuildClaims.chan c = y.chan c := fun c => by
    unfold State.settleRestoring
    split <;> rfl
  have hspace : y.settleRestoring.rebuildClaims.lcm.spacing = y.lcm.spacing ∧
      y.settleRestoring.rebuildClaims.lcm.spacingRuns = y.lcm.spacingRuns := by
    unfold State.settleRestoring
    split <;> exact ⟨rfl, rfl⟩
  have hrec : ∀ c, y.settleRestoring.rebuildClaims.record c = y.record c := fun c => by
    unfold State.record
    rw [hset]
  generalize y.settleRestoring.rebuildClaims = z at hae hchan hspace hrec
  have hload := Loads.settleShare z cue
  have hplace : ∀ c, ((z.settleShare cue).chan c).state = (z.chan c).state ∧ ((z.settleShare cue).chan c).duty = (z.chan c).duty :=
    hload.chans (R := fun _ a b => b.state = a.state ∧ b.duty = a.duty) (fun _ _ => ⟨rfl, rfl⟩)
      (fun _ _ _ _ h k => ⟨k.1.trans h.1, k.2.trans h.2⟩) fun _ _ _ ⟨_, _, h⟩ => h ▸ ⟨rfl, rfl⟩
  have hadmit : Loads AdmitStep z (z.settleShare cue) := hload.ofPlace
  refine ⟨fun c => (hadmit.asked c).trans (congrArg Channel.asked (hchan c)), fun c h => hadmit.fits c (by rwa [hchan]), fun h => ?_,
    fun c => by rw [← hchan]; exact hplace c, ?_, ?_, ?_⟩
  · refine hadmit.rest (fun _ _ _ => ChannelStep.easesAny) fun c => ?_
    rw [hchan, hrec]
    exact h c
  · refine State.sameLoad fun c => ?_
    rw [hload.recordOf, hrec]
    exact Channel.Eases.loadCurrent_congr ((hplace c).1.trans (by rw [hchan])) ((hplace c).2.trans (by rw [hchan]))
  · obtain ⟨-, -, -, -, -, h, -⟩ := hload.only.same
    rw [h]
    exact hae
  · obtain ⟨h1, h2⟩ := hload.spacing_same fun _ _ _ ⟨_, _, h⟩ => h ▸ id
    exact ⟨h1.trans hspace.1, h2.trans hspace.2⟩

end

end Sys2Proof.Machine

/-! What an admission event does: reduction brings the currents within the applied draw, restoration keeps them there (R142, R143,
R145), and SHORT_CYCLE follows the channels shed (R147). -/

namespace Sys2Proof.Machine

section
variable {s t : State}

theorem Loads.draw {C : ChannelRecord → Channel → Channel → Prop} (h : Loads C s t) : t.ae = s.ae := by
  obtain ⟨-, -, -, -, -, h, -⟩ := h.only.same
  exact h

theorem Loads.osm {C : ChannelRecord → Channel → Channel → Prop} (h : Loads C s t) : t.osm = s.osm := by
  obtain ⟨-, -, -, -, -, -, h, -⟩ := h.only.same
  exact h

theorem ShedStep.load {r : ChannelRecord} {a b : Channel} (h : ShedStep r a b) : loadCurrent r b ≤ loadCurrent r a :=
  (ShedStep.eases (P := False) h).load.resolve_left id

/-- Shedding lets no channel run that did not. -/
theorem ShedStep.running {r : ChannelRecord} {a b : Channel} (h : ShedStep r a b) (hb : b.state.running = true) :
    a.state.running = true ∧ b.duty ≤ a.duty ∧ b.minOn = a.minOn := by
  cases h with
  | shed _ ha => exact ⟨ha, Nat.zero_le _, by
      have := (shedState_listed r)
      rw [show (a.leave (shedState r)).state = shedState r from rfl] at hb
      rw [ChannelState.running_of_listed this] at hb
      cases hb⟩
  | wait h => cases h
  | off h => cases h
  | position p _ _ => exact ⟨hb, le_rfl, rfl⟩
  | lower d _ _ _ hd => exact ⟨hb, hd, rfl⟩
  | raise d h => cases h
  | start d h => cases h
  | place p e => exact ⟨hb, le_rfl, rfl⟩
  | request q h => cases h

theorem Loads.stillRuns (h : Loads ShedStep s t) {c : Fin 4} (hr : t.runs c = true) :
    s.runs c = true ∧ (t.chan c).duty ≤ (s.chan c).duty ∧ (t.chan c).minOn = (s.chan c).minOn := by
  have key := h.chans (R := fun _ a b => b.state.running = true → a.state.running = true ∧ b.duty ≤ a.duty ∧ b.minOn = a.minOn)
    (fun _ _ h => ⟨h, le_rfl, rfl⟩)
    (fun _ _ _ _ h k hb => by
      obtain ⟨h1, h2, h3⟩ := k hb
      obtain ⟨g1, g2, g3⟩ := h h1
      exact ⟨g1, h2.trans g2, h3.trans g3⟩)
    (fun _ _ _ => ShedStep.running) c
  obtain ⟨hp, hc⟩ := (t.runs_iff c).mp hr
  obtain ⟨h1, h2, h3⟩ := key hc
  rw [h.recordOf] at hp
  exact ⟨(s.runs_iff c).mpr ⟨hp, h1⟩, h2, h3⟩

theorem State.loadCurrent_runs {c : Fin 4} (h : s.runs c = false) : loadCurrent (s.record c) (s.chan c) = 0 := by
  unfold loadCurrent
  exact if_neg (by rw [show ((s.record c).present && (s.chan c).state.running) = false from h]; exact Bool.false_ne_true)

theorem State.load_zero (h : ∀ c, loadCurrent (s.record c) (s.chan c) = 0) : s.load = 0 := by
  unfold State.load
  rw [List.sum_eq_zero]
  intro x hx
  obtain ⟨c, -, rfl⟩ := List.mem_map.mp hx
  exact h c

/-- The sum of the currents as one channel changes. -/
theorem State.load_setChan (c : Fin 4) (ch : Channel) :
    (s.setChan c ch).load + loadCurrent (s.record c) (s.chan c) = s.load + loadCurrent (s.record c) ch := by
  have h : ∀ d, loadCurrent ((s.setChan c ch).record d) ((s.setChan c ch).chan d) =
      if c = d then loadCurrent (s.record c) ch else loadCurrent (s.record d) (s.chan d) := fun d => by
    rw [State.record_setChan, State.chan_setChan]
    split
    · next e => rw [e]
    · rfl
  unfold State.load
  simp only [h]
  have hn : channelNumbers = [0, 1, 2, 3] := rfl
  rw [hn]
  simp only [List.map_cons, List.map_nil, List.sum_cons, List.sum_nil]
  match c with
  | 0 => simp; omega
  | 1 => simp; omega
  | 2 => simp; omega
  | 3 => simp; omega

/-- R142: the stop of every channel. -/
theorem State.stopAll_runs (c : Fin 4) : s.stopAll.runs c = false := by
  unfold State.runs
  rw [(Loads.stopAll s).recordOf, State.stopAll_chan]
  split
  · rw [ChannelState.running_of_listed (s.stopped_listed c none), Bool.and_false]
  · next h => exact Bool.eq_false_iff.mpr h

/-- R143: one step of the last pass of shedding. -/
theorem State.shedStep_done (c : Fin 4) : (State.shedStep (fun _ _ => true) true s c).load ≤ s.ae.draw ∨
    loadCurrent ((State.shedStep (fun _ _ => true) true s c).record c) ((State.shedStep (fun _ _ => true) true s c).chan c) = 0 := by
  unfold State.shedStep
  split
  · next h =>
    simp only [Bool.and_eq_true] at h
    obtain ⟨⟨⟨-, hr⟩, -⟩, -⟩ := h
    refine .inr ?_
    have hstop : loadCurrent ((s.stop c).record c) ((s.stop c).chan c) = 0 := by
      rw [State.stop_chan, if_pos rfl]
      exact Channel.Eases.loadCurrent_idle (ChannelState.running_of_listed (shedState_listed _))
    dsimp only
    split
    · rw [State.onset_chan]
      rw [show ((s.stop c).onset .shortCycle c.val).record c = (s.stop c).record c from (Loads.onset (C := ShedStep) (s.stop c) c).recordOf c]
      exact hstop
    · exact hstop
  · next h =>
    by_cases hz : loadCurrent (s.record c) (s.chan c) = 0
    · exact .inr hz
    · refine .inl (Nat.le_of_not_lt fun hd => h ?_)
      have hr : s.runs c = true := by
        by_contra k
        exact hz (State.loadCurrent_runs (by simpa using k))
      simp [hd, hr, hz]

/-- R143: after the last pass of shedding the currents fit, or every channel of the pass is shed. -/
theorem State.shedAll_done (l : List (Fin 4)) : (l.foldl (State.shedStep (fun _ _ => true) true) s).load ≤ s.ae.draw ∨
    ∀ c ∈ l, loadCurrent (s.record c) ((l.foldl (State.shedStep (fun _ _ => true) true) s).chan c) = 0 := by
  induction l generalizing s with
  | nil => exact .inr nofun
  | cons c l ih =>
    have hone := Loads.shedStep s c (fun _ _ => true) true
    have hrest := Loads.foldl (fun t c => Loads.shedStep t c (fun _ _ => true) true) l (State.shedStep (fun _ _ => true) true s c)
    rw [List.foldl_cons]
    obtain h | h := s.shedStep_done c
    · exact .inl ((hrest.load_le fun _ _ _ => ShedStep.load).trans h)
    · obtain k | k := ih (s := State.shedStep (fun _ _ => true) true s c)
      · exact .inl (by rwa [hone.draw] at k)
      · refine .inr fun d hd => ?_
        obtain rfl | hd := List.mem_cons.mp hd
        · have hmono := hrest.chans (R := fun r a b => loadCurrent r b ≤ loadCurrent r a) (fun _ _ => le_rfl)
            (fun _ _ _ _ h k => k.trans h) (fun _ _ _ => ShedStep.load) d
          rw [hone.recordOf] at hmono h
          omega
        · have := k d hd
          rwa [hone.recordOf] at this

/-- R143: reduction brings the currents within the applied draw. -/
theorem State.reduce_load : s.reduce.load ≤ s.ae.draw := by
  unfold State.reduce
  dsimp only
  have h3 : Loads ShedStep s (s.lowestFirst.foldl (State.shedStep (fun t c => t.contribFloor c == 0) true)
      (s.lowestFirst.foldl (State.shedStep (fun t c => t.contribFloor c == 0 && t.minOnElapsed c) false)
        (s.lowestFirst.foldl State.lowerDuty s))) :=
    ((Loads.foldl Loads.lowerDuty _ s).trans (.foldl (fun t c => Loads.shedStep t c _ _) _ _)).trans
      (.foldl (fun t c => Loads.shedStep t c _ _) _ _)
  generalize s.lowestFirst.foldl (State.shedStep (fun t c => t.contribFloor c == 0) true)
    (s.lowestFirst.foldl (State.shedStep (fun t c => t.contribFloor c == 0 && t.minOnElapsed c) false)
      (s.lowestFirst.foldl State.lowerDuty s)) = u at h3 ⊢
  have h4 := Loads.foldl (fun t c => Loads.shedStep t c (fun _ _ => true) true) s.lowestFirst u
  obtain h | h := u.shedAll_done s.lowestFirst
  · rwa [h3.draw] at h
  · refine (State.load_zero fun c => ?_).trans_le (Nat.zero_le _)
    rw [h4.recordOf]
    by_cases hp : (s.record c).present = true
    · exact h c (List.mem_reverse.mpr ((s.mem_byPriority c).mpr hp))
    · unfold loadCurrent
      rw [h3.recordOf]
      simp [hp]

theorem dutyCurrent_zero (rated : Nat) : dutyCurrent rated 0 = 0 := by simp [dutyCurrent]

/-- R145: the largest duty within a limit. -/
theorem largestDuty_fits (rated limit n : Nat) : dutyCurrent rated (largestDuty rated limit n) ≤ limit := by
  induction n with
  | zero => exact (dutyCurrent_zero rated).trans_le (Nat.zero_le _)
  | succ n ih =>
    unfold largestDuty
    split
    · assumption
    · exact ih

/-- R145: no smaller duty bound is missed. -/
theorem largestDuty_max (rated limit n d : Nat) (hd : d ≤ n) (h : dutyCurrent rated d ≤ limit) : d ≤ largestDuty rated limit n := by
  induction n with
  | zero => exact hd
  | succ n ih =>
    unfold largestDuty
    split
    · exact hd
    · next k =>
      refine ih ?_
      obtain hlt | rfl := Nat.lt_or_eq_of_le hd
      · exact Nat.le_of_lt_succ hlt
      · exact absurd h k

/-- R145: a channel that may start fits the room it leaves. -/
theorem State.start_load (c : Fin 4) (hl : s.load ≤ s.ae.draw) (hm : s.mayStart c = true)
    (hs : (s.chan c).state.listed = true ∨ (s.chan c).state = .off) : (s.start c).load ≤ s.ae.draw := by
  have hrec : ∀ d, (s.recordRestart c).record d = s.record d := (Loads.recordRestart s c).recordOf
  have hsame : (s.recordRestart c).load = s.load := State.sameLoad fun d => by rw [hrec, State.recordRestart_chan]
  have hidle : (s.chan c).state.running = false := by
    obtain h | h := hs
    · exact ChannelState.running_of_listed h
    · rw [h]; rfl
  have key : ∀ ch, loadCurrent (s.record c) ch ≤ s.ae.draw - s.load → ((s.recordRestart c).setChan c ch).load ≤ s.ae.draw :=
    fun ch h => by
      have hset := (s.recordRestart c).load_setChan c ch
      rw [hrec, State.recordRestart_chan, Channel.Eases.loadCurrent_idle hidle, hsame] at hset
      omega
  have hnew : loadCurrent (s.record c) { s.chan c with state := .starting, minOn := 0, duty := s.startDuty c, shedPos := none } ≤
      s.ae.draw - s.load := by
    have hfit : s.fits c = true := by
      simp only [State.mayStart, State.ready, Bool.and_eq_true] at hm
      exact hm.1.2
    unfold State.fits at hfit
    unfold loadCurrent
    split
    · cases hk : (s.record c).kind <;> rw [hk] at hfit
      · exact of_decide_eq_true hfit
      · unfold State.startDuty
        rw [if_pos hk]
        exact largestDuty_fits _ _ _
      · exact of_decide_eq_true hfit
      · exact Nat.zero_le _
    · exact Nat.zero_le _
  refine key _ ?_
  rw [State.recordRestart_chan]
  exact hnew

theorem State.restarted_load (hl : s.load ≤ s.ae.draw) : s.restarted.load ≤ s.ae.draw := by
  unfold State.restarted
  split
  · next c h => exact s.start_load c hl (s.restart_some h).2 (s.restart_some h).1
  · exact hl

/-- R145: a raise of a duty stays within the room. -/
theorem State.raiseDuty_load (reserved : Nat) (c : Fin 4) (hl : s.load ≤ s.ae.draw) :
    (State.raiseDuty reserved s c).load ≤ s.ae.draw := by
  unfold State.raiseDuty
  dsimp only
  split
  · next h =>
    simp only [Bool.and_eq_true, beq_iff_eq, decide_eq_true_eq] at h
    obtain ⟨⟨hr, hk⟩, -⟩ := h
    obtain ⟨hp, hrun⟩ := (s.runs_iff c).mp hr
    have key : ∀ ch, loadCurrent (s.record c) ch ≤ loadCurrent (s.record c) (s.chan c) + (s.ae.draw - s.load) →
        (s.setChan c ch).load ≤ s.ae.draw := fun ch h => by
      have hset := s.load_setChan c ch
      omega
    have hcur : ∀ ch : Channel, ch.state.running = true → loadCurrent (s.record c) ch = dutyCurrent (s.record c).rated ch.duty :=
      fun ch h => by
        unfold loadCurrent
        rw [hp, h, hk]
        rfl
    refine key _ ?_
    rw [hcur (s.chan c) hrun]
    refine le_trans (le_of_eq (hcur _ ?_)) ?_
    · exact hrun
    dsimp only
    rw [Nat.max_def]
    split
    · exact (largestDuty_fits _ _ _).trans (Nat.add_le_add_left (Nat.sub_le _ _) _)
    · exact Nat.le_add_right _ _
  · exact hl

theorem State.raiseAll_load (reserved : Nat) (l : List (Fin 4)) (hl : s.load ≤ s.ae.draw) :
    (l.foldl (State.raiseDuty reserved) s).load ≤ s.ae.draw := by
  induction l generalizing s with
  | nil => exact hl
  | cons c l ih =>
    have hd := (Loads.raiseDuty s c reserved).draw
    have := ih (s := State.raiseDuty reserved s c) (by rw [hd]; exact s.raiseDuty_load reserved c hl)
    rwa [hd] at this

/-- R145: restoration keeps the currents within the applied draw. -/
theorem State.restore_load (hl : s.load ≤ s.ae.draw) : s.restore.load ≤ s.ae.draw := by
  rw [State.restore_eq]
  split
  · have hd := (Loads.restarted s).draw
    have := State.raiseAll_load s.restarted.reservedCurrent s.restarted.byPriority (s := s.restarted)
      (by rw [hd]; exact s.restarted_load hl)
    rwa [hd] at this
  · exact hl

theorem State.resetCounter_load : s.resetCounter.load = s.load := by
  unfold State.resetCounter
  split <;> rfl

/-- R142: an admission event leaves the currents within the applied draw. -/
theorem State.admission_load : s.admission.load ≤ s.ae.draw := by
  unfold State.admission
  split
  · refine (State.load_zero fun c => ?_).trans_le (Nat.zero_le _)
    split
    · have h := (Loads.dropRecord s.stopAll s).trans (Loads.finishShed (State.dropRecord s s.stopAll))
      refine State.loadCurrent_runs (Bool.eq_false_iff.mpr fun hr => ?_)
      have := (h.stillRuns hr).1
      rw [s.stopAll_runs] at this
      cases this
    · next h =>
      refine State.loadCurrent_runs (Bool.eq_false_iff.mpr fun hr => ?_)
      exact h (List.any_eq_true.mpr ⟨c, mem_channelNumbers c, hr⟩)
  · dsimp only
    split
    · have h := (Loads.dropRecord s.reduce s).trans (Loads.finishShed (State.dropRecord s s.reduce))
      exact (h.load_le fun _ _ _ => ShedStep.load).trans s.reduce_load
    · rw [State.resetCounter_load]
      have hd := (Loads.reduce s).draw
      have := s.reduce.restore_load (by rw [hd]; exact s.reduce_load)
      rwa [hd] at this

end

end Sys2Proof.Machine

/-! What an admission event does to each channel: what it sheds, what it starts and raises, and SHORT_CYCLE (R142, R143, R145,
R147). -/

namespace Sys2Proof.Machine

section
variable (s : State) (c d : Fin 4)

theorem State.placeOne_au : (s.placeOne c).au = s.au := by
  unfold State.placeOne
  split <;> rfl

theorem State.finishShed_au : s.finishShed.au = s.au := by
  have hplace : ∀ (l : List (Fin 4)) (t : State), (l.foldl State.placeOne t).au = t.au := by
    intro l
    induction l with
    | nil => exact fun t => rfl
    | cons c l ih => exact fun t => (ih _).trans (t.placeOne_au c)
  unfold State.finishShed State.resetCounter
  split
  · exact hplace _ s
  · exact hplace _ s

theorem State.finishShed_runs : s.finishShed.runs c = s.runs c := by
  unfold State.runs
  rw [(Loads.finishShed s).recordOf, s.finishShed_state]

/-- R145: a raise leaves everything of a channel but its duty, which does not fall. -/
theorem State.raiseDuty_chan (reserved : Nat) : ∃ n, (s.chan d).duty ≤ n ∧
    (State.raiseDuty reserved s c).chan d = { s.chan d with duty := n } := by
  unfold State.raiseDuty
  dsimp only
  split
  · rw [State.chan_setChan]
    split
    · next h => exact h ▸ ⟨_, le_max_left _ _, rfl⟩
    · exact ⟨_, le_rfl, rfl⟩
  · exact ⟨_, le_rfl, rfl⟩

theorem State.raiseAll_chan (reserved : Nat) (l : List (Fin 4)) : ∃ n, (s.chan d).duty ≤ n ∧
    (l.foldl (State.raiseDuty reserved) s).chan d = { s.chan d with duty := n } := by
  induction l generalizing s with
  | nil => exact ⟨_, le_rfl, rfl⟩
  | cons c l ih =>
    obtain ⟨n, hn, hc⟩ := s.raiseDuty_chan c d reserved
    obtain ⟨m, hm, hd⟩ := ih (State.raiseDuty reserved s c)
    rw [hc] at hm hd
    exact ⟨m, hn.trans hm, hd⟩

theorem State.raiseAll_same (reserved : Nat) (l : List (Fin 4)) : (l.foldl (State.raiseDuty reserved) s).au = s.au ∧
    (l.foldl (State.raiseDuty reserved) s).lcm.spacing = s.lcm.spacing ∧
    (l.foldl (State.raiseDuty reserved) s).lcm.spacingRuns = s.lcm.spacingRuns := by
  induction l generalizing s with
  | nil => exact ⟨rfl, rfl, rfl⟩
  | cons c l ih =>
    rw [List.foldl_cons]
    obtain ⟨h1, h2, h3⟩ := ih (State.raiseDuty reserved s c)
    rw [h1, h2, h3]
    unfold State.raiseDuty
    dsimp only
    split <;> exact ⟨rfl, rfl, rfl⟩

/-- R145: the channel that starts. -/
theorem State.start_self : (s.start c).chan c =
    { s.chan c with state := .starting, minOn := 0, duty := s.startDuty c, shedPos := none } := by
  refine ((s.recordRestart c).setChan_self c _).trans ?_
  rw [State.recordRestart_chan]

theorem State.start_ne (h : c ≠ d) : (s.start c).chan d = s.chan d :=
  ((s.recordRestart c).setChan_ne c d _ h).trans (State.recordRestart_chan s c d)

theorem State.recordRestart_same : (s.recordRestart c).au = s.au ∧ (s.recordRestart c).lcm = s.lcm := by
  unfold State.recordRestart
  split <;> exact ⟨rfl, rfl⟩

theorem State.start_same : (s.start c).au = s.au ∧ (s.start c).lcm.spacing = 0 ∧ (s.start c).lcm.spacingRuns = true :=
  ⟨(s.recordRestart_same c).1, rfl, rfl⟩

/-- R145: every channel but the one that starts keeps its state, its duty growing at most; none is started where none may. -/
theorem State.restore_other (h : s.mayRestore = false ∨ s.restart ≠ some d) : ∃ n, (s.chan d).duty ≤ n ∧
    s.restore.chan d = { s.chan d with duty := n } := by
  rw [State.restore_eq]
  split
  · next hm =>
    have hd : s.restart ≠ some d := h.resolve_left fun k => by rw [hm] at k; cases k
    have hone : s.restarted.chan d = s.chan d := by
      unfold State.restarted
      split
      · next c hc => exact s.start_ne c d fun e => hd (e ▸ hc)
      · rfl
    rw [← hone]
    exact s.restarted.raiseAll_chan d _ _
  · exact ⟨_, le_rfl, rfl⟩

/-- R145: the channel that restoration starts. -/
theorem State.restore_started (hm : s.mayRestore = true) (h : s.restart = some d) :
    s.restore.lcm.spacing = 0 ∧ s.restore.lcm.spacingRuns = true ∧ ∃ n, s.startDuty d ≤ n ∧
      ((s.chan d).request ≠ 0 → n ≤ (s.chan d).effective) ∧ s.restore.chan d = { s.chan d with state := .starting, minOn := 0, duty := n, shedPos := none } := by
  have hone : s.restarted = s.start d := by
    unfold State.restarted
    rw [h]
  rw [State.restore_eq, if_pos hm, hone]
  obtain ⟨n, hn, hc⟩ := (s.start d).raiseAll_chan d (s.start d).reservedCurrent (s.start d).byPriority
  obtain ⟨-, h2, h3⟩ := (s.start d).raiseAll_same (s.start d).reservedCurrent (s.start d).byPriority
  have hfits := (Loads.foldl (fun t c => Loads.raiseDuty t c (s.start d).reservedCurrent) (s.start d).byPriority (s.start d)).fits d
  rw [hc, s.start_self] at hfits
  rw [s.start_self] at hn hc
  exact ⟨h2, h3, n, hn, hfits fun _ => s.startDuty_le d, hc⟩

theorem State.restore_au : s.restore.au = s.au := by
  rw [State.restore_eq]
  split
  · refine (s.restarted.raiseAll_same _ _).1.trans ?_
    unfold State.restarted
    split
    · exact (s.start_same _).1
    · rfl
  · rfl

/-- R145: restoration stops no channel. -/
theorem State.restore_runs (h : s.runs c = true) : s.restore.runs c = true := by
  obtain ⟨hp, hr⟩ := (s.runs_iff c).mp h
  refine (s.restore.runs_iff c).mpr ⟨by rw [(Loads.restore s).recordOf]; exact hp, ?_⟩
  by_cases hk : s.mayRestore = true ∧ s.restart = some c
  · obtain ⟨-, -, n, -, -, hc⟩ := s.restore_started c hk.1 hk.2
    rw [hc]
    rfl
  · obtain ⟨n, -, hc⟩ := s.restore_other c (by
      by_cases hm : s.mayRestore = true
      · exact .inr fun k => hk ⟨hm, k⟩
      · exact .inl (by simpa using hm))
    rw [hc]
    exact hr

/-- R142: the three ways of an admission event. -/
theorem State.admission_cases :
    (s.ae.draw = 0 ∧ (∃ c, s.runs c = true) ∧ s.admission = (State.dropRecord s s.stopAll).finishShed) ∨
    (s.ae.draw = 0 ∧ (∀ c, s.runs c = false) ∧ s.admission = s) ∨
    (s.ae.draw ≠ 0 ∧ (∃ c, s.runs c = true ∧ s.reduce.runs c = false) ∧
      s.admission = (State.dropRecord s s.reduce).finishShed) ∨
    (s.ae.draw ≠ 0 ∧ (∀ c, s.runs c = true → s.reduce.runs c = true) ∧ s.admission = s.reduce.restore.resetCounter) := by
  unfold State.admission
  by_cases hd : s.ae.draw = 0
  · rw [if_pos hd]
    by_cases hr : channelNumbers.any s.runs = true
    · obtain ⟨c, -, hc⟩ := List.any_eq_true.mp hr
      exact .inl ⟨hd, ⟨c, hc⟩, if_pos hr⟩
    · refine .inr (.inl ⟨hd, fun c => Bool.eq_false_iff.mpr fun hc => hr ?_, if_neg hr⟩)
      exact List.any_eq_true.mpr ⟨c, mem_channelNumbers c, hc⟩
  · rw [if_neg hd]
    dsimp only
    by_cases hr : channelNumbers.any (fun c => s.runs c && !s.reduce.runs c) = true
    · obtain ⟨c, -, hc⟩ := List.any_eq_true.mp hr
      simp only [Bool.and_eq_true, Bool.not_eq_true'] at hc
      exact .inr (.inr (.inl ⟨hd, ⟨c, hc⟩, if_pos hr⟩))
    · refine .inr (.inr (.inr ⟨hd, fun c hc => ?_, if_neg hr⟩))
      by_contra hk
      exact hr (List.any_eq_true.mpr ⟨c, mem_channelNumbers c, by simp [hc, hk]⟩)

theorem State.resetCounter_runs : s.resetCounter.runs c = s.runs c := by
  unfold State.resetCounter
  split <;> rfl

theorem State.resetCounter_same : s.resetCounter.au = s.au ∧ s.resetCounter.lcm.spacing = s.lcm.spacing ∧
    s.resetCounter.lcm.spacingRuns = s.lcm.spacingRuns := by
  unfold State.resetCounter
  split <;> exact ⟨rfl, rfl, rfl⟩

theorem State.dropRecord_runs (s0 : State) : (State.dropRecord s0 s).runs c = s.runs c := rfl

/-- R142: while A is 0 no channel runs after an admission event. -/
theorem State.admission_none (h : s.ae.draw = 0) : s.admission.runs c = false := by
  obtain ⟨-, -, he⟩ | ⟨-, hr, he⟩ | ⟨hd, -⟩ | ⟨hd, -⟩ := s.admission_cases
  · rw [he, State.finishShed_runs, State.dropRecord_runs]
    exact s.stopAll_runs c
  · rw [he]
    exact hr c
  · exact absurd h hd
  · exact absurd h hd

/-- R142: an admission event that sheds starts nothing and raises no duty. -/
theorem State.admission_sheds (h : ∃ c, s.runs c = true ∧ s.admission.runs c = false) (hc : s.admission.runs c = true) :
    s.runs c = true ∧ (s.admission.chan c).duty ≤ (s.chan c).duty := by
  obtain ⟨hd, -⟩ | ⟨hd, -⟩ | ⟨-, -, he⟩ | ⟨-, hk, he⟩ := s.admission_cases
  · rw [s.admission_none c hd] at hc
    cases hc
  · rw [s.admission_none c hd] at hc
    cases hc
  · have hload : Loads ShedStep s (State.dropRecord s s.reduce).finishShed :=
      ((Loads.reduce s).trans (Loads.dropRecord s.reduce s)).trans (Loads.finishShed _)
    rw [he] at hc ⊢
    obtain ⟨h1, h2, -⟩ := hload.stillRuns hc
    exact ⟨h1, h2⟩
  · obtain ⟨e, h1, h2⟩ := h
    rw [he, State.resetCounter_runs, s.reduce.restore_runs e (hk e h1)] at h2
    cases h2

/-- R147: SHORT_CYCLE of a channel from a state to the next, as one that runs goes on or is shed. A channel shed within its min-on
takes the condition `v` of the one it had. -/
def State.shortFollows (v : Bool → Bool) (c : Fin 4) (s t : State) : Prop :=
  (t.runs c = s.runs c ∧ t.inForce .shortCycle c.val = s.inForce .shortCycle c.val ∧
    (s.runs c = true → t.minOnElapsed c = s.minOnElapsed c)) ∨
  (s.runs c = true ∧ t.runs c = false ∧ t.inForce .shortCycle c.val =
    if s.minOnElapsed c = true then false else v (s.inForce .shortCycle c.val))

theorem State.shortFollows.trans {v : Bool → Bool} {s t u : State} (h : State.shortFollows v c s t) (k : State.shortFollows v c t u) :
    State.shortFollows v c s u := by
  obtain ⟨h1, h2, h3⟩ | ⟨h1, h2, h3⟩ := h
  · obtain ⟨k1, k2, k3⟩ | ⟨k1, k2, k3⟩ := k
    · exact .inl ⟨k1.trans h1, k2.trans h2, fun hr => (k3 (h1.trans hr)).trans (h3 hr)⟩
    · rw [h1] at k1
      rw [h2, h3 k1] at k3
      exact .inr ⟨k1, k2, k3⟩
  · obtain ⟨k1, k2, -⟩ | ⟨k1, -⟩ := k
    · exact .inr ⟨h1, k1.trans h2, k2.trans h3⟩
    · rw [h2] at k1
      cases k1

theorem State.shortFollows.foldl {v : Bool → Bool} {f : State → Fin 4 → State} {P : State → Prop}
    (hf : ∀ s a, P s → P (f s a) ∧ State.shortFollows v c s (f s a)) (l : List (Fin 4)) (s : State) (hs : P s) :
    P (l.foldl f s) ∧ State.shortFollows v c s (l.foldl f s) := by
  induction l generalizing s with
  | nil => exact ⟨hs, .inl ⟨rfl, rfl, fun _ => rfl⟩⟩
  | cons a l ih =>
    obtain ⟨h1, h2⟩ := hf s a hs
    obtain ⟨k1, k2⟩ := ih _ h1
    exact ⟨k1, State.shortFollows.trans c h2 k2⟩

theorem State.minOnElapsed_congr {s t : State} (hr : t.record c = s.record c) (hc : (t.chan c).minOn = (s.chan c).minOn) :
    t.minOnElapsed c = s.minOnElapsed c := by
  unfold State.minOnElapsed
  rw [hr, hc]

/-- R143: a channel goes on as another one is stopped. -/
theorem State.stop_shortFollows (v : Bool → Bool) (ht : s.osm.op.alarmsTaken = true) (hr : s.runs d = true) (hv : ∀ b, v b = b) :
    State.shortFollows v c s (s.stop d) := by
  have hload := Loads.stop s d hr
  have hrec := hload.recordOf c
  have hchan := s.stop_chan d c
  by_cases hd : d = c
  · subst hd
    rw [if_pos rfl] at hchan
    refine .inr ⟨hr, ?_, ?_⟩
    · unfold State.runs
      rw [hchan]
      exact (congrArg (_ && ·) (ChannelState.running_of_listed (shedState_listed _))).trans (Bool.and_false _)
    · unfold State.stop State.minOnReachedBy
      dsimp only
      rw [hr, Bool.true_and]
      split
      · exact State.clearCond_ends _ _ ht
      · exact (hv _).symm
  · rw [if_neg hd] at hchan
    refine .inl ⟨State.runs_congr c hrec hchan, ?_, fun _ => State.minOnElapsed_congr c hrec (by rw [hchan])⟩
    have hne : (AlarmKind.shortCycle, c.val) ≠ (AlarmKind.shortCycle, d.val) := by
      simp [Fin.val_inj, Ne.symm hd]
    unfold State.stop
    dsimp only
    split
    · exact State.clearCond_inForce _ _ _ _ _ hne
    · rfl

/-- R142: SHORT_CYCLE as every channel is stopped. -/
theorem State.stopAll_shortFollows (ht : s.osm.op.alarmsTaken = true) : State.shortFollows id c s s.stopAll := by
  refine (State.shortFollows.foldl c (P := fun t => t.osm.op.alarmsTaken = true) (fun t a h => ?_) channelNumbers s ht).2
  split
  · next hr =>
    refine ⟨?_, t.stop_shortFollows c a id h hr fun _ => rfl⟩
    rw [(Loads.stop t a hr).osm]
    exact h
  · exact ⟨h, .inl ⟨rfl, rfl, fun _ => rfl⟩⟩

/-- R147: SHORT_CYCLE along one step of shedding. -/
theorem State.shedStep_shortFollows (pick : State → Fin 4 → Bool) (short : Bool)
    (hpick : short = false → ∀ t c, pick t c = true → t.minOnElapsed c = true) (ht : s.osm.op.alarmsTaken = true) :
    State.shortFollows (fun _ => true) c s (State.shedStep pick short s d) := by
  unfold State.shedStep
  split
  · next h =>
    simp only [Bool.and_eq_true] at h
    obtain ⟨⟨⟨-, hr⟩, -⟩, hp⟩ := h
    have hosm : (s.stop d).osm.op.alarmsTaken = true := by rw [(Loads.stop s d hr).osm]; exact ht
    have hstop := s.stop_shortFollows c d id ht hr fun _ => rfl
    have hsame : ∀ k : AlarmKind, ((s.stop d).onset k d.val).runs c = (s.stop d).runs c := fun k => by
      obtain ⟨a, ha, -⟩ := (s.stop d).onset_only k d.val
      rw [ha]
      rfl
    have helapsed : ∀ k : AlarmKind, ((s.stop d).onset k d.val).minOnElapsed c = (s.stop d).minOnElapsed c := fun k => by
      obtain ⟨a, ha, -⟩ := (s.stop d).onset_only k d.val
      rw [ha]
      rfl
    dsimp only
    split
    · next hs =>
      simp only [Bool.and_eq_true, Bool.not_eq_true'] at hs
      obtain ⟨h1, h2, h3⟩ | ⟨h1, h2, h3⟩ := hstop
      · refine .inl ⟨(hsame _).trans h1, ?_, fun k => (helapsed _).trans (h3 k)⟩
        rw [State.onset_inForce, hosm, Bool.true_and, h2]
        by_cases hd : d = c
        · subst hd
          rw [hr] at h1
          have := State.stop_chan s d d
          rw [if_pos rfl] at this
          unfold State.runs at h1
          rw [this] at h1
          exact absurd h1 (by
            rw [show ((s.chan d).leave (shedState (s.record d))).state.running = false from
              ChannelState.running_of_listed (shedState_listed _), Bool.and_false]
            exact Bool.false_ne_true)
        · simp [Fin.val_inj, Ne.symm hd]
      · refine .inr ⟨h1, (hsame _).trans h2, ?_⟩
        rw [State.onset_inForce, hosm, Bool.true_and, h3]
        by_cases hd : d = c
        · subst hd
          simp [hs.2]
        · have hrun : (s.stop d).runs c = s.runs c :=
            State.runs_congr c ((Loads.stop s d hr).recordOf c) ((s.stop_chan d c).trans (if_neg hd))
          rw [hrun, h1] at h2
          cases h2
    · next hs =>
      obtain h1 | ⟨h1, h2, h3⟩ := hstop
      · exact .inl h1
      · refine .inr ⟨h1, h2, ?_⟩
        have hdc : d = c := by
          by_contra hd
          have hrun : (s.stop d).runs c = s.runs c :=
            State.runs_congr c ((Loads.stop s d hr).recordOf c) ((s.stop_chan d c).trans (if_neg hd))
          rw [hrun, h1] at h2
          cases h2
        subst hdc
        have he : s.minOnElapsed d = true := by
          cases short with
          | false => exact hpick rfl s d hp
          | true => simpa using hs
        rw [h3, he]
        rfl
  · exact .inl ⟨rfl, rfl, fun _ => rfl⟩

/-- SHORT_CYCLE is left by a change of a channel that keeps its state and its min-on clock. -/
theorem State.setChan_shortFollows (v : Bool → Bool) (ch : Channel) (hs : ch.state = (s.chan d).state)
    (hm : ch.minOn = (s.chan d).minOn) : State.shortFollows v c s (s.setChan d ch) := by
  have hsame : ((s.setChan d ch).chan c).state = (s.chan c).state ∧ ((s.setChan d ch).chan c).minOn = (s.chan c).minOn := by
    rw [State.chan_setChan]
    split
    · next e => exact e ▸ ⟨hs, hm⟩
    · exact ⟨rfl, rfl⟩
  refine .inl ⟨?_, rfl, fun _ => State.minOnElapsed_congr c rfl hsame.2⟩
  unfold State.runs
  rw [hsame.1]
  rfl

theorem State.lowerDuty_shortFollows : State.shortFollows (fun _ => true) c s (s.lowerDuty d) := by
  unfold State.lowerDuty
  dsimp only
  split
  · exact s.setChan_shortFollows c d _ _ rfl rfl
  · exact .inl ⟨rfl, rfl, fun _ => rfl⟩

/-- R143, R147: SHORT_CYCLE along reduction. -/
theorem State.reduce_shortFollows (ht : s.osm.op.alarmsTaken = true) : State.shortFollows (fun _ => true) c s s.reduce := by
  have hlower : ∀ t a, t.osm.op.alarmsTaken = true →
      (t.lowerDuty a).osm.op.alarmsTaken = true ∧ State.shortFollows (fun _ => true) c t (t.lowerDuty a) := fun t a h =>
    ⟨by rw [(Loads.lowerDuty t a).osm]; exact h, t.lowerDuty_shortFollows c a⟩
  have hshed : ∀ (pick : State → Fin 4 → Bool) (short : Bool), (short = false → ∀ t c, pick t c = true → t.minOnElapsed c = true) →
      ∀ t a, t.osm.op.alarmsTaken = true → (State.shedStep pick short t a).osm.op.alarmsTaken = true ∧
        State.shortFollows (fun _ => true) c t (State.shedStep pick short t a) := fun pick short hp t a h =>
    ⟨by rw [(Loads.shedStep t a pick short).osm]; exact h, t.shedStep_shortFollows c a pick short hp h⟩
  unfold State.reduce
  dsimp only
  obtain ⟨t1, h1⟩ := State.shortFollows.foldl c hlower s.lowestFirst s ht
  obtain ⟨t2, h2⟩ := State.shortFollows.foldl c (hshed (fun t c => t.contribFloor c == 0 && t.minOnElapsed c) false
    fun _ t c h => (Bool.and_eq_true_iff.mp h).2) s.lowestFirst _ t1
  obtain ⟨t3, h3⟩ := State.shortFollows.foldl c (hshed (fun t c => t.contribFloor c == 0) true nofun) s.lowestFirst _ t2
  exact ((h1.trans c h2).trans c h3).trans c (State.shortFollows.foldl c (hshed (fun _ _ => true) true nofun) s.lowestFirst _ t3).2

theorem State.minOnElapsed_iff : s.minOnElapsed c = true ↔ 1000 * (s.record c).minOn ≤ (s.chan c).minOn := by
  unfold State.minOnElapsed ChannelRecord.minOnMs
  rw [decide_eq_true_eq, Nat.mul_comm]

/-- R147: SHORT_CYCLE after an admission event. -/
theorem State.admission_short (ht : s.osm.op.alarmsTaken = true) : s.admission.inForce .shortCycle c.val =
    if s.runs c = true ∧ s.admission.runs c = false then
      (if 1000 * (s.record c).minOn ≤ (s.chan c).minOn then false
      else if s.ae.draw = 0 then s.inForce .shortCycle c.val else true)
    else s.inForce .shortCycle c.val := by
  simp only [← s.minOnElapsed_iff c]
  have hend : ∀ t : State, (State.dropRecord s t).finishShed.inForce .shortCycle c.val = t.inForce .shortCycle c.val ∧
      (State.dropRecord s t).finishShed.runs c = t.runs c := fun t =>
    ⟨congrArg (fun a : AlarmUnit => a.inForce.contains (AlarmKind.shortCycle, c.val)) (State.finishShed_au _),
      State.finishShed_runs _ c⟩
  obtain ⟨hd, -, he⟩ | ⟨hd, hr, he⟩ | ⟨hd, -, he⟩ | ⟨hd, hk, he⟩ := s.admission_cases
  · rw [he, (hend _).1, (hend _).2, if_pos hd]
    obtain ⟨h1, h2, -⟩ | ⟨h1, h2, h3⟩ := s.stopAll_shortFollows c ht
    · rw [h1, h2, if_neg (fun k => by rw [k.1] at k; exact absurd k.2 (by simp))]
    · rw [if_pos ⟨h1, h2⟩, h3]
      rfl
  · rw [he, if_neg (fun k => by rw [hr] at k; cases k.1)]
  · rw [he, (hend _).1, (hend _).2, if_neg hd]
    obtain ⟨h1, h2, -⟩ | ⟨h1, h2, h3⟩ := s.reduce_shortFollows c ht
    · rw [h1, h2, if_neg (fun k => by rw [k.1] at k; exact absurd k.2 (by simp))]
    · rw [if_pos ⟨h1, h2⟩, h3]
  · have hau : s.reduce.restore.resetCounter.au = s.reduce.au := (State.resetCounter_same _).1.trans s.reduce.restore_au
    have hforce : s.reduce.restore.resetCounter.inForce .shortCycle c.val = s.reduce.inForce .shortCycle c.val :=
      congrArg (fun a : AlarmUnit => a.inForce.contains (AlarmKind.shortCycle, c.val)) hau
    rw [he, State.resetCounter_runs, hforce, if_neg (fun k => by rw [s.reduce.restore_runs c (hk c k.1)] at k; cases k.2)]
    obtain ⟨-, h2, -⟩ | ⟨h1, h2, -⟩ := s.reduce_shortFollows c ht
    · exact h2
    · rw [hk c h1] at h2
      cases h2

/-- R143: currents within the draw are not reduced. -/
theorem State.reduce_none (h : s.load ≤ s.ae.draw) : s.reduce = s := by
  have hlower : ∀ l : List (Fin 4), l.foldl State.lowerDuty s = s := by
    intro l
    induction l with
    | nil => rfl
    | cons c l ih =>
      have hone : s.lowerDuty c = s := if_neg (by simp [Nat.not_lt_of_le h])
      rw [List.foldl_cons, hone, ih]
  have hshed : ∀ (pick : State → Fin 4 → Bool) (short : Bool) (l : List (Fin 4)), l.foldl (State.shedStep pick short) s = s := by
    intro pick short l
    induction l with
    | nil => rfl
    | cons c l ih =>
      have hone : State.shedStep pick short s c = s := if_neg (by simp [Nat.not_lt_of_le h])
      rw [List.foldl_cons, hone, ih]
  unfold State.reduce
  dsimp only
  rw [hlower, hshed, hshed, hshed]

/-- R145: an admission event that finds the currents within the draw restores alone. -/
theorem State.admission_restores (h : s.load ≤ s.ae.draw) (hd : 0 < s.ae.draw) : s.admission = s.restore.resetCounter := by
  obtain ⟨h0, -⟩ | ⟨h0, -⟩ | ⟨-, ⟨c, h1, h2⟩, -⟩ | ⟨-, -, he⟩ := s.admission_cases
  · omega
  · omega
  · rw [s.reduce_none h, h1] at h2
    cases h2
  · rwa [s.reduce_none h] at he

theorem State.fits_iff : s.fits c = true ↔ (match (s.record c).kind with
      | .switched => (s.record c).rated
      | .timed => (s.record c).rated
      | .modulated => (s.record c).rated / 8
      | .converter => 1) ≤ s.ae.draw - s.load := by
  unfold State.fits
  dsimp only
  cases (s.record c).kind with
  | switched => exact decide_eq_true_iff
  | timed => exact decide_eq_true_iff
  | modulated =>
    unfold dutyCurrent
    rw [Nat.mul_one]
    exact decide_eq_true_iff
  | converter => exact decide_eq_true_iff

theorem State.mayStart_iff : s.mayStart c = true ↔ s.CanStart c := by
  unfold State.mayStart State.ready State.CanStart State.minOffElapsed ChannelRecord.minOffMs Channel.asks
  rw [Nat.mul_comm (s.record c).minOff 1000]
  have hfits := s.fits_iff c
  simp only [Bool.and_eq_true, bne_iff_ne, decide_eq_true_eq]
  exact ⟨fun ⟨⟨⟨⟨h1, h2⟩, h3⟩, h4⟩, h5⟩ => ⟨h1, h2, h3, h5, hfits.mp h4⟩,
    fun ⟨h1, h2, h3, h5, h4⟩ => ⟨⟨⟨⟨h1, h2⟩, h3⟩, hfits.mpr h4⟩, h5⟩⟩

/-- R145: the first channel of a list that may start. -/
theorem find?_first {p : Fin 4 → Bool} {l m : List (Fin 4)} {e : Fin 4} (hl : ∀ d ∈ l, p d = false) (he : p e = true) :
    (l ++ e :: m).find? p = some e := by
  rw [List.find?_append, List.find?_eq_none.mpr fun d hd => by rw [hl d hd]; exact Bool.false_ne_true]
  simp [he]

/-- The currents of the other channels leave the current of one its room. -/
theorem State.load_add {s t : State} (hrec : ∀ d, t.record d = s.record d) (hc : loadCurrent (s.record c) (s.chan c) = 0)
    (ho : ∀ d, d ≠ c → loadCurrent (s.record d) (s.chan d) ≤ loadCurrent (s.record d) (t.chan d)) :
    s.load + loadCurrent (s.record c) (t.chan c) ≤ t.load := by
  have hset := s.load_setChan c (t.chan c)
  have hle : (s.setChan c (t.chan c)).load ≤ t.load := State.load_le fun d => by
    rw [State.record_setChan, State.chan_setChan, hrec]
    split
    · next e => exact e ▸ le_rfl
    · next e => exact ho d (Ne.symm e)
  omega

/-- R145: what the start of a channel makes of the state. -/
theorem State.restore_startsOne (hl : s.load ≤ s.ae.draw) (hm : s.mayRestore = true) (h : s.restart = some c) :
    s.StartsOne s.restore.resetCounter c := by
  obtain ⟨hsp, hrun, n, hn, heff, hc⟩ := s.restore_started c hm h
  have hchan : s.restore.resetCounter.chan c =
      { s.chan c with state := .starting, minOn := 0, duty := n, shedPos := none } := (State.resetCounter_chan _ c).trans hc
  obtain ⟨-, e2, e3⟩ := s.restore.resetCounter_same
  obtain ⟨hs, hstart⟩ := s.restart_some h
  have hidle : (s.chan c).state.running = false := by
    obtain h | h := hs
    · exact ChannelState.running_of_listed h
    · rw [h]; rfl
  have hother : ∀ d, d ≠ c → ∃ n, (s.chan d).duty ≤ n ∧ s.restore.chan d = { s.chan d with duty := n } := fun d hd =>
    s.restore_other d (.inr fun k => hd (Option.some.inj (k.symm.trans h)))
  refine ⟨by rw [hchan], by rw [hchan], by rw [hchan], e2.trans hsp, e3.trans hrun, fun hk => ?_, fun d hd => ?_⟩
  · rw [hchan]
    have hp : (s.record c).present = true := ((s.mayStart_iff c).mp hstart).1
    have hrec := (Loads.restore s).recordOf
    have hcur : loadCurrent (s.record c) (s.restore.chan c) = dutyCurrent (s.record c).rated n := by
      unfold loadCurrent
      rw [hc, hp, hk]
      rfl
    have hroom := State.load_add c hrec (Channel.Eases.loadCurrent_idle hidle) fun d hd => by
      obtain ⟨m, hm, hd⟩ := hother d hd
      rw [hd]
      exact (Channel.Eases.of_lower (P := False) (r := s.record d) (a := { s.chan d with duty := m }) (b := s.chan d) rfl hm
        rfl).load.resolve_left id
    rw [hcur] at hroom
    have hall := s.restore_load hl
    have hstartDuty : s.startDuty c = largestDuty (s.record c).rated (s.ae.draw - s.load) (s.chan c).effective := if_pos hk
    have hbound : dutyCurrent (s.record c).rated n ≤ s.ae.draw - s.load := by omega
    exact ⟨heff ((s.mayStart_iff c).mp hstart).2.1, hbound, fun d hd hr => (largestDuty_max _ _ _ d hd hr).trans (hstartDuty ▸ hn)⟩
  · obtain ⟨m, -, hd⟩ := hother d hd
    rw [State.resetCounter_chan, hd]

end

end Sys2Proof.Machine

/-! The laws of an admission event (R142, R143, R145, R147). -/

namespace Sys2Proof.Machine

section
variable (s : State)

theorem State.mayRestore_iff : s.mayRestore = true ↔
    0 < s.ae.draw ∧ s.load ≤ s.ae.draw ∧ s.cc.phase ≠ .held ∧ s.cc.phase ≠ .offset := by
  unfold State.mayRestore
  simp only [Bool.and_eq_true, decide_eq_true_eq, bne_iff_ne]
  exact ⟨fun ⟨⟨⟨h1, h2⟩, h3⟩, h4⟩ => ⟨h1, h2, h3, h4⟩, fun ⟨h1, h2, h3, h4⟩ => ⟨⟨⟨h1, h2⟩, h3⟩, h4⟩⟩

theorem State.restart_none (h : ∀ c, s.onList c = true ∨ (s.chan c).state = .off → ¬ s.CanStart c) : s.restart = none := by
  cases hr : s.restart with
  | none => rfl
  | some c =>
    obtain ⟨hs, hm⟩ := s.restart_some hr
    have hcan := (s.mayStart_iff c).mp hm
    refine absurd hcan (h c ?_)
    obtain hl | ho := hs
    · exact .inl ((s.onList_iff c).mpr ⟨hcan.1, hl⟩)
    · exact .inr ho

/-- R145: restoration starts the first of the shed list that can start. -/
theorem State.restart_listed {l m : List (Fin 4)} {c : Fin 4} (h : s.shedOrder = l ++ c :: m) (hl : ∀ d ∈ l, ¬ s.CanStart d)
    (hc : s.CanStart c) : s.restart = some c := by
  unfold State.restart
  rw [h, find?_first (fun d hd => Bool.eq_false_iff.mpr fun k => hl d hd ((s.mayStart_iff d).mp k)) ((s.mayStart_iff c).mpr hc)]
  rfl

/-- R145: with none of the shed list to start, restoration starts the first in order of priority that is OFF and can start. -/
theorem State.restart_off {l m : List (Fin 4)} {c : Fin 4} (hn : ∀ d, s.onList d = true → ¬ s.CanStart d)
    (h : s.byPriority = l ++ c :: m) (hl : ∀ d ∈ l, (s.chan d).state = .off → ¬ s.CanStart d) (ho : (s.chan c).state = .off)
    (hc : s.CanStart c) : s.restart = some c := by
  have hnone : s.shedOrder.find? s.mayStart = none := List.find?_eq_none.mpr fun d hd k =>
    hn d ((s.mem_shedOrder d).mp hd) ((s.mayStart_iff d).mp k)
  have hfirst : s.byPriority.find? (fun c => (s.chan c).state == ChannelState.off && s.mayStart c) = some c := by
    rw [h]
    refine find?_first (fun d hd => Bool.eq_false_iff.mpr fun k => ?_) (by simp [ho, (s.mayStart_iff c).mpr hc])
    simp only [Bool.and_eq_true, beq_iff_eq] at k
    exact hl d hd k.1 ((s.mayStart_iff d).mp k.2)
  unfold State.restart
  rw [hnone, hfirst]
  rfl

/-- R145: a running channel goes on through restoration. -/
theorem State.restore_running (c : Fin 4) (h : s.runs c = true) : (s.restore.chan c).state = (s.chan c).state ∧
    (s.chan c).duty ≤ (s.restore.chan c).duty := by
  obtain ⟨n, hn, hc⟩ := s.restore_other c (.inr fun k => by
    have hr := ((s.runs_iff c).mp h).2
    obtain hl | ho := (s.restart_some k).1
    · rw [ChannelState.running_of_listed hl] at hr
      cases hr
    · rw [ho] at hr
      cases hr)
  rw [hc]
  exact ⟨rfl, hn⟩

/-- R142, R143, R147: an admission event and the applied draw. -/
theorem State.admission_fits : s.admission.load ≤ s.admission.ae.draw ∧ s.admission.ae.draw = s.ae.draw ∧
    (s.ae.draw = 0 → ∀ c, s.admission.runs c = false) ∧
    ((∃ c, s.runs c = true ∧ s.admission.runs c = false) → ∀ c, s.admission.runs c = true →
      s.runs c = true ∧ (s.admission.chan c).duty ≤ (s.chan c).duty) ∧
    (s.osm.op.alarmsTaken = true → ∀ c, s.admission.inForce .shortCycle c.val =
      if s.runs c = true ∧ s.admission.runs c = false then
        (if 1000 * (s.record c).minOn ≤ (s.chan c).minOn then false
        else if s.ae.draw = 0 then s.inForce .shortCycle c.val else true)
      else s.inForce .shortCycle c.val) := by
  have hd : s.admission.ae.draw = s.ae.draw := congrArg Allotment.draw (Loads.admission s).draw
  exact ⟨hd ▸ s.admission_load, hd, fun h c => s.admission_none c h, fun h c => s.admission_sheds c h,
    fun h c => s.admission_short c h⟩

/-- R145: an admission event that finds the currents within the draw. -/
theorem State.admission_starts (hl : s.load ≤ s.ae.draw) (hd : 0 < s.ae.draw) :
    (∀ c, s.runs c = true → (s.admission.chan c).state = (s.chan c).state ∧ (s.chan c).duty ≤ (s.admission.chan c).duty) ∧
    (s.cc.phase = .held ∨ s.cc.phase = .offset ∨ (∀ c, s.onList c = true ∨ (s.chan c).state = .off → ¬ s.CanStart c) →
      ∀ c, (s.admission.chan c).state = (s.chan c).state) ∧
    (s.cc.phase ≠ .held → s.cc.phase ≠ .offset →
      (∀ l c m, s.shedOrder = l ++ c :: m → (∀ d ∈ l, ¬ s.CanStart d) → s.CanStart c → s.StartsOne s.admission c) ∧
      ((∀ d, s.onList d = true → ¬ s.CanStart d) → ∀ l c m, s.byPriority = l ++ c :: m →
        (∀ d ∈ l, (s.chan d).state = .off → ¬ s.CanStart d) → (s.chan c).state = .off → s.CanStart c →
        s.StartsOne s.admission c)) := by
  rw [s.admission_restores hl hd]
  refine ⟨fun c hc => ?_, fun h c => ?_, fun hh ho => ?_⟩
  · rw [State.resetCounter_chan]
    exact s.restore_running c hc
  · rw [State.resetCounter_chan]
    obtain ⟨n, -, hc⟩ := s.restore_other c (by
      obtain h | h | h := h
      · exact .inl (Bool.eq_false_iff.mpr fun k => (s.mayRestore_iff.mp k).2.2.1 h)
      · exact .inl (Bool.eq_false_iff.mpr fun k => (s.mayRestore_iff.mp k).2.2.2 h)
      · exact .inr (by rw [s.restart_none h]; nofun))
    rw [hc]
  · have hm : s.mayRestore = true := s.mayRestore_iff.mpr ⟨hd, hl, hh, ho⟩
    exact ⟨fun l c m h hn hc => s.restore_startsOne c hl hm (s.restart_listed h hn hc),
      fun hn l c m h hn' hoff hc => s.restore_startsOne c hl hm (s.restart_off hn h hn' hoff hc)⟩

end

/-! What every step keeps of the load channels. -/

section
variable {s t u : State}

/-- The currents lie within the applied draw, each request is the one its source gives, and each channel rests by its record. -/
structure State.LoadsKept (s : State) : Prop where
  load : s.load ≤ s.ae.draw
  request : ∀ c, (s.chan c).request = s.wantedRequest c
  fits : ∀ c, (s.chan c).Fits
  rest : s.LoadsRest
  loading : s.osm.op = .loading → ∀ c, (s.chan c).state = .off

theorem State.loadsOk_iff : s.LoadsOk ↔ s.LoadsKept := by
  have habsent : ∀ c, (s.record c).present = false → s.wantedRequest c = 0 := fun c h => by
    unfold State.wantedRequest
    dsimp only
    rw [h, Bool.false_and, if_neg Bool.false_ne_true]
  constructor
  · rintro ⟨h1, h2⟩
    refine ⟨h1, fun c => (h2 c).1, fun c => (h2 c).2.1, fun c => ⟨(h2 c).2.2.1, fun hp => ?_⟩, fun ho c => (h2 c).2.2.2 (.inl ho)⟩
    exact ⟨(h2 c).2.2.2 (.inr hp), (h2 c).1.trans (habsent c hp)⟩
  · rintro ⟨h1, h2, h3, h4, h5⟩
    exact ⟨h1, fun c => ⟨h2 c, h3 c, (h4 c).1, fun h => h.elim (fun ho => h5 ho c) fun hp => ((h4 c).2 hp).1⟩⟩

theorem AdmitStep.off {r : ChannelRecord} {a b : Channel} (h : AdmitStep r a b) (ha : a.state = .off ∧ a.request = 0) :
    b.state = .off ∧ b.request = 0 := by
  obtain ⟨hs, hq⟩ := ha
  cases h with
  | shed _ h => rw [hs] at h; cases h
  | wait h => cases h
  | off h => cases h
  | position p _ h => rw [hs] at h; cases h
  | lower d _ h => rw [hs] at h; cases h
  | raise d _ _ h => rw [hs] at h; cases h
  | start d _ _ _ h => rw [Channel.asks, hq] at h; cases h
  | place p e => exact ⟨hs, hq⟩
  | request q h => cases h

/-- A channel at rest whose request is as its source gives it is left alone. -/
theorem State.refreshRequests_idle (h : ∀ c, s.wantedRequest c = (s.chan c).request ∧ s.runs c = false) (c : Fin 4) :
    s.refreshRequests.chan c = s.chan c := by
  have hone : ∀ c, s.refreshOne c = s := fun c => by
    unfold State.refreshOne
    dsimp only
    rw [if_pos (h c).1]
    exact if_neg (by rw [(h c).2]; simp)
  have hall : ∀ l : List (Fin 4), l.foldl State.refreshOne s = s := by
    intro l
    induction l with
    | nil => rfl
    | cons d l ih => rw [List.foldl_cons, hone, ih]
  unfold State.refreshRequests
  rw [State.resetCounter_chan, hall]

/-- R142: the admission events of a step leave the currents within the applied draw where those they find are within the draw
before. -/
theorem State.admissions_load (cue : Cue) (os : List Inhibits) (s0 : State) (h : s.load ≤ s0.ae.draw) :
    (State.admissions cue os s0 s).load ≤ (State.admissions cue os s0 s).ae.draw := by
  have hadmit : ∀ t : State, t.admission.load ≤ t.admission.ae.draw := fun t => t.admission_fits.1
  unfold State.admissions
  dsimp only
  split
  · exact hadmit _
  · split
    · next hd => exact h.trans_eq hd.symm
    · exact hadmit _

/-- R137: after one pass over the blocks the request of a present channel is the one its source gives. -/
theorem State.passFrom_request (cue : Cue) (os : List Inhibits) (s0 a : State) {c : Fin 4} (hp : (a.record c).present = true) :
    ((State.passFrom cue os s0 a).chan c).request = (State.passFrom cue os s0 a).wantedRequest c := by
  have hafter := State.passFrom_after cue os s0 a
  have hkept : Kept (a.evaluate os) (State.passFrom cue os s0 a) :=
    ((((Kept.refreshRequests _).trans (Kept.clampRegen _ _)).trans (Kept.admissions cue os s0 _)).trans
      ((Kept.settleRestoring _).trans (Kept.rebuildClaims _))).trans (Kept.settleShare cue _)
  have hrec : (a.evaluate os).record c = a.record c :=
    congrArg (fun x : Settings => x.chans[c]) (Kept.evaluate os a).settings
  have hreq := (State.refreshRequests_chan (a.evaluate os) c (hrec ▸ hp)).1
  have hpending := (Loads.refreshRequests (a.evaluate os)).pending c
  have hadm := (Loads.admissions ((a.evaluate os).refreshRequests.clampRegen os) cue os s0).asked c
  have hclamp : ∀ r : State, (r.clampRegen os).chan c = r.chan c := fun _ => rfl
  rw [hclamp] at hadm
  have hasked := (hafter.asked c).trans hadm
  generalize State.passFrom cue os s0 a = t at hkept hasked
  generalize (a.evaluate os).refreshRequests = r at hreq hpending hasked
  simp only [Channel.asked, Prod.mk.injEq] at hasked
  obtain ⟨h1, h2, -⟩ := hasked
  rw [(hkept.source (h2.trans hpending)).wanted, h1, hreq]

theorem State.wantedRequest_absent {c : Fin 4} (hp : (s.record c).present = false) : s.wantedRequest c = 0 := by
  unfold State.wantedRequest
  dsimp only
  rw [hp, Bool.false_and, if_neg Bool.false_ne_true]

/-- One pass over the blocks settles the channels, whatever the requests and the duties before it. -/
theorem State.passFrom_kept (cue : Cue) (os : List Inhibits) (s0 a : State) (hrest : a.LoadsRest) (hl : a.load ≤ s0.ae.draw)
    (hidle : a.osm.op = .loading → ∀ c, (a.chan c).state = .off ∧ (a.chan c).request = 0) :
    (State.passFrom cue os s0 a).LoadsKept := by
  have hafter := State.passFrom_after cue os s0 a
  have hkept : Kept a (State.passFrom cue os s0 a) := (Kept.evaluate os a).trans
    (((((Kept.refreshRequests _).trans (Kept.clampRegen _ _)).trans (Kept.admissions cue os s0 _)).trans
      ((Kept.settleRestoring _).trans (Kept.rebuildClaims _))).trans (Kept.settleShare cue _))
  have hosm : (State.passFrom cue os s0 a).osm = a.osm := hkept.osm
  have hrec : ∀ c, (State.passFrom cue os s0 a).record c = a.record c := fun c =>
    congrArg (fun x : Settings => x.chans[c]) hkept.settings
  have hrequest := fun c => State.passFrom_request cue os s0 a (c := c)
  have hbrec : ∀ c, (a.evaluate os).record c = a.record c := fun c =>
    congrArg (fun x : Settings => x.chans[c]) (Kept.evaluate os a).settings
  have hev := Loads.evaluate os a
  have hstart : (if a.osm.op.evaluates = true then a.withIa a.evaluated else a).LoadsRest ∧
      (if a.osm.op.evaluates = true then a.withIa a.evaluated else a).load = a.load := by
    split <;> exact ⟨hrest, rfl⟩
  have hbrest : (a.evaluate os).LoadsRest := hev.rest (fun _ _ _ => InhibitStep.eases trivial) hstart.1
  have hbload : (a.evaluate os).load ≤ a.load := (hev.load_le fun _ _ _ => InhibitStep.load).trans hstart.2.le
  have hloading : a.osm.op = .loading → a.evaluate os = a := fun ho => by
    unfold State.evaluate
    rw [if_neg (by rw [ho]; exact Bool.false_ne_true)]
  generalize a.evaluate os = b at hafter hbrest hbload hloading hbrec
  have hreq := Loads.refreshRequests b
  have hrload := (hreq.load_le fun _ _ _ => RequestStep.load).trans (hbload.trans hl)
  have hrrest := hreq.rest (fun _ _ _ => ChannelStep.easesAny) hbrest
  have hrchan : ∀ c, (a.record c).present = true → (b.refreshRequests.chan c).Fits := fun c hp =>
    (b.refreshRequests_chan c (hbrec c ▸ hp)).2 hbrest
  have hridle := b.refreshRequests_idle
  generalize b.refreshRequests = r at hafter hrload hrrest hrchan hridle
  have hx : (r.clampRegen os).LoadsRest ∧ (r.clampRegen os).load = r.load := ⟨hrrest, rfl⟩
  have hadm := Loads.admissions (r.clampRegen os) cue os s0
  have hyload := State.admissions_load (s := r.clampRegen os) cue os s0 (hx.2.trans_le hrload)
  have hyrest := hadm.rest (fun _ _ _ => ChannelStep.easesAny) hx.1
  generalize State.admissions cue os s0 (r.clampRegen os) = y at hafter hadm hyload hyrest
  have htrest := hafter.rest hyrest
  refine ⟨by rw [hafter.load, hafter.draw]; exact hyload, fun c => ?_, fun c => ?_, htrest, fun ho c => ?_⟩
  · cases hp : (a.record c).present with
    | true => exact hrequest c hp
    | false =>
      rw [← hrec] at hp
      rw [((htrest c).2 hp).2, State.wantedRequest_absent hp]
  · cases hp : (a.record c).present with
    | true => exact hafter.fits c (hadm.fits c (hrchan c hp))
    | false =>
      rw [← hrec] at hp
      exact fun k => absurd ((htrest c).2 hp).2 k
  · rw [hosm] at ho
    have hb := hloading ho
    have hoff : ∀ c, (r.chan c).state = .off ∧ (r.chan c).request = 0 := fun c => by
      rw [hridle (fun d => ?_) c, hb]
      · exact hidle ho c
      · rw [hb, State.wantedRequest_idle (by rw [ho]; rfl), (hidle ho d).2]
        unfold State.runs
        rw [(hidle ho d).1]
        exact ⟨rfl, Bool.and_false _⟩
    rw [(hafter.state c).1]
    exact (hadm.chans (R := fun _ a b => a.state = .off ∧ a.request = 0 → b.state = .off ∧ b.request = 0) (fun _ _ h => h)
      (fun _ _ _ _ h k ha => k (h ha)) (fun _ _ _ => AdmitStep.off) c (hoff c)).1

end

end Sys2Proof.Machine

/-! Every step keeps the currents within the applied draw, the requests with their sources and the DRIVER cut with its input
(R130, R137, R150). -/

namespace Sys2Proof.Machine

section
variable {E : List Special} {s t : State}

theorem Change.eases (h : Change E s t) (c : Fin 4) : (s.chan c).Eases (.admits ∈ E) (s.record c) (t.chan c) := by
  cases h with
  | lcm x _ _ h => exact h c
  | flags x _ _ h => exact h c
  | _ => exact .refl _

/-- Outside LOADING's end no change spoils the rest of a channel. -/
theorem Changes.rest (hl : .loads ∉ E) (h : Changes E s t) (hs : s.LoadsRest) : t.LoadsRest :=
  h.keeps (fun a b k ha c => by
    have hset : b.settings = a.settings := congrArg Prod.fst (k.settled hl)
    have hr : b.record c = a.record c := congrArg (fun x : Settings => x.chans[c]) hset
    rw [hr]
    exact (k.eases c).rests (ha c)) hs

/-- Without an admission no current rises. -/
theorem Changes.load_le (hl : .loads ∉ E) (ha : .admits ∉ E) (h : Changes E s t) : t.load ≤ s.load :=
  h.keeps (P := fun t => t.load ≤ s.load) (fun a b k hle => (State.load_le fun c => by
    have hset : b.settings = a.settings := congrArg Prod.fst (k.settled hl)
    have hr : b.record c = a.record c := congrArg (fun x : Settings => x.chans[c]) hset
    rw [hr]
    exact (k.eases c).load.resolve_left ha).trans hle) le_rfl

/-- Every channel is off and asks for nothing. -/
def State.LoadsIdle (s : State) : Prop := ∀ c, (s.chan c).state = .off ∧ (s.chan c).request = 0

/-- Without an admission a channel that is off and asks for nothing stays so. -/
theorem Changes.idle (ha : .admits ∉ E) (h : Changes E s t) (hs : s.LoadsIdle) : t.LoadsIdle :=
  h.keeps (fun _ _ k hi c => (k.eases c).idle.resolve_left ha (hi c)) hs

theorem State.LoadsIdle.load (h : s.LoadsIdle) : s.load = 0 :=
  State.load_zero fun c => Channel.Eases.loadCurrent_idle (by rw [(h c).1]; rfl)

/-- What a step's reaction to a command starts from. -/
structure State.LoadsReady (s u : State) : Prop where
  rest : u.LoadsRest
  load : u.load ≤ s.ae.draw
  idle : u.osm.op = .loading → u.LoadsIdle

theorem State.LoadsKept.idle (h : s.LoadsKept) (ho : s.osm.op = .loading) : s.LoadsIdle := fun c =>
  ⟨h.loading ho c, (h.request c).trans (State.wantedRequest_idle (by rw [ho]; rfl) c)⟩

/-- One pass over the blocks. -/
theorem State.settleBlocks_kept (cue : Cue) {s0 u : State} (h : s0.LoadsReady u) : (State.settleBlocks cue s0 u).LoadsKept := by
  have hch : Changes [] u u.driverCut.forceZero := (Changes.driverCut u).trans (Changes.forceZero _)
  have hosm : u.driverCut.forceZero.osm = u.osm := ((Kept.driverCut u).trans (Kept.forceZero _)).osm
  rw [State.settleBlocks_eq]
  exact State.passFrom_kept _ _ _ _ (hch.rest (by simp) h.rest) ((hch.load_le (by simp) (by simp)).trans h.load)
    fun ho => hch.idle (by simp) (h.idle (hosm ▸ ho))

/-- The pass over the blocks and the move that follows it. -/
theorem State.settleMove_kept (cue : Cue) {s0 u : State} (h : s0.LoadsReady u) :
    (State.settleBlocks cue s0 u).settleMove.LoadsKept := by
  have hw := State.settleBlocks_kept cue h
  generalize State.settleBlocks cue s0 u = w at hw
  obtain ⟨-, hm⟩ | ⟨hne, hm⟩ := w.settleMove_cases
  · rw [hm]
    exact hw
  · rw [hm]
    have hch : Changes [.moves] w w.autoMove := Changes.autoMove w (by simp)
    refine State.settleBlocks_kept noCue ⟨hch.rest (by simp) hw.rest, (hch.load_le (by simp) (by simp)).trans hw.load, fun ho => ?_⟩
    by_cases hl : w.osm.op = .loading
    · exact absurd (ho.trans hl.symm) hne
    · exact absurd ho (hch.not_loading hl)

theorem Carried.heatRead (h : Carried s t) (hp : s.ConsolePlaced) : t.heatRead = s.heatRead := by
  have hcf : t.cf.heat = s.cf.heat := by
    have e : t.cf.carried.heat = s.cf.carried.heat := by rw [h.cf]
    exact e
  refine State.heatRead_congr h.settings h.role hcf fun hr => consolePartOf_carried (h.peers _ ?_)
  by_contra hn
  exact hr (hp (by simpa using hn))

/-- What of a channel its request, its current and its duty are read from. -/
def Channel.viewed (a : Channel) : ChannelState × Nat × Nat × Nat × Bool × Bool :=
  (a.state, a.duty, a.request, a.cap, a.requesting, a.cyclePending)

/-- What holds of the channels is seen from the sources, the channels and the applied draw. -/
theorem State.LoadsKept.of_same (h : s.LoadsKept) (hv : ∀ c, (t.chan c).viewed = (s.chan c).viewed) (hset : t.settings = s.settings)
    (ho : t.osm.op = s.osm.op) (hr : t.osm.role = s.osm.role) (hsu : t.su = s.su)
    (hheat : s.osm.op.runs = true → t.heatRead = s.heatRead) (hd : t.ae.draw = s.ae.draw) : t.LoadsKept := by
  have hrec : ∀ c, t.record c = s.record c := fun c => by rw [State.record, State.record, hset]
  have hview : ∀ c, (t.chan c).state = (s.chan c).state ∧ (t.chan c).duty = (s.chan c).duty ∧
      (t.chan c).request = (s.chan c).request ∧ (t.chan c).effective = (s.chan c).effective ∧
      (t.chan c).requesting = (s.chan c).requesting ∧ (t.chan c).cyclePending = (s.chan c).cyclePending := fun c => by
    have k := hv c
    simp only [Channel.viewed, Prod.mk.injEq] at k
    obtain ⟨k1, k2, k3, k4, k5, k6⟩ := k
    exact ⟨k1, k2, k3, by unfold Channel.effective; rw [k3, k4], k5, k6⟩
  refine ⟨?_, fun c => ?_, fun c => ?_, fun c => ?_, fun hl c => ?_⟩
  · rw [hd]
    refine (State.sameLoad fun c => ?_).trans_le h.load
    rw [hrec]
    exact Channel.Eases.loadCurrent_congr (hview c).1 (hview c).2.1
  all_goals obtain ⟨k1, k2, k3, k4, k5, k6⟩ := hview c
  · rw [k3, h.request c]
    exact (SameSource.wanted ⟨hset, ho, hr, hsu, fun _ h => hheat h, k5, k6⟩).symm
  · unfold Channel.Fits
    rw [k2, k3, k4]
    exact h.fits c
  · unfold Channel.Rests
    rw [k1, k2, k3, hrec]
    exact h.rest c
  · rw [k1]
    exact h.loading (ho ▸ hl) c

theorem SameReads.loadsKept (h : SameReads s t) (hs : s.LoadsKept) (hv : ∀ c, (t.chan c).viewed = (s.chan c).viewed)
    (ho : t.osm.op = s.osm.op) (hheat : t.cf.heat = s.cf.heat) (hd : t.ae.draw = s.ae.draw) : t.LoadsKept :=
  hs.of_same hv h.settings ho h.role h.su (fun _ => State.heatRead_congr h.settings h.role hheat h.console) hd

theorem Aside.loadsKept (h : Aside s t) (hs : s.LoadsKept) : t.LoadsKept := by
  refine h.reads.loadsKept hs (fun c => ?_) (by rw [h.osm]) h.cf.2 h.draw
  have hc := h.chan c
  unfold Channel.unclocked at hc
  injection hc with h1 h2 h3 h4 h5 h6 h7 h8 h9 h10 h11 h12 h13 h14
  unfold Channel.viewed
  simp only [*]

theorem Ticked.loadsKept (h : Ticked s t) (hs : s.LoadsKept) : t.LoadsKept := by
  refine h.reads.loadsKept hs (fun c => ?_) h.op.1 ?_ h.currents.1
  · rw [h.chan]
    unfold Channel.tick
    split <;> rfl
  · obtain ⟨k, hk⟩ := h.cf
    rw [hk]
    rfl

/-- A step's reaction, where the console station's entry is another station's or the own one of the console. -/
theorem State.react_loadsKept (cue : Cue) {s u : State} (h : s.LoadsReady u)
    (hp : (State.react cue s u).osm.op.runs = true → (State.react cue s u).ConsolePlaced) : (State.react cue s u).LoadsKept := by
  have hw := State.settleMove_kept cue h
  have hcarried := State.closing_carried cue s u
  have hclosed := Closed.react cue s u
  generalize (State.settleBlocks cue s u).settleMove = w at hw hcarried hclosed
  generalize State.react cue s u = t at hcarried hclosed hp
  refine hw.of_same (fun c => ?_) hcarried.settings hclosed.op hcarried.role hcarried.su (fun hr => ?_) hclosed.draw
  · unfold State.chan
    rw [hclosed.lcm]
  · refine hcarried.heatRead fun ho => ?_
    rw [← hcarried.isOwn, ← hcarried.settings] at ho
    rw [← hcarried.role]
    exact hp (hclosed.op ▸ hr) ho

/-- What LOADING's end leaves of the channels. -/
theorem State.loaded_idle (o : OpState) (r : Role) (n : Nat) (c : Settings) (hs : s.LoadsIdle) (hr : s.LoadsRest) :
    (s.loaded o r n c).LoadsIdle ∧ (s.loaded o r n c).LoadsRest := by
  obtain ⟨v, -, -, -, -, -, hv, hl⟩ := s.loaded_changes o r n c
  have hchan : ∀ c, v.chan c = s.chan c := fun c => by rw [State.chan, State.chan, hl]
  refine ⟨hv.idle (by simp) fun c => by rw [hchan]; exact hs c, hv.rest (by simp) fun c => ?_⟩
  rw [hchan]
  exact ⟨fun _ => (hr c).1 (.inl (by rw [(hs c).1]; rfl)), fun _ => hs c⟩

theorem State.LoadsReady.of_idle {u : State} (hi : u.LoadsIdle) (hr : u.LoadsRest) : s.LoadsReady u :=
  ⟨hr, hi.load.trans_le (Nat.zero_le _), fun _ => hi⟩

/-- What a command leaves of the channels before the blocks react. -/
theorem Effect.loadsReady {c : Instr} {cue : Cue} {u : State} (h : Effect s c cue u) (hs : s.LoadsKept) : s.LoadsReady u := by
  by_cases hm : .loads ∈ .moves :: s.specials c
  · obtain ⟨x, hc⟩ := State.mem_moves (k := .loads) (s := s) (c := c) (by simpa using hm)
    cases h with
    | maintenance y ho =>
      have hl := State.loaded_idle .maintenance (strapsRole y) y.number.toNat defaultSettings (hs.idle ho) hs.rest
      exact .of_idle hl.1 hl.2
    | faulted y ho =>
      have hl := State.loaded_idle .faulted (strapsRole y) y.number.toNat (faultedSettings s.cs.image) (hs.idle ho) hs.rest
      have hch : ∀ t : State, Changes [] t (t.readSpecial.onset .configFault 0) := fun t =>
        (Changes.readSpecial t).trans (Changes.onset _ _ _)
      exact .of_idle ((hch _).idle (by simp) hl.1) ((hch _).rest (by simp) hl.2)
    | running y ho _ =>
      have hl := State.loaded_idle .listening (strapsRole y) y.number.toNat (settle (strapsRole y) s.cs.image) (hs.idle ho) hs.rest
      have hch := fun t : State => Changes.readSpecial (E := []) t
      exact .of_idle ((hch _).idle (by simp) hl.1) ((hch _).rest (by simp) hl.2)
    | poles c w u _ h => subst hc; cases h
    | wake _ h => subst hc; cases h
    | duplicate c f _ h => subst hc; cases h
    | judged k kind _ => cases kind <;> cases hc
    | _ => cases hc
  · have hch := h.changes
    refine ⟨hch.rest hm hs.rest, (hch.load_le hm ?_).trans hs.load, fun hu => hch.idle ?_ (hs.idle ?_)⟩
    · exact List.not_mem_cons_of_ne_of_not_mem nofun fun hm => State.mem_specials hm
    · exact List.not_mem_cons_of_ne_of_not_mem nofun fun hm => State.mem_specials hm
    · by_contra ho
      exact hch.not_loading ho hu

/-- R130: one pass over the blocks takes the driver's input. -/
theorem State.settleBlocks_driver (cue : Cue) (s0 u : State) (h : u.osm.op.serves = true) :
    (State.settleBlocks cue s0 u).DriverSettled := by
  intro hr _
  have p := Pass.afterDriver cue s0 u
  have hk := Kept.settleBlocks cue s0 u
  rw [hk.osm] at hr
  rw [State.holdsCut_eq, p.cuts, ← State.holdsCut_eq]
  have hdin : (State.settleBlocks cue s0 u).din 8 = u.din 8 := by rw [State.din, State.din, hk.su]
  rw [hdin]
  unfold State.driverCut
  rw [if_pos ⟨hr, h⟩]
  cases hd : u.din 8 with
  | true => rw [if_pos rfl, State.originate_holds]; simp
  | false => rw [if_neg Bool.false_ne_true, State.releaseOwn_holds]; simp

theorem State.DriverSettled.of_same (h : s.DriverSettled) (hr : t.osm.role = s.osm.role) (ho : t.osm.op = s.osm.op)
    (hsu : t.su = s.su) (hc : t.cc.cuts = s.cc.cuts) : t.DriverSettled := by
  unfold State.DriverSettled State.din
  rw [hr, ho, hsu, State.holdsCut_eq, hc, ← State.holdsCut_eq]
  exact h

theorem State.react_driver (cue : Cue) (s u : State) (h : (State.react cue s u).osm.op.serves = true) :
    (State.react cue s u).DriverSettled := by
  have hclosed := Closed.react cue s u
  have hcarried := State.closing_carried cue s u
  obtain ⟨k, v, w, e⟩ := State.settleMove_pass cue s u
  rw [e] at hclosed hcarried
  refine State.DriverSettled.of_same (State.settleBlocks_driver k v w ?_) hcarried.role hclosed.op hcarried.su
    (congrArg CutUnit.cuts hclosed.cc)
  rw [hclosed.op, (Kept.settleBlocks k v w).osm] at h
  exact h

/-- R148: where no output reaches a channel, the channels are settled. -/
theorem State.LoadsKept.settled (h : s.LoadsKept) (hi : s.InterlockOk) (hr : s.osm.op.runs = true)
    (ho : s.evaluated.outputs = noInhibits) : s.LoadsSettled := by
  obtain ⟨-, ⟨-, -, hout⟩, hstand⟩ := (State.interlockOk_iff s).mp hi hr
  refine ⟨ho, fun c => ⟨fun hc => ?_, (h.request c).symm, h.fits c⟩⟩
  cases hp : (s.record c).present with
  | false =>
    rw [((h.rest c).2 hp).1] at hc
    cases hc
  | true =>
    have hreach := (hstand c hp).mp hc
    have hnone : ∀ c, noInhibits.reaches c = false := by decide
    rw [hout, ho, hnone] at hreach
    cases hreach

theorem exec_loadsKept {c : Instr} (ha : s.ActiveOk) (hl : s.LoadsKept)
    (hd : s.osm.op.serves = true → s.DriverSettled) (h : exec c s = .next t) :
    t.LoadsKept ∧ (t.osm.op.serves = true → t.DriverSettled) := by
  cases exec_outcomes h with
  | reset _ ht =>
    subst ht
    obtain ⟨-, -, -, -, -, -, -, -, -, -, -, -, -, hreset, -⟩ := resetMeetsTheInvariants
    exact ⟨(State.loadsOk_iff.mp hreset).of_same (fun _ => rfl) rfl rfl rfl rfl (fun _ => rfl) rfl, nofun⟩
  | same ht => exact ht ▸ ⟨hl, hd⟩
  | direct d =>
    have k := d.aside
    refine ⟨k.loadsKept hl, fun ho => ?_⟩
    rw [k.osm] at ho
    exact (hd ho).of_same (by rw [k.osm]) (by rw [k.osm]) k.su (by rw [k.cc])
  | react cue u e ht =>
    subst ht
    refine ⟨State.react_loadsKept cue (e.loadsReady hl) fun hr => State.consolePlaced_iff.mpr fun _ => ?_,
      State.react_driver cue s u⟩
    exact e.react_keeps_settled (P := fun c r n => n = c.consoleStation → r = .console)
      (fun x hx => (s.enterRunning_placed x hx).1) ha.1 s hr

end

/-- Settles O59: an admission by the operations it is built of (`admission_fits`, `admission_starts`); the channels and the DRIVER cut
by a reaction's last pass over the blocks (`settleBlocks_kept`, `settleBlocks_driver`). -/
theorem admissionFits : Obligations.AdmissionFits := by
  refine ⟨State.admission_fits, fun s => s.admission_starts, fun s t hp _ ha hi _ hl hd h => ?_⟩
  rw [State.loadsOk_iff] at hl ⊢
  have key : t.LoadsKept ∧ (t.osm.op.serves = true → t.DriverSettled) ∧ t.InterlockOk := by
    obtain rfl | ⟨c, rest, hc⟩ := step_cases h
    · have k := s.ticked
      refine ⟨k.loadsKept hl, fun ho => ?_, k.interlockOk hi⟩
      rw [k.op.1] at ho
      exact (hd ho).of_same k.op.2.1 k.op.1 k.su (by rw [k.cc, CutUnit.tick_cuts])
    · obtain ⟨h1, h2⟩ := exec_loadsKept (s := s.withPending rest) ha
        (hl.of_same (fun _ => rfl) rfl rfl rfl rfl (fun _ => rfl) rfl) hd hc
      exact ⟨h1, h2, exec_interlockOk (s := s.withPending rest) hp ha hi hc⟩
  exact ⟨key.1, key.2.1, fun hr ho => key.1.settled key.2.2 hr ho⟩

end Sys2Proof.Machine

/-! What holds along every operation of the load channels holds along one pass over the blocks; the start spacing and the cycles of
TIMED channels along a step's reaction. -/

namespace Sys2Proof.Machine

/-- A relation that shedding keeps and that sees the load channels and the settled values alone. -/
structure ShedRel (P : State → State → Prop) : Prop where
  same : ∀ {s t : State}, t.lcm = s.lcm → t.settings = s.settings → P s t
  trans : ∀ {s t u : State}, P s t → P t u → P s u
  sheds : ∀ {s t : State}, Loads ShedStep s t → P s t

/-- A relation that every operation of the load channels keeps. -/
structure LoadsRel (P : State → State → Prop) : Prop where
  same : ∀ {s t : State}, t.lcm = s.lcm → t.settings = s.settings → P s t
  trans : ∀ {s t u : State}, P s t → P t u → P s u
  steps : ∀ {asks rises : Bool} {s t : State}, Loads (ChannelStep asks rises) s t → P s t
  inhibits : ∀ {s t : State}, Loads InhibitStep s t → P s t

section
variable {P : State → State → Prop} (h : ShedRel P) (s : State)
include h

theorem ShedRel.forceZero : P s s.forceZero := by
  unfold State.forceZero
  split
  · exact h.same s.zeroDraw_lcm.1 s.zeroDraw_lcm.2
  · exact h.same rfl rfl

theorem ShedRel.beginHeld : P s s.beginHeld := by
  obtain ⟨t, hload, heq⟩ := s.beginHeld_eq
  rw [heq]
  have hstart : P s (s.zeroDraw.withCc { s.cc with phase := .held, offset := 0 }) := h.same s.zeroDraw_lcm.1 s.zeroDraw_lcm.2
  exact h.trans (h.trans hstart (h.sheds hload)) (h.same rfl rfl)

theorem ShedRel.putCuts (cuts : List CutEntry) : P s (s.putCuts cuts) := by
  have hset : P s (s.withCc { s.cc with cuts := cuts }) := h.same rfl rfl
  unfold State.putCuts
  dsimp only
  split
  · exact h.trans hset (h.beginHeld _)
  · split
    · exact h.same rfl rfl
    · exact hset

theorem ShedRel.originate (c : CutCause) : P s (s.originate c) := by
  unfold State.originate
  split
  · exact h.same rfl rfl
  · have hurgent : ∀ (t : State) m, P t (t.pushUrgent m) := fun _ _ => h.same rfl rfl
    have hcount : P s (s.withCc { s.cc with counter := (freeNumber s.heldNumbers 9 s.cc.counter + 1) % 256 }) := h.same rfl rfl
    exact h.trans (h.trans hcount (h.putCuts _ _)) (hurgent _ _)

theorem ShedRel.releaseOwn (c : CutCause) : P s (s.releaseOwn c) := by
  unfold State.releaseOwn
  split
  · exact h.same rfl rfl
  · exact h.trans (h.putCuts s _) (h.same rfl rfl)

theorem ShedRel.driverCut : P s s.driverCut := by
  unfold State.driverCut
  split
  · split
    · exact h.originate s _
    · exact h.releaseOwn s _
  · exact h.same rfl rfl

theorem ShedRel.foldl {α : Type} {f : State → α → State} (hf : ∀ s a, P s (f s a)) (l : List α) : P s (l.foldl f s) := by
  induction l generalizing s with
  | nil => exact h.same rfl rfl
  | cons a l ih => exact h.trans (hf s a) (ih _)

theorem ShedRel.onset (k : AlarmKind) (q : Nat) : P s (s.onset k q) := by
  obtain ⟨a, ha, -⟩ := s.onset_only k q
  rw [ha]
  exact h.same rfl rfl

theorem ShedRel.clearCond (k : AlarmKind) (q : Nat) : P s (s.clearCond k q) := by
  obtain ⟨a, ha, -⟩ := s.clearCond_only k q
  rw [ha]
  exact h.same rfl rfl

theorem ShedRel.syncPoleCuts (w : Option Pole) : P s (s.syncPoleCuts w) := by
  have horig : ∀ (t : State) c, P t (State.originateIf w t c) := fun t c => by
    unfold State.originateIf
    split
    · exact h.originate t c
    · exact h.same rfl rfl
  have hrel : ∀ (t : State) c, P t (State.releaseIf w t c) := fun t c => by
    unfold State.releaseIf
    split
    · exact h.same rfl rfl
    · exact h.releaseOwn t c
  have hnote : ∀ t : State, P t t.noteSuspects := fun t => h.same rfl rfl
  exact h.trans (h.trans (h.foldl s horig _) (h.foldl _ hrel _)) (hnote _)

theorem ShedRel.openLine : P s s.openLine := by
  unfold State.openLine
  dsimp only
  split
  · exact h.same rfl rfl
  · have hline : P s (s.withPwu { s.pwu with line := .isOpen, gapTimer := 0 }) := h.same rfl rfl
    split
    · exact h.trans hline (h.clearCond _ _ _)
    · exact hline

theorem ShedRel.endDescent : P s s.endDescent := by
  have hdown : ∀ (t : State) p, P t (t.clearDown p) := fun t p => by
    unfold State.clearDown
    split
    · exact h.trans (h.clearCond t _ _) (h.clearCond _ _ _)
    · exact h.same rfl rfl
  have hall := h.foldl s hdown bothPoles
  unfold State.endDescent
  dsimp only
  generalize bothPoles.foldl State.clearDown s = t at hall
  split
  · split
    · have hop : P t (t.withPwu { t.pwu with operation := .none, drainTimer := 0 }) := h.same rfl rfl
      exact h.trans (h.trans hall hop) (h.clearCond _ _ _)
    · exact h.trans hall (h.clearCond _ _ _)
  · exact hall

theorem ShedRel.finishPoles (w : Option Pole) : P s (s.finishPoles w) := by
  have hsource : ∀ t : State, P t t.updateSource := fun t => h.same rfl rfl
  unfold State.finishPoles
  split
  · exact h.trans (h.trans (h.trans (h.openLine s) (h.endDescent _)) (hsource _)) (h.syncPoleCuts _ w)
  · exact h.same rfl rfl

theorem ShedRel.enterPole (p : Pole) (st : PoleState) : P s (s.enterPole p st) := h.same rfl rfl

theorem ShedRel.abandonRaise : P s s.abandonRaise := by
  have hlower : ∀ (t : State) p, P t (State.lowerIf PoleState.rising t p) := fun t p => by
    unfold State.lowerIf
    split
    · exact h.enterPole t p _
    · exact h.same rfl rfl
  have hend : ∀ t : State, P t t.endRaise := fun t => h.same rfl rfl
  exact h.trans (h.trans (h.foldl s hlower _) (hend _)) (h.onset _ _ _)

theorem ShedRel.returnPole (p : Pole) : P s (s.returnPole p) := by
  have hpole : ∀ r, P s (s.setPole p r) := fun r => h.same rfl rfl
  have hlast : ∀ u : State, P s u → P s (if u.pwu.operation = .lowerDescent then u.enterPole p .lowering else u) := fun u hu => by
    split
    · exact h.trans hu (h.enterPole u p _)
    · exact hu
  unfold State.returnPole
  dsimp only
  refine hlast _ ?_
  split
  · exact h.trans (hpole _) (h.onset _ _ _)
  · exact hpole _

theorem ShedRel.judgeWindow (p : Pole) : P s (s.judgeWindow p) := by
  unfold State.judgeWindow
  split
  · split
    · exact h.same rfl rfl
    · exact h.enterPole s p _
  · split
    · exact h.returnPole s p
    · exact h.same rfl rfl
  · exact h.same rfl rfl

theorem ShedRel.ropeChange (p : Pole) : P s (s.ropeChange p) := by
  unfold State.ropeChange
  split
  · split
    · exact h.trans (h.abandonRaise s) (h.finishPoles _ _)
    · exact h.trans (h.judgeWindow s p) (h.finishPoles _ _)
  · exact h.same rfl rfl

end

section
variable {P : State → State → Prop} (h : LoadsRel P) (s : State)
include h

theorem LoadsRel.shed : ShedRel P := ⟨h.same, h.trans, h.steps⟩

theorem LoadsRel.passFrom (cue : Cue) (os : List Inhibits) (s0 : State) : P s (State.passFrom cue os s0 s) := by
  have hstart : P s (if s.osm.op.evaluates then s.withIa s.evaluated else s) := by
    split <;> exact h.same rfl rfl
  have heval := h.trans hstart (h.inhibits (Loads.evaluate os s))
  unfold State.passFrom
  generalize s.evaluate os = b at heval
  have hreq := h.trans heval (h.steps (Loads.refreshRequests b))
  generalize b.refreshRequests = r at hreq
  have hclamp : P s (r.clampRegen os) := h.trans hreq (h.same rfl rfl)
  generalize r.clampRegen os = x at hclamp
  have hadm := h.trans hclamp (h.steps (Loads.admissions x cue os s0))
  generalize State.admissions cue os s0 x = y at hadm
  have hrest : P s y.settleRestoring := h.trans hadm (by
    unfold State.settleRestoring
    split <;> exact h.same rfl rfl)
  generalize y.settleRestoring = z at hrest
  have hclaims : P s z.rebuildClaims := by
    have hunit : Loads ShedStep z (z.withLcm { z.lcm with claims := z.builtClaims }) := .unit _ _ rfl rfl
    exact h.trans (h.trans hrest (h.steps hunit)) (h.same rfl rfl)
  generalize z.rebuildClaims = w at hclaims
  exact h.trans hclaims (h.steps (asks := false) (rises := false) (Loads.settleShare w cue).ofPlace)

theorem LoadsRel.settleBlocks (cue : Cue) (s0 : State) : P s (State.settleBlocks cue s0 s) := by
  rw [State.settleBlocks_eq]
  exact h.trans (h.trans (h.shed.driverCut s) (h.shed.forceZero _)) (h.passFrom _ _ _ _)

/-- A step's reaction. -/
theorem LoadsRel.react (hmove : ∀ t : State, P t t.autoMove) (cue : Cue) (s0 : State) : P s (State.react cue s0 s) := by
  have hclosed := Closed.react cue s0 s
  have hset := (State.react_settled cue s0 s).1
  have hpass := h.settleBlocks s cue s0
  have hkeep := (Kept.settleBlocks cue s0 s).settings
  generalize State.settleBlocks cue s0 s = w at hclosed hpass hkeep
  have hsame : w.settleMove.settings = w.settings := by
    obtain ⟨-, hm⟩ | ⟨-, hm⟩ := w.settleMove_cases
    · rw [hm]
    · rw [hm, (Kept.settleBlocks noCue w _).settings, (Carried.autoMove w).settings]
  have hlast : P s w.settleMove := by
    obtain ⟨-, hm⟩ | ⟨-, hm⟩ := w.settleMove_cases
    · rw [hm]
      exact hpass
    · rw [hm]
      exact h.trans (h.trans hpass (hmove w)) (h.settleBlocks _ _ _)
  exact h.trans hlast (h.same hclosed.lcm (hset.trans (hsame.trans hkeep).symm))

end

section
variable {s t : State}

/-- R145: the start-spacing timer. -/
def State.spaced (s : State) : Nat × Bool := (s.lcm.spacing, s.lcm.spacingRuns)

/-- The start-spacing timer stays, or starts from 0. -/
def State.Spaces (s t : State) : Prop := t.spaced = s.spaced ∨ t.spaced = (0, true)

/-- The start-spacing timer stays, or starts from 0. -/
theorem Loads.spaces {C : ChannelRecord → Channel → Channel → Prop} (h : Loads C s t) : s.Spaces t := by
  have honset : ∀ (s : State) k q, (s.onset k q).lcm = s.lcm := fun s k q => by
    obtain ⟨a, ha, -⟩ := s.onset_only k q
    rw [ha]
    rfl
  have hclear : ∀ (s : State) c, (s.clearShort c).lcm = s.lcm := fun s c => by
    obtain ⟨a, ha, -⟩ := s.clearCond_only .shortCycle c.val
    unfold State.clearShort
    rw [ha]
    rfl
  induction h with
  | refl s => exact .inl rfl
  | trans _ _ ih ih' => exact ih'.elim (fun e => ih.imp e.trans e.trans) .inr
  | chan s c ch => exact .inl rfl
  | unit s x _ h =>
    simp only [Prod.mk.injEq] at h
    obtain ⟨-, -, -, h1, h2⟩ := h
    exact .inl (Prod.ext h1 h2)
  | spaced s h => exact .inr rfl
  | record s l => exact .inl rfl
  | onset s c => exact .inl (by unfold State.spaced; rw [honset])
  | clear s c => exact .inl (by unfold State.spaced; rw [hclear])

theorem LoadsRel.spaces : LoadsRel State.Spaces where
  same h _ := .inl (by unfold State.spaced; rw [h])
  trans h k := k.elim (fun e => h.imp e.trans e.trans) .inr
  steps h := h.spaces
  inhibits h := h.spaces

/-- A channel has no cycle to run. -/
def Channel.Idles (a : Channel) : Prop := a.cyclePending = false ∧ a.cycle = 0

theorem LoadsRel.idles (c : Fin 4) : LoadsRel fun s t => (s.chan c).Idles → (t.chan c).Idles where
  same h _ hs := by
    unfold State.chan at hs ⊢
    rwa [h]
  trans h k := k ∘ h
  steps h := h.chans (R := fun _ a b => a.Idles → b.Idles) (fun _ _ h => h) (fun _ _ _ _ h k => k ∘ h)
    (fun _ _ _ h ha => by cases h <;> exact ha) c
  inhibits h := h.chans (R := fun _ a b => a.Idles → b.Idles) (fun _ _ h => h) (fun _ _ _ _ h k => k ∘ h)
    (fun _ _ _ h ha => by
      cases h with
      | inhibit => exact ⟨rfl, rfl⟩
      | free => exact ha) c

/-- What a move of the operating state leaves of the load channels. -/
structure LoadsMoved (s t : State) : Prop where
  spaced : t.spaced = s.spaced
  idles : ∀ c, (s.chan c).Idles → (t.chan c).Idles

theorem LoadsMoved.of_lcm (h : t.lcm = s.lcm) : LoadsMoved s t :=
  ⟨by rw [State.spaced, State.spaced, h], fun c hc => by rwa [State.chan, h]⟩

theorem LoadsMoved.trans {u : State} (h : LoadsMoved s t) (k : LoadsMoved t u) : LoadsMoved s u :=
  ⟨k.spaced.trans h.spaced, fun c hc => k.idles c (h.idles c hc)⟩

theorem LoadsMoved.clearShort (s : State) (c : Fin 4) : LoadsMoved s (s.clearShort c) := by
  obtain ⟨a, ha, -⟩ := s.clearCond_only .shortCycle c.val
  unfold State.clearShort
  rw [ha]
  exact .of_lcm rfl

theorem LoadsMoved.setChan (s : State) (c : Fin 4) (ch : Channel) (h : (s.chan c).Idles → ch.Idles) : LoadsMoved s (s.setChan c ch) :=
  ⟨rfl, fun d hd => by
    rw [State.chan_setChan]
    split
    · next e => exact h (e ▸ hd)
    · exact hd⟩

theorem LoadsMoved.parkChannel (s : State) (c : Fin 4) : LoadsMoved s (s.parkChannel c) := by
  unfold State.parkChannel
  split
  · exact (LoadsMoved.setChan s c _ fun _ => ⟨rfl, rfl⟩).trans (.clearShort _ c)
  · exact .of_lcm rfl

theorem LoadsMoved.foldl {α : Type} {f : State → α → State} (hf : ∀ s a, LoadsMoved s (f s a)) (l : List α) (s : State) :
    LoadsMoved s (l.foldl f s) := by
  induction l generalizing s with
  | nil => exact .of_lcm rfl
  | cons a l ih => exact (hf s a).trans (ih _)

theorem LoadsMoved.resetCounter (s : State) : LoadsMoved s s.resetCounter := by
  unfold State.resetCounter
  split
  · exact .of_lcm rfl
  · exact ⟨rfl, fun _ h => h⟩

theorem LoadsMoved.autoMove (s : State) : LoadsMoved s s.autoMove := by
  have hreperiod : ∀ t : State, LoadsMoved t t.reperiodAll := fun t =>
    .foldl (f := fun t n => t.setEntry n (t.reperiod n)) (fun t n => .of_lcm (t := t.setEntry n (t.reperiod n)) rfl) _ t
  unfold State.autoMove
  split
  · split
    · unfold State.enterParked
      have h1 : LoadsMoved s (s.enterOp .parked).restartDue := .of_lcm rfl
      exact ((h1.trans (hreperiod _)).trans (.foldl .parkChannel _ _)).trans (.resetCounter _)
    · exact .of_lcm rfl
  · split
    · have h1 : LoadsMoved s (s.enterOp .listening).restartDue := .of_lcm rfl
      exact h1.trans (hreperiod _)
    · exact .of_lcm rfl
  · split
    · exact .of_lcm rfl
    · exact ⟨rfl, fun _ h => h⟩
  · split
    · have h : ∀ t : State, LoadsMoved s t → LoadsMoved s t.startTracking.startFlash.readSpecial := fun t ht => by
        refine ht.trans (.of_lcm ?_)
        unfold State.startTracking State.startFlash State.readSpecial
        (repeat' split) <;> rfl
      exact h _ ⟨rfl, fun _ h => h⟩
    · exact .of_lcm rfl
  · exact .of_lcm rfl

end

end Sys2Proof.Machine

/-! The tracking of the wire height (R97, R98), the end of a cycle (R140) and the start spacing (R145). -/

namespace Sys2Proof.Machine

/-- R97: a wire-height reference moves by one unit towards the mean of the recent samples. -/
def heightTowards (height mean : Nat) : Nat :=
  if height < mean then height + 1 else if mean < height then height - 1 else height

/-- R97: a pole record after a tracking step. -/
def PoleRecord.tracked (r : PoleRecord) : PoleRecord :=
  { r with height := if r.state = .onWire then heightTowards r.height (r.samples.sum / 16) else r.height }

section
variable (s : State)

theorem State.setPole_self (p : Pole) : s.setPole p (s.pole p) = s := by cases p <;> rfl

theorem State.trackPole_eq (p : Pole) : s.trackPole p = s.setPole p (s.pole p).tracked := by
  unfold State.trackPole PoleRecord.tracked
  dsimp only
  split
  · rfl
  · exact (s.setPole_self p).symm

theorem State.trackPoles_eq : s.trackPoles =
    s.withPwu { s.pwu with pos := s.pwu.pos.tracked, neg := s.pwu.neg.tracked, trackWaits := false } := by
  unfold State.trackPoles
  simp only [bothPoles, List.foldl_cons, List.foldl_nil, State.trackPole_eq]
  rfl

theorem State.takeElevations_eq (h : s.pwu.trackWaits = true) : s.takeElevations =
    s.withPwu { s.pwu with
      pos := PoleRecord.tracked { s.pwu.pos with
        samples := (s.pwu.pos.samples ++ [s.elevation .pos]).drop ((s.pwu.pos.samples ++ [s.elevation .pos]).length - 16) }
      neg := PoleRecord.tracked { s.pwu.neg with
        samples := (s.pwu.neg.samples ++ [s.elevation .neg]).drop ((s.pwu.neg.samples ++ [s.elevation .neg]).length - 16) }
      sampled := true
      trackWaits := false } := by
  refine (if_pos h).trans ?_
  rw [State.trackPoles_eq]
  rfl

end

section
variable {s t : State}

/-- R97, R98: TRACKING_STEP. -/
theorem exec_trackingStep {c : Nat} {h : Pole → Nat} (hc : s.pwu.trackClock = some c) (hd : 16 ≤ c)
    (hh : ∀ p, h p = if (s.pole p).state = .onWire then heightTowards (s.pole p).height ((s.pole p).samples.sum / 16)
      else (s.pole p).height) :
    (s.pwu.sampled = true → exec .trackingStep s = .next (s.withPwu { s.pwu with
      pos := { s.pwu.pos with height := h .pos }, neg := { s.pwu.neg with height := h .neg },
      trackClock := some (c - 16), trackWaits := false })) ∧
    (s.pwu.sampled = false → exec .trackingStep s =
      .next (s.withPwu { s.pwu with trackClock := some (c - 16), trackWaits := true })) := by
  have he : exec .trackingStep s = .next (if s.pwu.sampled then
      (s.withPwu { s.pwu with trackClock := some (c - 16), trackWaits := true }).trackPoles
      else s.withPwu { s.pwu with trackClock := some (c - 16), trackWaits := true }) := by
    show execTrackingStep s = _
    unfold execTrackingStep
    rw [hc]
    dsimp only
    rw [if_pos hd]
  refine ⟨fun hs => ?_, fun hs => ?_⟩
  · rw [he, if_pos hs, State.trackPoles_eq, hh, hh]
    rfl
  · rw [he, if_neg (by rw [hs]; exact Bool.false_ne_true)]

theorem takeElevations_tracks {p : Pole} {l : List Nat} (hw : s.pwu.trackWaits = true) (ho : (s.pole p).state = .onWire)
    (hl : l = ((s.pole p).samples ++ [s.elevation p]).drop ((s.pole p).samples.length - 15)) :
    s.takeElevations.pwu.trackWaits = false ∧ (s.takeElevations.pole p).samples = l ∧
      (s.takeElevations.pole p).height = heightTowards (s.pole p).height (l.sum / 16) := by
  have hlen : ((s.pole p).samples ++ [s.elevation p]).length - 16 = (s.pole p).samples.length - 15 := by
    rw [List.length_append, List.length_singleton]
    omega
  rw [← hlen] at hl
  subst hl
  rw [s.takeElevations_eq hw]
  cases p <;> exact ⟨rfl, rfl, if_pos ho⟩

theorem exec_trackingStep_waits (h : ∀ c, s.pwu.trackClock = some c → c < 16) : exec .trackingStep s = .next s := by
  show execTrackingStep s = _
  unfold execTrackingStep
  split
  · next c hc => rw [if_neg (Nat.not_le.mpr (h c hc))]
  · rfl

/-- R140: a TIMED channel asks for nothing past its cycle. -/
theorem State.wantedRequest_timed {c : Fin 4} (hk : (s.record c).kind = .timed) (hp : (s.chan c).cyclePending = false) :
    s.wantedRequest c = 0 := by
  have hs : s.sourceRequest c = 0 := by
    unfold State.sourceRequest
    rw [hk, hp]
    cases (s.record c).source <;> rfl
  rw [State.wantedRequest_eq, hs, ite_self]

/-- R137: the last pass of a step's reaction leaves a present channel with the request its source gives. -/
theorem State.settleMove_request (cue : Cue) (s0 u : State) {c : Fin 4} (hp : (u.record c).present = true) :
    ((State.settleBlocks cue s0 u).settleMove.chan c).request = (State.settleBlocks cue s0 u).settleMove.wantedRequest c ∧
      (State.settleBlocks cue s0 u).settleMove.settings = u.settings := by
  have hpass : ∀ (k : Cue) (v w : State), w.settings = u.settings →
      ((State.settleBlocks k v w).chan c).request = (State.settleBlocks k v w).wantedRequest c := fun k v w hset => by
    rw [State.settleBlocks_eq]
    refine State.passFrom_request _ _ _ _ ?_
    have hforce := ((Kept.driverCut w).trans (Kept.forceZero _)).settings
    rw [State.record, hforce, hset]
    exact hp
  have hkeep := (Kept.settleBlocks cue s0 u).settings
  have hfirst := hpass cue s0 u rfl
  generalize State.settleBlocks cue s0 u = w at hkeep hfirst
  obtain ⟨-, hm⟩ | ⟨-, hm⟩ := w.settleMove_cases
  · rw [hm]
    exact ⟨hfirst, hkeep⟩
  · have hmove := (Carried.autoMove w).settings.trans hkeep
    rw [hm]
    exact ⟨hpass _ _ _ hmove, (Kept.settleBlocks noCue w _).settings.trans hmove⟩

theorem exec_cycleComplete (c : Fin 4) (h1 : (s.chan c).cyclePending = true) (h2 : (s.chan c).cycle = 0) :
    ∃ t, exec (.cycleComplete c) s = .next t ∧ (t.chan c).cyclePending = false ∧ (t.chan c).cycle = 0 ∧
      ((s.record c).present = true → (s.record c).kind = .timed → (t.chan c).request = 0) := by
  refine ⟨_, congrArg Host.Outcome.next (if_pos ⟨h1, h2⟩), ?_⟩
  have hidle : ((s.setChan c { s.chan c with cyclePending := false }).chan c).Idles := by
    rw [State.setChan_self]
    exact ⟨rfl, h2⟩
  have hr := (LoadsRel.idles c).react (s.setChan c { s.chan c with cyclePending := false })
    (fun t => (LoadsMoved.autoMove t).idles c) noCue s hidle
  refine ⟨hr.1, hr.2, fun hp hk => ?_⟩
  have hlcm := (Closed.react noCue s (s.setChan c { s.chan c with cyclePending := false })).lcm
  obtain ⟨hq, hset⟩ := State.settleMove_request noCue s (s.setChan c { s.chan c with cyclePending := false }) hp
  generalize State.react noCue s (s.setChan c { s.chan c with cyclePending := false }) = t at hr hlcm
  generalize (State.settleBlocks noCue s (s.setChan c { s.chan c with cyclePending := false })).settleMove = w at hlcm hq hset
  have hchan : t.chan c = w.chan c := by rw [State.chan, State.chan, hlcm]
  rw [hchan] at hr ⊢
  rw [hq]
  refine State.wantedRequest_timed ?_ hr.1
  rw [State.record, hset]
  exact hk

end

end Sys2Proof.Machine

/-! The start spacing: the timer starts anew exactly where a channel enters STARTING (R145). -/

namespace Sys2Proof.Machine

section
variable {s t : State}

/-- R148: while one set of outputs stands, a channel in STARTING stays there or is inhibited. -/
theorem State.evaluate_starting {os : List Inhibits} {o : Inhibits} (ho : ∀ p ∈ os, p = o) {c : Fin 4}
    (hs : (s.chan c).state = .starting) : ((s.evaluate os).chan c).state = .starting ∨ ((s.evaluate os).chan c).state = .inhibited := by
  have hone : ∀ (t : State) (d : Fin 4),
      ((t.chan c).state = .starting ∨ o.reaches c = true ∧ (t.chan c).state = .inhibited) →
      (((State.inhibitOne o t d).chan c).state = .starting ∨ o.reaches c = true ∧ ((State.inhibitOne o t d).chan c).state = .inhibited) := by
    intro t d ht
    rw [State.inhibitOne_chan]
    split
    · next e =>
      subst e
      split
      · next hr => exact .inr ⟨hr, rfl⟩
      · next hr =>
        obtain ht | ⟨hr', -⟩ := ht
        · rw [if_neg (by rw [ht]; nofun), ht]
          exact .inl rfl
        · exact absurd hr' hr
    · exact ht
  have hall : ∀ (l : List (Fin 4)) (t : State),
      ((t.chan c).state = .starting ∨ o.reaches c = true ∧ (t.chan c).state = .inhibited) →
      (((l.foldl (State.inhibitOne o) t).chan c).state = .starting ∨
        o.reaches c = true ∧ ((l.foldl (State.inhibitOne o) t).chan c).state = .inhibited) := by
    intro l
    induction l with
    | nil => exact fun _ h => h
    | cons d l ih => exact fun t h => ih _ (hone t d h)
  have happly : ∀ (l : List Inhibits) (t : State), (∀ p ∈ l, p = o) →
      ((t.chan c).state = .starting ∨ o.reaches c = true ∧ (t.chan c).state = .inhibited) →
      (((l.foldl State.applyInhibits t).chan c).state = .starting ∨
        o.reaches c = true ∧ ((l.foldl State.applyInhibits t).chan c).state = .inhibited) := by
    intro l
    induction l with
    | nil => exact fun _ _ h => h
    | cons p l ih =>
      intro t hl h
      rw [List.foldl_cons, hl p List.mem_cons_self]
      refine ih _ (fun q hq => hl q (List.mem_cons_of_mem _ hq)) ?_
      unfold State.applyInhibits
      rw [State.resetCounter_chan]
      exact hall _ t h
  unfold State.evaluate
  split
  · exact (happly os (s.withIa s.evaluated) ho (.inl hs)).imp_right And.right
  · exact .inl hs

/-- R146: a channel keeps its state as the requests are taken anew, or asks for nothing. -/
theorem State.refreshRequests_state (s : State) (c : Fin 4) :
    (s.refreshRequests.chan c).state = (s.chan c).state ∨ s.wantedRequest c = 0 := by
  have hself : ∀ t : State, ((t.refreshOne c).chan c).state = (t.chan c).state ∨ t.wantedRequest c = 0 := by
    intro t
    unfold State.refreshOne
    dsimp only
    split
    · exact .inl (t.fitDuty_same c).2.1
    · split
      · next hz => exact .inr hz
      · refine .inl ((State.fitDuty_same _ c).2.1.trans ?_)
        rw [t.setChan_self]
  have hall : ∀ (l : List (Fin 4)) (t : State), (∀ d ∈ l, (t.record d).present = true) →
      ((l.foldl State.refreshOne t).chan c).state = (t.chan c).state ∨ t.wantedRequest c = 0 := by
    intro l
    induction l with
    | nil => exact fun t _ => .inl rfl
    | cons d l ih =>
      intro t hl
      have hp := hl d List.mem_cons_self
      have hw := (t.refreshOne_source d c hp).wanted
      have hrest := ih (t.refreshOne d) fun e he => by
        rw [(Loads.refreshOne t d hp).recordOf]
        exact hl e (List.mem_cons_of_mem _ he)
      rw [hw] at hrest
      rw [List.foldl_cons]
      refine hrest.elim (fun e => ?_) .inr
      by_cases hd : d = c
      · subst hd
        exact (hself t).imp_left e.trans
      · exact .inl (e.trans (congrArg Channel.state (t.refreshOne_ne d c hd)))
  unfold State.refreshRequests
  rw [State.resetCounter_chan]
  exact hall _ s fun d hd => (s.mem_present d).mp hd

theorem State.restore_spaced (h : s.mayRestore = false ∨ s.restart = none) : s.restore.spaced = s.spaced := by
  rw [State.restore_eq]
  split
  · next hm =>
    have hone : s.restarted = s := by
      unfold State.restarted
      rw [h.resolve_left fun k => by rw [hm] at k; cases k]
    rw [hone]
    obtain ⟨-, h1, h2⟩ := s.raiseAll_same s.reservedCurrent s.byPriority
    exact Prod.ext h1 h2
  · rfl

theorem State.resetCounter_spaced (s : State) : s.resetCounter.spaced = s.spaced := by
  unfold State.resetCounter
  split <;> rfl

/-- An operation starts no channel and leaves the start-spacing timer. -/
def State.StartsNone (s t : State) : Prop := t.spaced = s.spaced ∧ ∀ c, (t.chan c).state = .starting → (s.chan c).state = .starting

theorem State.StartsNone.refl (s : State) : s.StartsNone s := ⟨rfl, fun _ h => h⟩

theorem State.StartsNone.trans {u : State} (h : s.StartsNone t) (k : t.StartsNone u) : s.StartsNone u :=
  ⟨k.1.trans h.1, fun c hc => h.2 c (k.2 c hc)⟩

theorem Loads.startsNone {C : ChannelRecord → Channel → Channel → Prop}
    (hC : ∀ r a b, C r a b → b.state = .starting → a.state = .starting) (h : Loads C s t) : s.StartsNone t := by
  obtain ⟨h1, h2⟩ := h.spacing_same hC
  exact ⟨Prod.ext h1 h2, h.chans (R := fun _ a b => b.state = .starting → a.state = .starting) (fun _ _ h => h)
    (fun _ _ _ _ h k => h ∘ k) hC⟩

theorem ChannelStep.starting {asks : Bool} {r : ChannelRecord} {a b : Channel} (h : ChannelStep asks false r a b)
    (hb : b.state = .starting) : a.state = .starting := by
  cases h with
  | shed =>
    have hs := shedState_listed r
    rw [show shedState r = .starting from hb] at hs
    cases hs
  | wait => cases hb
  | off => cases hb
  | start d h => cases h
  | raise d h => cases h
  | _ => exact hb

theorem InhibitStep.starting {r : ChannelRecord} {a b : Channel} (h : InhibitStep r a b) (hb : b.state = .starting) :
    a.state = .starting := by
  cases h <;> cases hb

/-- R142, R145: an admission event starts no channel, or starts one and the start-spacing timer from 0. -/
theorem State.admission_spacing (s : State) : s.StartsNone s.admission ∨
    (s.ae.draw ≠ 0 ∧ s.cc.phase ≠ .offset ∧ s.admission.spaced = (0, true) ∧
      ∃ c, (s.record c).present = true ∧ (s.chan c).state ≠ .starting ∧ (s.chan c).state ≠ .inhibited ∧ (s.chan c).request ≠ 0 ∧
        (s.admission.chan c).state = .starting) := by
  have hshed : ∀ t, Loads ShedStep s t → s.StartsNone t := fun t h => h.startsNone fun _ _ _ => ChannelStep.starting
  obtain ⟨-, -, he⟩ | ⟨-, -, he⟩ | ⟨-, -, he⟩ | ⟨hd, hk, he⟩ := s.admission_cases
  · rw [he]
    exact .inl (hshed _ (((Loads.stopAll s).trans (Loads.dropRecord _ _)).trans (Loads.finishShed _)))
  · rw [he]
    exact .inl (.refl s)
  · rw [he]
    exact .inl (hshed _ (((Loads.reduce s).trans (Loads.dropRecord _ _)).trans (Loads.finishShed _)))
  · rw [he]
    have hred := Loads.reduce s
    have hphase : s.reduce.cc.phase = s.cc.phase := hred.only.same.2.2.1
    generalize s.reduce = y at hk hred hphase
    have hspaced : y.restore.resetCounter.spaced = y.restore.spaced := State.resetCounter_spaced _
    by_cases hm : y.mayRestore = true
    · cases hr : y.restart with
      | none =>
        refine .inl ((hshed _ hred).trans ⟨hspaced.trans (State.restore_spaced (.inr hr)), fun c hc => ?_⟩)
        rw [State.resetCounter_chan] at hc
        obtain ⟨n, -, hn⟩ := y.restore_other c (.inr (by rw [hr]; nofun))
        rw [hn] at hc
        exact hc
      | some c =>
        obtain ⟨hstate, hmay⟩ := y.restart_some hr
        obtain ⟨hp, hq, -⟩ := (y.mayStart_iff c).mp hmay
        obtain ⟨h1, h2, n, -, -, hn⟩ := y.restore_started c hm hr
        rw [hred.recordOf] at hp
        have hasked := hred.asked c
        have hrun : y.runs c = false := by
          refine Bool.eq_false_iff.mpr fun hrun => ?_
          have := ((y.runs_iff c).mp hrun).2
          obtain h | h := hstate
          · cases hs : (y.chan c).state <;> rw [hs] at h this <;> cases h <;> cases this
          · rw [h] at this
            cases this
        refine .inr ⟨hd, ?_, hspaced.trans (Prod.ext h1 h2), c, hp, fun hs => ?_, fun hs => ?_, ?_, ?_⟩
        · rw [← hphase]
          exact (y.mayRestore_iff.mp hm).2.2.2
        · have := hk c ((s.runs_iff c).mpr ⟨hp, by rw [hs]; rfl⟩)
          rw [hrun] at this
          cases this
        · have := (hred.inhibited c).mpr hs
          rw [this] at hstate
          exact hstate.elim nofun nofun
        · intro hz
          exact hq ((congrArg (fun x : Nat × Bool × Nat × Nat × Bool => x.1) hasked).trans hz)
        · rw [State.resetCounter_chan, hn]
    · have hm := Bool.eq_false_iff.mpr hm
      refine .inl ((hshed _ hred).trans ⟨hspaced.trans (State.restore_spaced (.inl hm)), fun c hc => ?_⟩)
      rw [State.resetCounter_chan] at hc
      obtain ⟨n, -, hn⟩ := y.restore_other c (.inl hm)
      rw [hn] at hc
      exact hc

/-- R145: some channel outside STARTING enters it, and the start-spacing timer starts from 0. -/
def State.StartsSome (s t : State) : Prop :=
  t.spaced = (0, true) ∧ ∃ c, (s.chan c).state ≠ .starting ∧ (t.chan c).state = .starting

/-- What comes to an admission event and what follows it. -/
theorem State.beforeAdmission_starts (os : List Inhibits) (a : State) :
    a.StartsNone ((a.evaluate os).refreshRequests.clampRegen os) := by
  have hstart : a.StartsNone (if a.osm.op.evaluates then a.withIa a.evaluated else a) := by
    split <;> exact ⟨rfl, fun _ h => h⟩
  have heval := hstart.trans ((Loads.evaluate os a).startsNone fun _ _ _ => InhibitStep.starting)
  have hreq := heval.trans ((Loads.refreshRequests _).startsNone fun _ _ _ => ChannelStep.starting)
  generalize (a.evaluate os).refreshRequests = r at hreq
  exact hreq.trans ⟨rfl, fun _ h => h⟩

theorem AfterAdmission.startsNone (h : AfterAdmission s t) : s.StartsNone t :=
  ⟨Prod.ext h.spacing.1 h.spacing.2, fun c hc => (h.state c).1 ▸ hc⟩

theorem Loads.phase {C : ChannelRecord → Channel → Channel → Prop} (h : Loads C s t) : t.cc.phase = s.cc.phase :=
  h.only.same.2.2.1

theorem State.evaluate_units (os : List Inhibits) (a : State) : (a.evaluate os).cc.phase = a.cc.phase ∧ (a.evaluate os).ae = a.ae := by
  have h := Loads.evaluate os a
  refine ⟨h.phase.trans ?_, h.draw.trans ?_⟩
  · split <;> rfl
  · split <;> rfl

/-- What of a pass comes to its admission event. -/
theorem State.beforeAdmission_units (os : List Inhibits) (a : State) :
    ((a.evaluate os).refreshRequests.clampRegen os).cc.phase = a.cc.phase ∧
      ((a.evaluate os).refreshRequests.clampRegen os).ae.draw = a.ae.draw := by
  obtain ⟨h1, h2⟩ := a.evaluate_units os
  have hreq := Loads.refreshRequests (a.evaluate os)
  have hphase := hreq.phase.trans h1
  have hae := hreq.draw.trans h2
  generalize (a.evaluate os).refreshRequests = r at hphase hae
  have hdraw : r.ae.draw = a.ae.draw := congrArg Allotment.draw hae
  exact ⟨hphase, hdraw⟩

/-- R145: in the phase OFFSET an admission event starts no channel. -/
theorem State.passFrom_offset (cue : Cue) (os : List Inhibits) (s0 a : State) (h : a.cc.phase = .offset) :
    a.StartsNone (State.passFrom cue os s0 a) := by
  have hone : ∀ x : State, x.cc.phase = .offset → x.StartsNone x.admission := fun x hx =>
    x.admission_spacing.resolve_right fun k => k.2.1 hx
  have hafter := (State.passFrom_after cue os s0 a).startsNone
  have hbefore := State.beforeAdmission_starts os a
  have hphase := (State.beforeAdmission_units os a).1.trans h
  generalize State.passFrom cue os s0 a = t at hafter
  generalize (a.evaluate os).refreshRequests.clampRegen os = x at hafter hbefore hphase
  refine (hbefore.trans ?_).trans hafter
  have hfirst : x.StartsNone (if x.ae.draw = s0.ae.draw then x else x.admission) ∧
      (if x.ae.draw = s0.ae.draw then x else x.admission).cc.phase = .offset := by
    split
    · exact ⟨.refl x, hphase⟩
    · exact ⟨hone x hphase, (Loads.admission x).phase.trans hphase⟩
  unfold State.admissions
  dsimp only
  generalize (if x.ae.draw = s0.ae.draw then x else x.admission) = y at hfirst
  split
  · exact hfirst.1.trans (hone y hfirst.2)
  · exact hfirst.1

/-- R145: a pass in which one set of outputs stands and the draw is kept or forced to 0. -/
theorem State.passFrom_starts (cue : Cue) {os : List Inhibits} {o : Inhibits} (s0 a : State) (ho : ∀ p ∈ os, p = o)
    (hd : a.ae.draw = s0.ae.draw ∨ a.ae.draw = 0) :
    a.StartsNone (State.passFrom cue os s0 a) ∨ a.StartsSome (State.passFrom cue os s0 a) := by
  have hafter := State.passFrom_after cue os s0 a
  have hbefore := State.beforeAdmission_starts os a
  have hdraw := (State.beforeAdmission_units os a).2
  have hpast : ∀ c, (a.chan c).state = .starting → (a.record c).present = true →
      (((a.evaluate os).refreshRequests.clampRegen os).chan c).state = .starting ∨
      (((a.evaluate os).refreshRequests.clampRegen os).chan c).state = .inhibited ∨
      (((a.evaluate os).refreshRequests.clampRegen os).chan c).request = 0 := fun c hc hp => by
    have hstate := (a.evaluate os).refreshRequests_state c
    have hreq := ((a.evaluate os).refreshRequests_chan c (by
      rw [State.record, (Kept.evaluate os a).settings]
      exact hp)).1
    have heval := State.evaluate_starting ho hc
    generalize a.evaluate os = b at hstate hreq heval
    generalize b.refreshRequests = r at hstate hreq
    show (r.chan c).state = .starting ∨ (r.chan c).state = .inhibited ∨ (r.chan c).request = 0
    obtain e | e := hstate
    · rw [e]
      exact heval.elim .inl fun h => .inr (.inl h)
    · exact .inr (.inr (hreq.trans e))
  have hrec : ∀ c, ((a.evaluate os).refreshRequests.clampRegen os).record c = a.record c := fun c =>
    congrArg (fun x : Settings => x.chans[c])
      (((Kept.evaluate os a).trans (Kept.refreshRequests _)).trans (Kept.clampRegen os _)).settings
  generalize State.passFrom cue os s0 a = t at hafter
  generalize (a.evaluate os).refreshRequests.clampRegen os = x at hafter hbefore hdraw hpast hrec
  have hend := hafter.startsNone
  have hadm : x.StartsNone (State.admissions cue os s0 x) ∨ State.admissions cue os s0 x = x.admission := by
    by_cases hn : x.ae.draw = s0.ae.draw
    · unfold State.admissions
      dsimp only
      rw [if_pos hn]
      split
      · exact .inr rfl
      · exact .inl (.refl x)
    · have hz : x.ae.draw = 0 := hdraw.trans (hd.resolve_left fun k => hn (hdraw.trans k))
      have hfirst := x.admission_spacing.resolve_right fun k => k.1 hz
      have hz' : x.admission.ae.draw = 0 := (congrArg Allotment.draw (Loads.admission x).draw).trans hz
      unfold State.admissions
      dsimp only
      rw [if_neg hn]
      split
      · exact .inl (hfirst.trans (x.admission.admission_spacing.resolve_right fun k => k.1 hz'))
      · exact .inl hfirst
  obtain h | h := hadm
  · exact .inl ((hbefore.trans h).trans hend)
  · rw [h] at hafter hend
    obtain k | ⟨-, -, hs, c, hp, h1, h2, h3, h4⟩ := x.admission_spacing
    · exact .inl ((hbefore.trans k).trans hend)
    · refine .inr ⟨hend.1.trans hs, c, fun hc => ?_, (hafter.state c).1.trans h4⟩
      obtain e | e | e := hpast c hc (hrec c ▸ hp)
      · exact h1 e
      · exact h2 e
      · exact h3 e

theorem State.forceZero_lcm (u : State) : u.forceZero.lcm = u.lcm := by
  unfold State.forceZero
  split
  · exact u.zeroDraw_lcm.1
  · rfl

theorem State.settleBlocks_offset (cue : Cue) (s0 : State) {u : State} (hd : u.DriverSettled) (h : u.cc.phase = .offset) :
    (State.settleBlocks cue s0 u).spaced = u.spaced := by
  have hz : u.forceZero.spaced = u.spaced := by rw [State.spaced, u.forceZero_lcm, State.spaced]
  rw [State.settleBlocks_eq, u.driverCut_settled hd]
  exact (State.passFrom_offset _ _ _ _ (by rw [u.forceZero_spec.1]; exact h)).1.trans hz

/-- R145: a pass that finds the pole watch unit, the cut set and the draw as the step's start had them. -/
theorem State.settleBlocks_starts (cue : Cue) {s0 u : State} (hd : u.DriverSettled) (hcue : cue.cuts = none ∧ cue.through = none)
    (hp : s0.pwu = u.pwu) (hc : s0.cc = u.cc) (hdr : u.ae.draw = s0.ae.draw) :
    u.StartsNone (State.settleBlocks cue s0 u) ∨ u.StartsSome (State.settleBlocks cue s0 u) := by
  obtain ⟨hcc, -, hdraw, -⟩ := u.forceZero_spec
  have hlcm := u.forceZero_lcm
  have hpwu := (Kept.forceZero u).pwu
  have hchan : ∀ c, u.forceZero.chan c = u.chan c := fun c => by rw [State.chan, State.chan, hlcm]
  have hspaced : u.forceZero.spaced = u.spaced := by rw [State.spaced, hlcm, State.spaced]
  have hout : ∀ o ∈ State.outputPath cue.through (s0.pathBase cue) u.forceZero, o = u.forceZero.evaluated.outputs := by
    rw [hcue.2]
    refine State.outputPath_same (hp.trans hpwu.symm) ?_
    rw [hcc, ← hc]
    unfold State.pathBase
    rw [hcue.1]
    rfl
  have h := State.passFrom_starts cue s0 u.forceZero hout (by
    rw [hdraw]
    split
    · exact .inr rfl
    · exact .inl hdr)
  rw [State.settleBlocks_eq, u.driverCut_settled hd]
  obtain ⟨h1, h2⟩ | ⟨h1, c, h2, h3⟩ := h
  · exact .inl ⟨h1.trans hspaced, fun c hc => hchan c ▸ h2 c hc⟩
  · exact .inr ⟨h1, c, hchan c ▸ h2, h3⟩

/-- R145: START_SPACING_EXPIRY. -/
theorem exec_startSpacing (h1 : s.lcm.spacingRuns = true) (h2 : 200 ≤ s.lcm.spacing) :
    ∃ t, exec .startSpacingExpiry s = .next t ∧
    (t.lcm.spacingRuns = false ∧ t.lcm.spacing = s.lcm.spacing ∨ t.lcm.spacingRuns = true ∧ t.lcm.spacing = 0) ∧
    (s.CutsOk → s.DriverSettled → t.osm.op = s.osm.op → (t.lcm.spacingRuns = true ↔
      ∃ c, (s.chan c).state ≠ .starting ∧ (t.chan c).state = .starting)) ∧
    (s.cc.phase = .offset → s.DriverSettled → t.lcm.spacingRuns = false) := by
  refine ⟨_, congrArg Host.Outcome.next (if_pos ⟨h1, h2⟩), ?_, fun _ hd ho => ?_, fun hp hd => ?_⟩
  · have h := LoadsRel.spaces.react (s.withLcm { s.lcm with spacingRuns := false }) (fun t => .inl (LoadsMoved.autoMove t).spaced)
      { noCue with admission := true } s
    generalize State.react { noCue with admission := true } s (s.withLcm { s.lcm with spacingRuns := false }) = t at h
    obtain h | h := h
    · exact .inl ⟨congrArg Prod.snd h, congrArg Prod.fst h⟩
    · exact .inr ⟨congrArg Prod.snd h, congrArg Prod.fst h⟩
  · have hclosed := Closed.react_same { noCue with admission := true } s (s.withLcm { s.lcm with spacingRuns := false }) ho
    have h := State.settleBlocks_starts { noCue with admission := true } (s0 := s)
      (u := s.withLcm { s.lcm with spacingRuns := false }) hd ⟨rfl, rfl⟩ rfl rfl rfl
    generalize State.react { noCue with admission := true } s (s.withLcm { s.lcm with spacingRuns := false }) = t at hclosed ⊢
    generalize State.settleBlocks { noCue with admission := true } s (s.withLcm { s.lcm with spacingRuns := false }) = w at hclosed h
    have hchan : ∀ c, t.chan c = w.chan c := fun c => by rw [State.chan, State.chan, hclosed.lcm]
    simp only [hchan, hclosed.lcm]
    obtain ⟨hs, hn⟩ | ⟨hs, c, hc, hw⟩ := h
    · have hf : w.lcm.spacingRuns = false := congrArg Prod.snd hs
      rw [hf]
      exact ⟨nofun, fun ⟨c, hc, hw⟩ => absurd (hn c hw) hc⟩
    · exact ⟨fun _ => ⟨c, hc, hw⟩, fun _ => congrArg Prod.snd hs⟩
  · have hlcm := (Closed.react { noCue with admission := true } s (s.withLcm { s.lcm with spacingRuns := false })).lcm
    have hfirst := State.settleBlocks_offset { noCue with admission := true } s
      (u := s.withLcm { s.lcm with spacingRuns := false }) hd hp
    have hpass := Pass.settleBlocks { noCue with admission := true } s (s.withLcm { s.lcm with spacingRuns := false }) hd
    generalize State.react { noCue with admission := true } s (s.withLcm { s.lcm with spacingRuns := false }) = t at hlcm ⊢
    generalize State.settleBlocks { noCue with admission := true } s (s.withLcm { s.lcm with spacingRuns := false }) = w
      at hlcm hfirst hpass
    have hphase : w.cc.phase = .offset := by
      obtain ⟨h, -⟩ | ⟨h, -⟩ := hpass.phase
      · exact h.trans hp
      · rw [show s.cc.phase = .restoring from h] at hp
        cases hp
    rw [hlcm]
    obtain ⟨-, hm⟩ | ⟨-, hm⟩ := w.settleMove_cases
    · rw [hm]
      exact congrArg Prod.snd hfirst
    · have m := Moved.autoMove w
      have hdriver := m.driver (Carried.autoMove w) w.autoMove_runs (hpass.driver hd)
      rw [hm]
      exact congrArg Prod.snd ((State.settleBlocks_offset noCue w hdriver (m.phase.trans hphase)).trans
        ((LoadsMoved.autoMove w).spaced.trans hfirst))

end

/-- Settles O51: the tracking step by its rules; the end of a cycle and the start spacing along a step's reaction, where one set of outputs
stands through its evaluations (`passFrom_starts`). -/
theorem trackingStep : Obligations.TrackingStep :=
  ⟨fun _ _ _ hc hd hh => exec_trackingStep hc hd hh, fun _ _ _ => takeElevations_tracks, fun _ => exec_trackingStep_waits,
    fun c _ => exec_cycleComplete c, fun _ => exec_startSpacing⟩

end Sys2Proof.Machine

/-! The requests of the load channels by their sources, and the timers of a channel (R137, R138, R140, R146). -/

namespace Sys2Proof.Machine

/-- R138: a channel after a pressure sample. -/
def Channel.pressed (r : ChannelRecord) (x : AnalogSample) (ch : Channel) : Channel :=
  match r.pressureInput with
  | some i =>
    if r.present then
      { ch with requesting := requestingAfter r (readingOf x i) ch.requesting, critical := decide (readingOf x i < r.pcrit) }
    else ch
  | none => ch

/-- R139: a channel after a temperature sample. -/
def Channel.warmed (r : ChannelRecord) (x : AnalogSample) (ch : Channel) : Channel :=
  match r.thermalInput with
  | some i =>
    if r.present && r.kind == .modulated then
      if capAfter r (readingOf x i) ch.cap = 4 ∧ 4 < ch.duty then
        Channel.lowered { ch with cap := capAfter r (readingOf x i) ch.cap } 4
      else { ch with cap := capAfter r (readingOf x i) ch.cap }
    else ch
  | none => ch

/-- R140: a channel whose input has risen. -/
def Channel.edged (r : ChannelRecord) (input : Nat) (live : Bool) (ch : Channel) : Channel :=
  if r.present && r.kind == .timed && r.input == input && !ch.cyclePending && live then
    { ch with cyclePending := true, cycle := r.cycle * 1000 }
  else ch

/-- What a sample makes of the flags of a channel is seen from its flags. -/
theorem Channel.sampled_steady (r : ChannelRecord) (x : AnalogSample) {a b : Channel} (h : a.steady = b.steady) :
    ((a.pressed r x).warmed r x).steady = ((b.pressed r x).warmed r x).steady := by
  have hp : (a.pressed r x).steady = (b.pressed r x).steady := by
    simp only [Channel.steady, Prod.mk.injEq] at h
    obtain ⟨h1, h2, h3⟩ := h
    unfold Channel.pressed
    cases r.pressureInput with
    | none => simp only [Channel.steady, h1, h2, h3]
    | some i =>
      dsimp only
      split <;> simp only [Channel.steady, h1, h2, h3]
  have hw : ∀ c : Channel, (c.warmed r x).steady = (match r.thermalInput with
      | some i => if r.present && r.kind == .modulated then capAfter r (readingOf x i) c.cap else c.cap
      | none => c.cap, c.requesting, c.critical) := fun c => by
    unfold Channel.warmed
    cases r.thermalInput with
    | none => rfl
    | some i =>
      dsimp only
      split
      · split <;> rfl
      · rfl
  simp only [Channel.steady, Prod.mk.injEq] at hp
  obtain ⟨h1, h2, h3⟩ := hp
  rw [hw, hw, h1, h2, h3]

section
variable (s : State)

theorem State.setChan_same (c : Fin 4) : s.setChan c (s.chan c) = s := by
  have h : s.lcm.chans.set c (s.chan c) = s.lcm.chans := by
    unfold State.chan
    exact Vector.set_getElem_self c.isLt
  unfold State.setChan
  rw [h]
  rfl

/-- Each channel of a list taken in turn by itself. -/
theorem State.foldl_setChan {f : State → Fin 4 → State} {g : Fin 4 → Channel → Channel} (l : List (Fin 4)) (hl : l.Nodup)
    (hf : ∀ t c, t.settings = s.settings → t.su = s.su → t.osm = s.osm → f t c = t.setChan c (g c (t.chan c))) :
    (∃ x : LoadUnit, l.foldl f s = s.withLcm { s.lcm with chans := x.chans }) ∧
      ∀ d, (l.foldl f s).chan d = if d ∈ l then g d (s.chan d) else s.chan d := by
  induction l generalizing s with
  | nil => exact ⟨⟨s.lcm, rfl⟩, fun d => rfl⟩
  | cons c l ih =>
    obtain ⟨hc, hl⟩ := List.nodup_cons.mp hl
    obtain ⟨⟨x, hx⟩, hchan⟩ := ih (s.setChan c (g c (s.chan c))) hl hf
    rw [List.foldl_cons, hf s c rfl rfl rfl]
    refine ⟨⟨x, hx⟩, fun d => ?_⟩
    rw [hchan, State.chan_setChan]
    by_cases hd : c = d
    · subst hd
      rw [if_neg hc, if_pos rfl, if_pos List.mem_cons_self]
    · simp [hd, Ne.symm hd]

theorem channelNumbers_nodup : channelNumbers.Nodup := by decide

theorem State.samplePressure_eq (c : Fin 4) : s.samplePressure c = s.setChan c ((s.chan c).pressed (s.record c) s.su.ain) := by
  have hsame := (s.setChan_same c).symm
  unfold State.samplePressure Channel.pressed State.ain
  dsimp only
  cases (s.record c).pressureInput with
  | none => exact hsame
  | some i =>
    cases (s.record c).present with
    | true => rfl
    | false => exact hsame

theorem State.sampleThermal_eq (c : Fin 4) : s.sampleThermal c = s.setChan c ((s.chan c).warmed (s.record c) s.su.ain) := by
  have hsame := (s.setChan_same c).symm
  unfold State.sampleThermal Channel.warmed State.ain
  dsimp only
  cases (s.record c).thermalInput with
  | none => exact hsame
  | some i =>
    dsimp only
    split
    · rfl
    · exact hsame

/-- R138, R139: the channels after a sample. -/
theorem State.sampleChannels_eq :
    (∃ x : LoadUnit, channelNumbers.foldl State.sampleThermal (channelNumbers.foldl State.samplePressure s) =
      s.withLcm { s.lcm with chans := x.chans }) ∧
    ∀ c, (channelNumbers.foldl State.sampleThermal (channelNumbers.foldl State.samplePressure s)).chan c =
      ((s.chan c).pressed (s.record c) s.su.ain).warmed (s.record c) s.su.ain := by
  obtain ⟨⟨x, hx⟩, hp⟩ := s.foldl_setChan (f := State.samplePressure) (g := fun c => Channel.pressed (s.record c) s.su.ain)
    channelNumbers channelNumbers_nodup fun t c h1 h2 _ => by rw [t.samplePressure_eq, State.record, h1, h2]; rfl
  obtain ⟨⟨y, hy⟩, ht⟩ := (channelNumbers.foldl State.samplePressure s).foldl_setChan (f := State.sampleThermal)
    (g := fun c => Channel.warmed (s.record c) s.su.ain) channelNumbers channelNumbers_nodup fun t c h1 h2 _ => by
      rw [t.sampleThermal_eq, State.record, h1, h2, hx]
      rfl
  refine ⟨⟨y, ?_⟩, fun c => ?_⟩
  · rw [hy, hx]
    rfl
  · rw [ht, if_pos (mem_channelNumbers c), hp, if_pos (mem_channelNumbers c)]

/-- R32: the hot state after a sample. -/
def State.hotAfter (s : State) : Bool :=
  if s.ae.hot then decide (s.settings.release + 50 < s.ain 6) else decide (s.settings.trip + 50 ≤ s.ain 6)

/-- R32: what the judging of the hot state changes. -/
theorem State.judgeHot_only : ∃ a : AlarmUnit, s.judgeHot = (s.withAe { s.ae with hot := s.hotAfter }).withAu a := by
  have hsame : ∀ h : Bool, h = s.ae.hot → s = (s.withAe { s.ae with hot := h }).withAu s.au := fun h e => by rw [e]; rfl
  unfold State.judgeHot State.hotAfter
  by_cases h1 : (!s.ae.hot && decide (s.settings.trip + 50 ≤ s.ain 6)) = true
  · rw [if_pos h1]
    simp only [Bool.and_eq_true, Bool.not_eq_true'] at h1
    obtain ⟨a, ha, -⟩ := (s.withAe { s.ae with hot := true }).onset_only .hotDerate 0
    rw [ha, h1.1, h1.2]
    exact ⟨a, rfl⟩
  · rw [if_neg h1]
    by_cases h2 : (s.ae.hot && decide (s.ain 6 ≤ s.settings.release + 50)) = true
    · rw [if_pos h2]
      simp only [Bool.and_eq_true, decide_eq_true_eq] at h2
      obtain ⟨a, ha, -⟩ := (s.withAe { s.ae with hot := false }).clearCond_only .hotDerate 0
      have hd : decide (s.settings.release + 50 < s.ain 6) = false := decide_eq_false (Nat.not_lt.mpr h2.2)
      rw [ha, h2.1, hd]
      exact ⟨a, rfl⟩
    · rw [if_neg h2]
      refine ⟨s.au, hsame _ ?_⟩
      cases hh : s.ae.hot with
      | true =>
        rw [hh] at h2
        simpa using h2
      | false =>
        rw [hh] at h1
        simpa using h1

/-- R65: what a sample has made of the settled values, the operating state, the readings and the channels' flags. -/
theorem State.takeSample_units (x : AnalogSample) : (s.takeSample x).su = ⟨x, true, s.su.din⟩ ∧
    (s.takeSample x).settings = s.settings ∧ (s.takeSample x).osm = s.osm ∧
    (s.osm.role = .console → s.osm.op.receives = true → (s.takeSample x).cf.heat = heatOfReading (readingOf x 5)) ∧
    ∀ c, ((s.takeSample x).chan c).steady = (((s.chan c).pressed (s.record c) x).warmed (s.record c) x).steady := by
  obtain ⟨a, ha⟩ := (s.takeReadings x).judgeHot_only
  have hw := Watched.samplePoles (s.takeReadings x).judgeHot
  unfold State.takeSample
  dsimp only
  have hsu : (s.takeReadings x).judgeHot.su = ⟨x, true, s.su.din⟩ := by rw [ha]; rfl
  have hset : (s.takeReadings x).judgeHot.settings = s.settings := by rw [ha]; rfl
  have hosm : (s.takeReadings x).judgeHot.osm = s.osm := by rw [ha]; rfl
  have hchan : ∀ c, (s.takeReadings x).judgeHot.chan c = s.chan c := fun c => by rw [ha]; rfl
  generalize (s.takeReadings x).judgeHot = h at hw hsu hset hosm hchan
  generalize h.samplePoles = v at hw
  obtain ⟨⟨l, hl⟩, hc⟩ := v.sampleChannels_eq
  generalize channelNumbers.foldl State.sampleThermal (channelNumbers.foldl State.samplePressure v) = w at hl hc
  have hheat : ∃ k, w.sampleHeat.sampleRegen = (w.withCf { w.cf with heat := k }).sampleRegen ∧
      (w.osm.role = .console → w.osm.op.receives = true → k = heatOfReading (w.ain 5)) := by
    unfold State.sampleHeat
    split
    · exact ⟨_, rfl, fun _ _ => rfl⟩
    · next hn => exact ⟨w.cf.heat, rfl, fun h1 h2 => absurd ⟨h1, h2⟩ hn⟩
  obtain ⟨k, hk, hv⟩ := hheat
  have hwsu : w.su = ⟨x, true, s.su.din⟩ := by rw [hl]; exact hw.su.trans hsu
  have hwset : w.settings = s.settings := by rw [hl]; exact hw.settings.trans hset
  have hwosm : w.osm = s.osm := by rw [hl]; exact hw.osm.trans hosm
  rw [hk]
  refine ⟨hwsu, hwset, hwosm, fun h1 h2 => ?_, fun c => ?_⟩
  · have hain : w.ain 5 = readingOf x 5 := by rw [State.ain, hwsu]
    rw [← hain]
    exact hv (hwosm ▸ h1) (hwosm ▸ h2)
  · have hstep : ((w.withCf { w.cf with heat := k }).sampleRegen).chan c = w.chan c := rfl
    have hvsu : v.su.ain = x := by rw [hw.su, hsu]
    have hvrec : v.record c = s.record c := by rw [State.record, hw.settings, hset]; rfl
    rw [hstep, hc, hvsu, hvrec]
    refine Channel.sampled_steady _ _ ((hw.chan c).trans ?_)
    rw [hchan]

end

section
variable {s t : State}

/-- R137: after a step's reaction a present channel asks for what its source gives; one of the heat duty at the console. -/
theorem State.react_request (cue : Cue) (s0 u : State) {c : Fin 4} (hp : (u.record c).present = true)
    (hheat : (u.record c).source = .heatDuty → u.osm.role = .console) :
    ((State.react cue s0 u).chan c).request = (State.react cue s0 u).wantedRequest c := by
  have hclosed := Closed.react cue s0 u
  have hcarried := State.closing_carried cue s0 u
  have hrole := (State.react_settled cue s0 u).2.1
  obtain ⟨hq, hset⟩ := State.settleMove_request cue s0 u hp
  generalize State.react cue s0 u = t at hclosed hcarried hrole
  generalize (State.settleBlocks cue s0 u).settleMove = w at hclosed hcarried hq hset
  have hchan : t.chan c = w.chan c := by rw [State.chan, State.chan, hclosed.lcm]
  have hsource : SameSource c w t := by
    refine ⟨hcarried.settings, hclosed.op, hcarried.role, hcarried.su, fun hs _ => ?_, by rw [hchan], by rw [hchan]⟩
    rw [State.record, hset] at hs
    have hr := hheat hs
    unfold State.heatRead
    rw [if_pos (hrole.trans hr), if_pos (hcarried.role.symm.trans (hrole.trans hr)), hclosed.cf]
  rw [hchan, hq, hsource.wanted]

end

end Sys2Proof.Machine

/-! What a change of a filtered input leaves of the load channels, and their requests after it (R137, R140, R176). -/

namespace Sys2Proof.Machine

section
variable {s t u : State}

/-- The load channels, the settled values, the operating-state machine and the readings stay. -/
structure Unmoved (s t : State) : Prop where
  lcm : t.lcm = s.lcm
  settings : t.settings = s.settings
  osm : t.osm = s.osm
  su : t.su = s.su

theorem Unmoved.refl (s : State) : Unmoved s s := ⟨rfl, rfl, rfl, rfl⟩

theorem Unmoved.trans (h : Unmoved s t) (k : Unmoved t u) : Unmoved s u :=
  ⟨k.lcm.trans h.lcm, k.settings.trans h.settings, k.osm.trans h.osm, k.su.trans h.su⟩

theorem Unmoved.ackAll (s : State) (rs : List AckRecord) : Unmoved s (s.ackAll rs).1 := by
  obtain ⟨a, ha, -⟩ := s.ackAll_only rs
  rw [ha]
  exact ⟨rfl, rfl, rfl, rfl⟩

/-- R190: what follows is in pattern mode, entered from ACTIVE. -/
def EntersPattern (s t : State) : Prop := s.osm.op = .active ∧ t.osm.op = .pattern

/-- R176: a command the console generates in another operating state than PATTERN. -/
theorem generate_unmoved (n : Nat) (kind : CommandKind) (hr : s.osm.role = .console) (ho : s.osm.op ≠ .pattern) :
    Unmoved s (s.generate n kind) ∨ kind = .patternOn ∧ EntersPattern s (s.generate n kind) := by
  have hpole : ∀ (t : State) k judge, t.osm = s.osm → Unmoved s t → Unmoved s (t.poleCommand k judge) := fun t k judge ht h => by
    unfold State.poleCommand
    rw [if_neg (by rw [ht, hr]; nofun)]
    exact h.trans ⟨rfl, rfl, rfl, rfl⟩
  unfold State.generate
  dsimp only
  generalize hv : (s.withCf { s.cf with commandCounter := (s.cf.commandCounter + 1) % 256 }).pushCommand
    (.command n s.cf.commandCounter kind) = v
  have hsame : Unmoved s v := hv ▸ ⟨rfl, rfl, rfl, rfl⟩
  split
  · cases kind with
    | raisePoles => exact .inl (hpole v _ _ hsame.osm hsame)
    | lowerPoles => exact .inl (hpole v _ _ hsame.osm hsame)
    | clearLockout p => exact .inl (hpole v _ (fun t => t.judgeClear p.toNat) hsame.osm hsame)
    | ackAlarms rs => exact .inl ((hsame.trans (.ackAll v rs)).trans ⟨rfl, rfl, rfl, rfl⟩)
    | patternOn =>
      show Unmoved s (v.takePatternOn _) ∨ _ ∧ EntersPattern s (v.takePatternOn _)
      rw [State.takePatternOn_eq]
      split
      · next hd => exact .inr ⟨rfl, (congrArg OpMachine.op hsame.osm).symm.trans (v.patternResult_done hd).1, State.enterPattern_op _⟩
      · exact .inl (hsame.trans ⟨rfl, rfl, rfl, rfl⟩)
    | patternOff =>
      refine .inl (hsame.trans ?_)
      show Unmoved v (v.takePatternOff _)
      unfold State.takePatternOff
      dsimp only
      rw [if_neg (by rw [hsame.osm]; exact ho)]
      exact ⟨rfl, rfl, rfl, rfl⟩
  · exact .inl hsame

theorem Unmoved.pressAck (hr : s.osm.role = .console) (ho : s.osm.op ≠ .pattern) : Unmoved s s.pressAck := by
  have hlocal : Unmoved s s.ackLocal := ⟨rfl, rfl, rfl, rfl⟩
  have hone : ∀ (l : List Nat) (v : State), v.osm = s.osm → Unmoved v (l.foldl State.ackSource v) := by
    intro l
    induction l with
    | nil => exact fun v _ => .refl v
    | cons n l ih =>
      intro v hv
      have hsource : Unmoved v (v.ackSource n) := by
        unfold State.ackSource
        split
        · exact .refl v
        · exact (generate_unmoved n _ (by rw [hv]; exact hr) (by rw [hv]; exact ho)).resolve_right nofun
      exact hsource.trans (ih _ (hsource.osm.trans hv))
  unfold State.pressAck
  split
  · exact hlocal.trans (hone _ _ hlocal.osm)
  · split
    · exact hlocal
    · exact .refl s

/-- R173 to R177: what an input of the console makes of the load channels. -/
theorem consoleInput_unmoved (i : Nat) (level : Bool) (hr : s.osm.role = .console) (ho : s.osm.op ≠ .pattern) :
    Unmoved s (s.consoleInput i level) ∨ EntersPattern s (s.consoleInput i level) := by
  have hgen : ∀ n kind, Unmoved s (s.generate n kind) ∨ EntersPattern s (s.generate n kind) := fun n kind =>
    (generate_unmoved n kind hr ho).imp_right And.right
  unfold State.consoleInput
  split
  · unfold State.specialChange
    split
    · exact .inl ⟨rfl, rfl, rfl, rfl⟩
    · exact .inl (.refl s)
  · split
    · unfold State.pressButton
      split
      · exact .inl (.pressAck hr ho)
      · split
        · split
          · exact hgen _ _
          · exact hgen _ _
          · exact hgen _ _
          · exact hgen _ _
          · exact .inl (.refl s)
        · exact .inl (.refl s)
    · split
      · exact hgen _ _
      · exact .inl (.refl s)

/-- A channel's cycle. -/
def Channel.cycled (a : Channel) : Bool × Nat := (a.cyclePending, a.cycle)

theorem ChannelStep.cycled {asks rises : Bool} {r : ChannelRecord} {a b : Channel} (h : ChannelStep asks rises r a b) :
    b.cycled = a.cycled := by
  cases h <;> rfl

theorem Loads.cycled {asks rises : Bool} (h : Loads (ChannelStep asks rises) s t) (c : Fin 4) :
    (t.chan c).cycled = (s.chan c).cycled :=
  h.chans (R := fun _ a b => b.cycled = a.cycled) (fun _ _ => rfl) (fun _ _ _ _ h k => k.trans h) (fun _ _ _ h => h.cycled) c

theorem ShedRel.cycled (c : Fin 4) : ShedRel fun s t => (t.chan c).cycled = (s.chan c).cycled where
  same h _ := by rw [State.chan, State.chan, h]
  trans h k := k.trans h
  sheds h := h.cycled c

theorem poleInput_cycled (i : Nat) (c : Fin 4) : ((s.poleInput i).chan c).cycled = (s.chan c).cycled := by
  unfold State.poleInput
  split
  · exact (ShedRel.cycled c).ropeChange s _
  · exact (ShedRel.cycled c).ropeChange s _
  · rfl

theorem poleInput_units (i : Nat) : (s.poleInput i).su = s.su ∧ (s.poleInput i).settings = s.settings ∧
    (s.poleInput i).osm = s.osm := by
  unfold State.poleInput
  split
  · exact ⟨(Watched.ropeChange s _).su, (Watched.ropeChange s _).settings, (Watched.ropeChange s _).osm⟩
  · exact ⟨(Watched.ropeChange s _).su, (Watched.ropeChange s _).settings, (Watched.ropeChange s _).osm⟩
  · exact ⟨rfl, rfl, rfl⟩

theorem State.edgeChannel_eq (s : State) (i : Nat) (c : Fin 4) (ho : s.osm.op = .listening ∨ s.osm.op = .active) :
    State.edgeChannel i s c = s.setChan c ((s.chan c).edged (s.record c) i true) := by
  have hsame := (s.setChan_same c).symm
  have hdef : ∀ live, (match s.osm.op with
      | .listening | .active | .dormant => true
      | .parked => (s.record c).park
      | _ => false) = live →
      State.edgeChannel i s c = if (s.record c).present && (s.record c).kind == .timed && (s.record c).input == i &&
        !(s.chan c).cyclePending && live then
        s.setChan c { s.chan c with cyclePending := true, cycle := (s.record c).cycle * 1000 } else s := by
    rintro _ rfl
    rfl
  rw [hdef true (by obtain ho | ho := ho <;> rw [ho])]
  unfold Channel.edged
  split
  · rfl
  · exact hsame

/-- R140: the channels after a rising edge in LISTENING and ACTIVE. -/
theorem State.edgeAll (s : State) (i : Nat) (ho : s.osm.op = .listening ∨ s.osm.op = .active) (c : Fin 4) :
    (channelNumbers.foldl (State.edgeChannel i) s).chan c = (s.chan c).edged (s.record c) i true := by
  obtain ⟨-, h⟩ := s.foldl_setChan (f := State.edgeChannel i) (g := fun c => Channel.edged (s.record c) i true)
    channelNumbers channelNumbers_nodup fun t c h1 _ h3 => by
      rw [t.edgeChannel_eq i c (by rw [h3]; exact ho), State.record, h1]
      rfl
  rw [h, if_pos (mem_channelNumbers c)]

theorem Channel.edged_cycled (r : ChannelRecord) (i : Nat) (live : Bool) {a b : Channel} (h : a.cycled = b.cycled) :
    (a.edged r i live).cycled = (b.edged r i live).cycled := by
  simp only [Channel.cycled, Prod.mk.injEq] at h
  obtain ⟨h1, h2⟩ := h
  unfold Channel.edged
  rw [h1]
  split
  · rfl
  · simp only [Channel.cycled, h1, h2]

theorem setLevel_din (s : State) {i : Nat} (hi : i < 12) (level : Bool) :
    (s.withSu { s.su with din := setLevel s.su.din i level }).din i = level :=
  (getLsbD_setLevel s.su.din hi level i).trans (if_pos rfl)

/-- What a change of an input in LISTENING and ACTIVE makes of the cycles, where it does not enter pattern mode. -/
theorem takeInput_cycled (i : Nat) (level : Bool) (ho : s.osm.op = .listening ∨ s.osm.op = .active) :
    EntersPattern s (s.takeInput i level) ∨ (s.takeInput i level).osm = s.osm ∧ (s.takeInput i level).settings = s.settings ∧
      (s.takeInput i level).su = { s.su with din := setLevel s.su.din i level } ∧
      (level = true → ∀ c, ((s.takeInput i level).chan c).cycled = ((s.chan c).edged (s.record c) i true).cycled) := by
  have hne : s.osm.op ≠ .pattern := by obtain ho | ho := ho <;> rw [ho] <;> nofun
  have hedges : ∀ t : State, (if level = true then channelNumbers.foldl (State.edgeChannel i) t else t).osm = t.osm ∧
      (if level = true then channelNumbers.foldl (State.edgeChannel i) t else t).settings = t.settings ∧
      (if level = true then channelNumbers.foldl (State.edgeChannel i) t else t).su = t.su := fun t => by
    have h : LoadOnly t (if level = true then channelNumbers.foldl (State.edgeChannel i) t else t) :=
      .ite (.foldl (fun t c => LoadOnly.edgeChannel i c) _ _) (.refl t)
    obtain ⟨l, a, r, e⟩ := h
    rw [e]
    exact ⟨rfl, rfl, rfl⟩
  unfold State.takeInput
  dsimp only
  generalize ha : s.withSu { s.su with din := setLevel s.su.din i level } = a
  have hosm : a.osm = s.osm := ha ▸ rfl
  have hconsole : Unmoved a (if a.osm.role = .console then a.consoleInput i level else a) ∨
      EntersPattern a (if a.osm.role = .console then a.consoleInput i level else a) := by
    split
    · next hr => exact consoleInput_unmoved i level hr (by rw [hosm]; exact hne)
    · exact .inl (.refl a)
  have hasu : a.su = { s.su with din := setLevel s.su.din i level } := ha ▸ rfl
  have hchan : ∀ c, a.chan c = s.chan c := fun c => ha ▸ rfl
  have haset : a.settings = s.settings := ha ▸ rfl
  generalize (if a.osm.role = .console then a.consoleInput i level else a) = b at hconsole
  obtain ⟨hvsu, hvset, hvosm⟩ := poleInput_units (s := b) i
  have hcycle := fun c => poleInput_cycled (s := b) i c
  generalize b.poleInput i = v at hvsu hvset hvosm hcycle
  obtain ⟨h1, h2, h3⟩ := hedges v
  obtain h | ⟨h4, h5⟩ := hconsole
  · have hvosm := hvosm.trans (h.osm.trans hosm)
    have hvset := hvset.trans (h.settings.trans haset)
    refine .inr ⟨h1.trans hvosm, h2.trans hvset, h3.trans (hvsu.trans (h.su.trans hasu)), fun hl c => ?_⟩
    rw [if_pos hl, v.edgeAll i (by rw [hvosm]; exact ho)]
    have hrec : v.record c = s.record c := by rw [State.record, hvset]; rfl
    have hbchan : b.chan c = s.chan c := by
      rw [← hchan, State.chan, State.chan, h.lcm]
    rw [hrec]
    refine Channel.edged_cycled _ _ _ ((hcycle c).trans ?_)
    rw [hbchan]
  · refine .inl ⟨by rw [← hosm]; exact h4, ?_⟩
    rw [h1, hvosm]
    exact h5

end

section
variable {s t : State}

/-- The evaluations of a step that leaves the pole watch unit and the cuts find one set of outputs. -/
theorem State.outputPath_cuts {s0 : State} (hp : s0.pwu = s.pwu) (hc : s0.cc.cuts = s.cc.cuts) :
    ∀ o ∈ State.outputPath none s0 s, o = s.evaluated.outputs := by
  have h1 : ∀ t : State, t.cc.cuts = s.cc.cuts → t.withCc s.cc = s → t.evaluated.outputs = s.evaluated.outputs := fun t ht he => by
    have hsig : t.formSignals = (t.withCc s.cc).formSignals := by
      show _ = _
      unfold State.formSignals
      rw [ht]
      rfl
    rw [← he]
    exact (State.evaluated_congr (s := t) (t := t.withCc s.cc) rfl hsig.symm).2.2.symm
  have hback : ∀ x : PoleUnit, x = s.pwu → ((s.withCc s0.cc).withPwu x).withCc s.cc = s := fun x hx => by rw [hx]; rfl
  have h2 := h1 ((s.withCc s0.cc).withPwu s0.pwu) hc (hback _ hp)
  have h3 := h1 ((s.withCc s0.cc).withPwu { s.pwu with source := s0.pwu.source }) hc (hback _ (by rw [hp]))
  have h4 := h1 (s.withCc s0.cc) hc rfl
  intro o ho
  unfold State.outputPath at ho
  dsimp only at ho
  split at ho
  · simp only [Option.toList_none, List.map_nil, List.append_nil, List.cons_append, List.nil_append, List.map_cons, List.mem_cons,
      List.not_mem_nil, or_false] at ho
    obtain rfl | rfl | rfl | rfl := ho
    · exact h2
    · exact h3
    · exact h4
    · rfl
  · exact List.mem_singleton.mp ho

/-- R148: an evaluation whose outputs do not reach a channel leaves its cycle. -/
theorem State.evaluate_cycled {os : List Inhibits} {c : Fin 4} (ho : ∀ o ∈ os, o.reaches c = false) :
    ((s.evaluate os).chan c).cycled = (s.chan c).cycled := by
  have hone : ∀ (o : Inhibits) (t : State) (d : Fin 4), o.reaches c = false →
      ((State.inhibitOne o t d).chan c).cycled = (t.chan c).cycled := by
    intro o t d ho
    have hset : ∀ ch : Channel, d ≠ c → (t.setChan d ch).chan c = t.chan c := fun ch hd => t.setChan_ne d c ch hd
    unfold State.inhibitOne
    dsimp only
    by_cases hd : d = c
    · subst hd
      rw [if_neg (by rw [ho]; exact Bool.false_ne_true)]
      split
      · rw [t.setChan_self]
        rfl
      · rfl
    · split
      · split
        · rfl
        · split
          · rw [State.clearShort_chan, hset _ hd]
          · rw [hset _ hd]
      · split
        · rw [hset _ hd]
        · rfl
  have hall : ∀ (o : Inhibits) (l : List (Fin 4)) (t : State), o.reaches c = false →
      ((l.foldl (State.inhibitOne o) t).chan c).cycled = (t.chan c).cycled := by
    intro o l
    induction l with
    | nil => exact fun _ _ => rfl
    | cons d l ih => exact fun t ho => (ih _ ho).trans (hone o t d ho)
  have happly : ∀ (l : List Inhibits) (t : State), (∀ o ∈ l, o.reaches c = false) →
      ((l.foldl State.applyInhibits t).chan c).cycled = (t.chan c).cycled := by
    intro l
    induction l with
    | nil => exact fun _ _ => rfl
    | cons o l ih =>
      intro t hl
      refine (ih _ fun q hq => hl q (List.mem_cons_of_mem _ hq)).trans ?_
      unfold State.applyInhibits
      rw [State.resetCounter_chan]
      exact hall o _ t (hl o List.mem_cons_self)
  unfold State.evaluate
  split
  · exact happly os (s.withIa s.evaluated) ho
  · rfl

theorem State.passFrom_cycled (cue : Cue) (os : List Inhibits) (s0 a : State) (c : Fin 4) :
    ((State.passFrom cue os s0 a).chan c).cycled = ((a.evaluate os).chan c).cycled := by
  have hreq := (Loads.refreshRequests (a.evaluate os)).cycled c
  have hadm := (Loads.admissions ((a.evaluate os).refreshRequests.clampRegen os) cue os s0).cycled c
  have hclamp : ∀ r : State, (r.clampRegen os).chan c = r.chan c := fun _ => rfl
  rw [hclamp] at hadm
  have hlast := (State.passFrom_after cue os s0 a).asked c
  generalize State.passFrom cue os s0 a = t at hlast
  generalize State.admissions cue os s0 ((a.evaluate os).refreshRequests.clampRegen os) = y at hlast hadm
  generalize (a.evaluate os).refreshRequests = r at hadm hreq
  rw [← hreq, ← hadm]
  exact congrArg (fun x : Nat × Bool × Nat × Nat × Bool => (x.2.1, x.2.2.1)) hlast

/-- R140: a channel not inhibited after a pass whose evaluations find one set of outputs keeps its cycle. -/
theorem State.settleBlocks_cycled {s0 u : State} {c : Fin 4} (hp : (u.record c).present = true)
    (he : u.osm.op.evaluates = true) (hpwu : s0.pwu = u.pwu)
    (hcuts : (State.settleBlocks noCue s0 u).cc.cuts = s0.cc.cuts)
    (hi : ((State.settleBlocks noCue s0 u).chan c).state ≠ .inhibited) :
    ((State.settleBlocks noCue s0 u).chan c).cycled = (u.chan c).cycled := by
  have hcut := (ShedRel.cycled c).driverCut u
  have hkept := (Kept.driverCut u).trans (Kept.forceZero _)
  have hpass := (Pass.afterDriver noCue s0 u).cuts
  have hforce := u.driverCut.forceZero_spec.1
  have hzero := u.driverCut.forceZero_lcm
  rw [State.settleBlocks_eq] at hi hcuts hpass ⊢
  generalize u.driverCut = d at hcut hkept hpass hforce hzero hi hcuts
  generalize d.forceZero = a at hkept hpass hforce hzero hi hcuts
  have hcc : (s0.pathBase noCue).cc.cuts = a.cc.cuts := hcuts.symm.trans (hpass.trans (congrArg CutUnit.cuts hforce).symm)
  have hsame := State.outputPath_cuts (s := a) (s0 := s0.pathBase noCue) (hpwu.trans hkept.pwu.symm) hcc
  obtain ⟨ps, hos⟩ := State.outputPath_last (s := a) noCue.through (s0.pathBase noCue)
  have hrec : (a.record c).present = true := by
    rw [State.record, hkept.settings]
    exact hp
  have hreach : a.evaluated.outputs.reaches c = false := by
    refine Bool.eq_false_iff.mpr fun hr => hi ?_
    rw [(State.passFrom_array _ _ _ _).2 c, hos]
    exact (State.evaluate_state ps _ (by rw [hkept.osm]; exact he) c hrec).mpr hr
  rw [State.passFrom_cycled, State.evaluate_cycled fun o ho => by rw [hsame o ho]; exact hreach, ← hcut]
  rw [State.chan, hzero]
  rfl

end

end Sys2Proof.Machine

/-! What the sources of the load channels ask for after a sample and a change of an input, and the timers of a channel
(R137, R138, R140, R146). -/

namespace Sys2Proof.Machine

section
variable {s t : State}

theorem State.wantedRequest_live {c : Fin 4} (hp : (s.record c).present = true)
    (ho : s.osm.op = .listening ∨ s.osm.op = .active) : s.wantedRequest c = s.sourceRequest c := by
  have hasks : s.asksIn c = true := by
    unfold State.asksIn
    obtain ho | ho := ho <;> rw [ho]
  rw [State.wantedRequest_eq, hp, hasks]
  exact if_pos rfl

theorem Channel.sampled_requesting {r : ChannelRecord} (x : AnalogSample) (ch : Channel) {i : Nat} (hp : r.present = true)
    (hi : r.pressureInput = some i) :
    ((ch.pressed r x).warmed r x).requesting = requestingAfter r (readingOf x i) ch.requesting ∧
      ((ch.pressed r x).warmed r x).critical = decide (readingOf x i < r.pcrit) := by
  have hwarm : ∀ a : Channel, (a.warmed r x).requesting = a.requesting ∧ (a.warmed r x).critical = a.critical := fun a => by
    unfold Channel.warmed
    cases r.thermalInput with
    | none => exact ⟨rfl, rfl⟩
    | some j =>
      dsimp only
      split
      · split <;> exact ⟨rfl, rfl⟩
      · exact ⟨rfl, rfl⟩
  rw [(hwarm _).1, (hwarm _).2]
  unfold Channel.pressed
  rw [hi]
  dsimp only
  rw [if_pos hp]
  exact ⟨rfl, rfl⟩

/-- R137, R138: the request of a channel whose source a sample brings. -/
theorem exec_sample_request (x : AnalogSample) (c : Fin 4) {w : State} (ho : s.osm.op = .listening ∨ s.osm.op = .active)
    (hw : w = s.withSu ⟨x, true, s.su.din⟩) (hp : (s.record c).present = true) : ∃ t, exec (.analogSample x) s = .next t ∧
      (t.osm.op = .listening ∨ t.osm.op = .active →
        (∀ i, (s.record c).kind = .switched → (s.record c).source = .pressure → (s.record c).pressureInput = some i →
          (t.chan c).request = if readingOf x i < (s.record c).pon then 1
            else if (s.record c).poff ≤ readingOf x i then 0 else if (s.chan c).requesting then 1 else 0) ∧
        ((s.record c).kind = .modulated → (s.record c).source = .heatDuty → s.osm.role = .console →
          (t.chan c).request = x.ain5.toNat * 9 / 1024) ∧
        ((s.record c).kind = .converter → (s.record c).source = .demand → (t.chan c).request = min (s.record c).rated
          (if s.osm.role = .traction ∧ (s.record c).demandInput = 1 then w.signedDraw
            else readingOf x (s.record c).demandInput))) := by
  have hsamples : s.osm.op.samples = true := by obtain ho | ho := ho <;> rw [ho] <;> rfl
  have hreceives : s.osm.op.receives = true := by obtain ho | ho := ho <;> rw [ho] <;> rfl
  refine ⟨_, congrArg Host.Outcome.next (if_pos hsamples), fun hlive => ?_⟩
  obtain ⟨hsu, hset, hosm, hheat, hflags⟩ := s.takeSample_units x
  have hcarried := Carried.react (s.sampleCue (s.takeSample x)) s (s.takeSample x)
  have hreq := fun h => State.react_request (s.sampleCue (s.takeSample x)) s (s.takeSample x) (c := c)
    (by rw [State.record, hset]; exact hp) h
  generalize State.react (s.sampleCue (s.takeSample x)) s (s.takeSample x) = t at hcarried hreq hlive
  generalize s.takeSample x = u at hsu hset hosm hheat hflags hcarried hreq
  have hrec : t.record c = s.record c := by rw [State.record, hcarried.settings, hset]; rfl
  have htsu := hcarried.su.trans hsu
  have hrole := hcarried.role.trans (congrArg OpMachine.role hosm)
  have hrole' : u.osm.role = s.osm.role := congrArg OpMachine.role hosm
  have hurec : u.record c = s.record c := by rw [State.record, hset]; rfl
  rw [hurec] at hreq
  rw [State.wantedRequest_live (hrec.symm ▸ hp) hlive] at hreq
  unfold State.sourceRequest at hreq
  rw [hrec] at hreq
  refine ⟨fun i hk hs hi => ?_, fun hk hs hr => ?_, fun hk hs => ?_⟩
  · rw [hreq (by rw [hs]; nofun), hk, hs]
    have hrequesting : (t.chan c).requesting = requestingAfter (s.record c) (readingOf x i) (s.chan c).requesting :=
      (congrArg (fun x : Nat × Bool × Bool => x.2.1) ((hcarried.chan c).trans (hflags c))).trans
        (Channel.sampled_requesting x (s.chan c) hp hi).1
    dsimp only
    rw [hrequesting]
    unfold requestingAfter
    rw [if_pos hs]
    split
    · rfl
    · split
      · rfl
      · rfl
  · rw [hreq fun _ => hrole'.trans hr, hk, hs]
    have hcf : t.cf.heat = u.cf.heat := by
      have e : t.cf.carried.heat = u.cf.carried.heat := by rw [hcarried.cf]
      exact e
    dsimp only
    unfold State.heatRead
    rw [if_pos (hrole.trans hr), hcf, hheat hr hreceives]
    rfl
  · rw [hreq (by rw [hs]; nofun), hk, hs]
    have hdraw : t.signedDraw = w.signedDraw := by
      unfold State.signedDraw State.ain
      rw [htsu, hw]
      rfl
    dsimp only
    rw [hdraw, htsu, hrole, State.ain, htsu, if_pos rfl]
    simp only [Bool.and_eq_true, decide_eq_true_eq, beq_iff_eq]

/-- No move of the operating state leads from PATTERN to ACTIVE. -/
theorem State.react_op_pattern {u : State} (cue : Cue) (s0 : State) (h : u.osm.op = .pattern) :
    (State.react cue s0 u).osm.op ≠ .active := by
  have hclosed := (Closed.react cue s0 u).op
  have hosm := congrArg OpMachine.op (Kept.settleBlocks cue s0 u).osm
  rw [hclosed]
  generalize State.settleBlocks cue s0 u = w at hosm
  have hw : w.osm.op = .pattern := hosm.trans h
  obtain ⟨-, hm⟩ | ⟨-, hm⟩ := w.settleMove_cases
  · rw [hm, hw]
    nofun
  · rw [hm, congrArg OpMachine.op (Kept.settleBlocks noCue w w.autoMove).osm, State.autoMove_op, hw]
    dsimp only
    split <;> nofun

/-- R137, R140: the request of a channel whose source is a filtered input. -/
theorem exec_input_request (i : Fin 12) (level : Bool) (c : Fin 4) (ho : s.osm.op = .listening ∨ s.osm.op = .active)
    (hl : s.din i.val ≠ level) (hp : (s.record c).present = true) (hin : (s.record c).input = i.val)
    (hs : (s.record c).source = .din) : ∃ t, exec (.digitalInputChange i level) s = .next t ∧ (t.osm.op = s.osm.op →
      ((s.record c).kind = .switched → (t.chan c).request = if level then 1 else 0) ∧
      ((s.record c).kind = .modulated → (t.chan c).request = if level then 8 else 0) ∧
      ((s.record c).kind = .timed → (t.chan c).state ≠ .inhibited → t.pwu = s.pwu → t.cc.cuts = s.cc.cuts → level = true →
        (t.chan c).request = 1 ∧
        (t.chan c).cycle = if (s.chan c).cyclePending then (s.chan c).cycle else 1000 * (s.record c).cycle)) := by
  refine ⟨_, congrArg Host.Outcome.next (if_neg hl), fun hop => ?_⟩
  have hu := takeInput_cycled i.val level ho
  have hclosed := Closed.react_same noCue s (s.takeInput i.val level)
  have hcarried := Carried.react noCue s (s.takeInput i.val level)
  have hkept := Kept.settleBlocks noCue s (s.takeInput i.val level)
  have hreq := fun hp h => State.react_request noCue s (s.takeInput i.val level) (c := c) hp h
  have hpattern := State.react_op_pattern (u := s.takeInput i.val level) noCue s
  have hcycled := fun hp => State.settleBlocks_cycled (s0 := s) (u := s.takeInput i.val level) (c := c) hp
  generalize State.react noCue s (s.takeInput i.val level) = t at hop hclosed hcarried hreq hpattern
  generalize State.settleBlocks noCue s (s.takeInput i.val level) = w at hclosed hcycled hkept
  generalize s.takeInput i.val level = u at hu hclosed hcarried hkept hreq hpattern hcycled
  obtain ⟨h1, h2⟩ | ⟨hosm, hset, hsu, hcyc⟩ := hu
  · exact absurd (hop.trans h1) (hpattern h2)
  · have hurec : u.record c = s.record c := by rw [State.record, hset]; rfl
    have hrec : t.record c = s.record c := by rw [State.record, hcarried.settings, hset]; rfl
    have hdin : t.din i.val = level := by
      rw [State.din, hcarried.su, hsu]
      exact setLevel_din s i.isLt level
    have hq := hreq (by rw [hurec]; exact hp) (by rw [hurec, hs]; nofun)
    rw [State.wantedRequest_live (hrec.symm ▸ hp) (by rw [hop]; exact ho)] at hq
    unfold State.sourceRequest at hq
    rw [hrec, hs] at hq
    refine ⟨fun hk => ?_, fun hk => ?_, fun hk hi hpwu hcuts hlev => ?_⟩
    · rw [hq, hk]
      dsimp only
      rw [hin, hdin]
    · rw [hq, hk]
      dsimp only
      rw [hin, hdin]
    · have hclosed := hclosed (hop.trans (congrArg OpMachine.op hosm).symm)
      have hchan : t.chan c = w.chan c := by rw [State.chan, State.chan, hclosed.lcm]
      rw [hchan] at hi
      have hc := hcycled (by rw [hurec]; exact hp) (by rw [hosm]; obtain ho | ho := ho <;> rw [ho] <;> rfl)
        (hpwu.symm.trans (hclosed.pwu.trans hkept.pwu)) ((congrArg CutUnit.cuts hclosed.cc).symm.trans hcuts) hi
      rw [← hchan, hcyc hlev] at hc
      have hedge : ((s.chan c).edged (s.record c) i.val true).cycled =
          (true, if (s.chan c).cyclePending then (s.chan c).cycle else 1000 * (s.record c).cycle) := by
        unfold Channel.edged
        rw [hp, hk, hin]
        cases hpend : (s.chan c).cyclePending with
        | true => simp [Channel.cycled, hpend]
        | false => simp [Channel.cycled, Nat.mul_comm]
      rw [hedge] at hc
      have h1 : (t.chan c).cyclePending = true := congrArg Prod.fst hc
      refine ⟨?_, congrArg Prod.snd hc⟩
      rw [hq, hk]
      dsimp only
      rw [h1, if_pos rfl]

/-- The reaction to a change of the state of one channel that is no admission event, past a change of the alarm unit. -/
theorem State.react_oneChannel {u : State} {c : Fin 4} {ch : Channel} {a : AlarmUnit} (hw : s.Working) (hd : s.DriverSettled)
    (hl : s.LoadsSettled) (hu : u = (s.setChan c ch).withAu a) (h1 : ch.request = (s.chan c).request) (h2 : ch.state ≠ .inhibited)
    (h3 : ch.duty ≤ (s.chan c).duty) (h4 : ch.cap = (s.chan c).cap) (h5 : ch.requesting = (s.chan c).requesting)
    (h6 : ch.cyclePending = (s.chan c).cyclePending) :
    ((State.react noCue s u).chan c).state = ch.state ∧ ((State.react noCue s u).chan c).minOff = ch.minOff ∧
      ∀ d, d ≠ c → ((State.react noCue s u).chan d).state = (s.chan d).state := by
  have hloads : (s.setChan c ch).LoadsSettled := hl.setChan c ch h1 h2 h3 h4 h5 h6
  have hquiet := fun d => State.react_quiet s u (by rw [hu]; exact hd) (by rw [hu]; exact hw) (by rw [hu]; exact hloads)
    (by rw [hu]; rfl) (by rw [hu]; rfl) (by rw [hu]; rfl)
    (fun e => s.channelEvent_setChan c ch h1 h2 (hl.2 c).1 h4 u (by rw [hu]; rfl) e) d
  have hchan : ∀ d, u.chan d = if c = d then ch else s.chan d := fun d => by
    rw [hu]
    exact s.chan_setChan c d ch
  refine ⟨?_, ?_, fun d hd => ?_⟩
  · rw [(hquiet c).1, hchan, if_pos rfl]
  · rw [(hquiet c).2, hchan, if_pos rfl]
  · rw [(hquiet d).1, hchan, if_neg (Ne.symm hd)]

/-- R146: STARTING_COMPLETE, MIN_ON_ELAPSED and MIN_OFF_ELAPSED. -/
theorem exec_channelTimers (c : Fin 4) (hw : s.Working) (hd : s.DriverSettled) (hl : s.LoadsSettled)
    (hp : (s.record c).present = true) :
    ((s.chan c).state = .starting → 200 ≤ (s.chan c).minOn → ∃ t, exec (.startingComplete c) s = .next t ∧
      (t.chan c).state = .on ∧ ∀ d, d ≠ c → (t.chan d).state = (s.chan d).state) ∧
    ((s.chan c).state = .on → (s.chan c).request = 0 → (s.record c).minOnMs ≤ (s.chan c).minOn →
      ∃ t, exec (.minOnElapsed c) s = .next t ∧ (t.chan c).state = .waiting ∧ (t.chan c).minOff = 0 ∧
        ∀ d, d ≠ c → (t.chan d).state = (s.chan d).state) ∧
    ((s.chan c).state = .waiting → (s.chan c).request = 0 → (s.record c).minOffMs ≤ (s.chan c).minOff →
      ∃ t, exec (.minOffElapsed c) s = .next t ∧ (t.chan c).state = .off) := by
  refine ⟨fun hs hm => ?_, fun hs hq hm => ?_, fun hs hq hm => ?_⟩
  · refine ⟨_, congrArg Host.Outcome.next (if_pos ⟨hp, hs, hm⟩), ?_⟩
    obtain ⟨h1, -, h3⟩ := State.react_oneChannel (u := s.setChan c { s.chan c with state := .on }) (a := s.au) hw hd hl rfl rfl
      nofun le_rfl rfl rfl rfl
    exact ⟨h1, h3⟩
  · have hruns : s.runs c = true := (s.runs_iff c).mpr ⟨hp, by rw [hs]; rfl⟩
    have helapsed : s.minOnElapsed c = true := decide_eq_true hm
    refine ⟨_, congrArg Host.Outcome.next (if_pos ⟨hruns, helapsed⟩), ?_⟩
    have hasks : (s.chan c).asks = false := by
      unfold Channel.asks
      rw [hq]
      rfl
    obtain ⟨a, ha, -⟩ := (s.setChan c ((s.chan c).leave .waiting)).clearCond_only .shortCycle c.val
    have hu : s.minOnReached c = (s.setChan c ((s.chan c).leave .waiting)).withAu a := by
      unfold State.minOnReached State.clearShort
      rw [if_neg (by rw [hasks]; exact Bool.false_ne_true), ha]
    obtain ⟨h1, h2, h3⟩ := State.react_oneChannel hw hd hl hu rfl nofun (Nat.zero_le _) rfl rfl rfl
    refine ⟨h1, h2.trans ?_, h3⟩
    unfold Channel.leave
    rw [hs]
    rfl
  · have hoff : s.minOffElapsed c = true := decide_eq_true hm
    refine ⟨_, congrArg Host.Outcome.next (if_pos ⟨hp, by rw [hs]; rfl, hoff, .inr hs⟩), ?_⟩
    have hu : s.minOffReached c = (s.setChan c { (s.chan c).leave .off with offRuns := false }).withAu s.au := by
      unfold State.minOffReached
      dsimp only
      rw [if_pos hs]
      rfl
    have hadmits : s.minOffAdmits c = false := by
      unfold State.minOffAdmits
      rw [hu]
      have hself : (((s.setChan c { (s.chan c).leave .off with offRuns := false }).withAu s.au).chan c) =
        { (s.chan c).leave .off with offRuns := false } := s.setChan_self c _
      rw [hself]
      unfold Channel.admitted Channel.asks Channel.leave
      rw [hq]
      rfl
    rw [hadmits]
    exact (State.react_oneChannel hw hd hl hu rfl nofun (Nat.zero_le _) rfl rfl rfl).1

end

/-- Settles O53: the request that the last pass of a reaction leaves (`react_request`), the cycle of a channel that no evaluation
inhibits (`settleBlocks_cycled`), and the timers by a reaction that admits nothing (`react_oneChannel`). -/
theorem channelTimers : Obligations.ChannelTimers :=
  ⟨fun x c _ _ ho hw hp => exec_sample_request x c ho hw hp, fun i level c _ ho hl hp hin hs => exec_input_request i level c ho hl hp hin hs,
    fun c _ hw hd hl hp => exec_channelTimers c hw hd hl hp⟩

end Sys2Proof.Machine

/-! The encoder and the receiver's checks: each layout of R187 is read back from what is written (R181, R185). -/

namespace Sys2Proof.Machine

section

/-! Codes and quantities of one and two bytes (Table 10-4). -/

@[simp] theorem toNat_byteOf {n : Nat} (h : n < 256) : (byteOf n).toNat = n := by
  simp [byteOf, Nat.mod_eq_of_lt h]

@[simp] theorem wordFrom_byteOf {n : Nat} (h : n < 65536) : wordFrom (byteOf (n / 256)) (byteOf n) = n := by
  simp only [wordFrom, byteOf, BitVec.toNat_ofNat]
  omega

theorem Role.code_lt (r : Role) : r.code < 256 := by cases r <;> decide

@[simp] theorem roleOfCode_code (r : Role) : roleOfCode r.code = some r := by cases r <;> rfl

theorem BeaconState.code_lt (b : BeaconState) : b.code < 256 := by cases b <;> decide

@[simp] theorem beaconStateOfCode_code (b : BeaconState) : beaconStateOfCode b.code = some b := by cases b <;> rfl

theorem PoleState.code_lt (p : PoleState) : p.code < 256 := by cases p <;> decide

@[simp] theorem poleStateOfCode_code (p : PoleState) : poleStateOfCode p.code = some p := by cases p <;> rfl

theorem LineState.code_lt (l : LineState) : l.code < 256 := by cases l <;> decide

@[simp] theorem lineStateOfCode_code (l : LineState) : lineStateOfCode l.code = some l := by cases l <;> rfl

theorem SourceMode.code_lt (m : SourceMode) : m.code < 256 := by cases m <;> decide

@[simp] theorem sourceModeOfCode_code (m : SourceMode) : sourceModeOfCode m.code = some m := by cases m <;> rfl

theorem CutCause.code_lt (c : CutCause) : c.code < 256 := by cases c <;> decide

@[simp] theorem causeOfCode_code (c : CutCause) : causeOfCode c.code = some c := by cases c <;> rfl

theorem AlarmKind.code_lt (k : AlarmKind) : k.code < 256 := by cases k <;> decide

@[simp] theorem alarmKindOfCode_code (k : AlarmKind) : alarmKindOfCode k.code = some k := by cases k <;> rfl

theorem AlarmState.code_lt (a : AlarmState) : a.code < 256 := by cases a <;> decide

@[simp] theorem alarmStateOfCode_code (a : AlarmState) : alarmStateOfCode a.code = some a := by cases a <;> rfl

@[simp] theorem length_wordOf (n : Nat) : (wordOf n).length = 2 := rfl

@[simp] theorem toNat_byteOf_code (c : CutCause) : causeOfCode (byteOf c.code).toNat = some c := by
  rw [toNat_byteOf c.code_lt, causeOfCode_code]

/-! The flag bytes of R187. -/

theorem flagsOf_lt (b : Beacon) : flagsOf b < 256 := by
  unfold flagsOf bit
  split <;> split <;> split <;> split <;> split <;> omega

/-- A flag byte of five bits carries each of them in its place. -/
theorem testBit_flags (a b c d e : Bool) :
    (bit a 1 + bit b 2 + bit c 4 + bit d 8 + bit e 16).testBit 0 = a ∧
    (bit a 1 + bit b 2 + bit c 4 + bit d 8 + bit e 16).testBit 1 = b ∧
    (bit a 1 + bit b 2 + bit c 4 + bit d 8 + bit e 16).testBit 2 = c ∧
    (bit a 1 + bit b 2 + bit c 4 + bit d 8 + bit e 16).testBit 3 = d ∧
    (bit a 1 + bit b 2 + bit c 4 + bit d 8 + bit e 16).testBit 4 = e := by
  revert a b c d e
  decide

theorem testBit_consoleFlags (a b c : Bool) :
    (bit a 1 + bit b 2 + bit c 4).testBit 0 = a ∧ (bit a 1 + bit b 2 + bit c 4).testBit 1 = b ∧
    (bit a 1 + bit b 2 + bit c 4).testBit 2 = c ∧ bit a 1 + bit b 2 + bit c 4 < 256 := by
  revert a b c
  decide

/-! The parts and lists of a beacon. -/

/-- The optional part of a beacon lies in the widths of R187. -/
def Part.Fits : Part → Prop
  | .traction v => v < 65536
  | .auxiliary => True
  | .battery d a => d < 65536 ∧ a < 65536
  | .pole p => p.voltage < 65536 ∧ p.posCount < 256 ∧ p.negCount < 256
  | .console c => c.heat < 256

theorem parsePart_partBytes (p : Part) (h : p.Fits) (r : List Byte) :
    parsePart p.role (partBytes p ++ r) = some (p, r) := by
  cases p with
  | traction v => simp [parsePart, partBytes, Part.role, wordOf, wordFrom_byteOf h]
  | auxiliary => simp [parsePart, partBytes, Part.role]
  | battery d a => simp [parsePart, partBytes, Part.role, wordOf, wordFrom_byteOf h.1, wordFrom_byteOf h.2]
  | pole p =>
    obtain ⟨hv, hpos, hneg⟩ := h
    simp [parsePart, partBytes, Part.role, wordOf, wordFrom_byteOf hv, toNat_byteOf hpos, toNat_byteOf hneg,
      toNat_byteOf p.posState.code_lt, toNat_byteOf p.negState.code_lt, toNat_byteOf p.line.code_lt,
      toNat_byteOf p.source.code_lt]
  | console c =>
    obtain ⟨hspecial, hdoors, hkey, hlt⟩ := testBit_consoleFlags c.special c.doors c.key
    simp only [parsePart, partBytes, Part.role, List.cons_append, List.nil_append, toNat_byteOf hlt, hspecial, hdoors,
      hkey, toNat_byteOf h]

theorem length_partBytes (p : Part) : (partBytes p).length ≤ 8 := by
  cases p <;> simp [partBytes, wordOf]

theorem parseClaims_claimBytes (cs : List Claim) (r : List Byte)
    (h : ∀ c ∈ cs, c.cls ≤ 3 ∧ c.demand < 65536 ∧ c.floor < 65536) :
    parseClaims cs.length (cs.flatMap claimBytes ++ r) = some (cs, r) := by
  induction cs with
  | nil => rfl
  | cons c cs ih =>
    obtain ⟨hcls, hdemand, hfloor⟩ := h c (by simp)
    have hrest := ih fun x hx => h x (by simp [hx])
    simp [claimBytes, wordOf, parseClaims, toNat_byteOf (show c.cls < 256 by omega), hcls, wordFrom_byteOf hdemand,
      wordFrom_byteOf hfloor, hrest]

theorem length_claimBytes (cs : List Claim) : (cs.flatMap claimBytes).length = 5 * cs.length := by
  induction cs with
  | nil => rfl
  | cons c cs ih => simp only [List.flatMap_cons, List.length_append, ih, List.length_cons, claimBytes, length_wordOf]; omega

theorem parseCuts_cutBytes (cs : List CutRecord) (r : List Byte) (h : ∀ c ∈ cs, c.number < 256) :
    parseCuts cs.length (cs.flatMap cutBytes ++ r) = some (cs, r) := by
  induction cs with
  | nil => rfl
  | cons c cs ih =>
    have hrest := ih fun x hx => h x (by simp [hx])
    simp [cutBytes, parseCuts, toNat_byteOf (h c (by simp)), hrest]

theorem length_cutBytes (cs : List CutRecord) : (cs.flatMap cutBytes).length = 2 * cs.length := by
  induction cs with
  | nil => rfl
  | cons c cs ih => simp only [List.flatMap_cons, List.length_append, ih, List.length_cons, cutBytes, List.length_nil]; omega

theorem parseAlarms_alarmBytes (rs : List AlarmRecord) (r : List Byte)
    (h : ∀ x ∈ rs, x.qualifier < 256 ∧ x.count < 256) :
    parseAlarms rs.length (rs.flatMap alarmBytes ++ r) = some (rs, r) := by
  induction rs with
  | nil => rfl
  | cons x rs ih =>
    obtain ⟨hqualifier, hcount⟩ := h x (by simp)
    have hrest := ih fun y hy => h y (by simp [hy])
    simp [alarmBytes, parseAlarms, toNat_byteOf x.kind.code_lt, toNat_byteOf x.state.code_lt, toNat_byteOf hqualifier,
      toNat_byteOf hcount, hrest]

theorem length_alarmBytes (rs : List AlarmRecord) : (rs.flatMap alarmBytes).length = 4 * rs.length := by
  induction rs with
  | nil => rfl
  | cons x rs ih => simp only [List.flatMap_cons, List.length_append, ih, List.length_cons, alarmBytes, List.length_nil]; omega

/-! A beacon. -/

theorem length_beaconBytes (b : Beacon) : (beaconBytes b).length =
    20 + (partBytes b.part).length + 5 * b.claims.length + 2 * b.cuts.length + 4 * b.alarms.length := by
  simp only [beaconBytes, List.length_append, List.length_cons, List.length_nil, length_wordOf, length_claimBytes,
    length_cutBytes, length_alarmBytes]

/-- The last result is carried by its flag and its two bytes. -/
theorem lastResult_read (o : Option (Nat × Nat)) (h : ∀ r, o = some r → r.1 < 256 ∧ r.2 < 256) :
    (if o.isSome then some ((byteOf ((o.map Prod.fst).getD 0)).toNat, (byteOf ((o.map Prod.snd).getD 0)).toNat)
      else none) = o := by
  cases o with
  | none => rfl
  | some r => simp [toNat_byteOf (h r rfl).1, toNat_byteOf (h r rfl).2]

theorem parseBeacon_beaconBytes (b : Beacon) (h : b.Sendable) : parseBeacon (beaconBytes b) = some b := by
  obtain ⟨hseq, hparam, hperiod, hdraw, hrequest, hregen, hsink, hlast, hclaims, hclaim, hcuts, hcut, halarms, halarm,
    hpart⟩ := h
  obtain ⟨hdup, hfault, hhot, hpattern, hsome⟩ := testBit_flags b.duplicate b.configFault b.hot b.pattern
    b.lastResult.isSome
  have hpart' := parsePart_partBytes b.part (by cases hp : b.part <;> rw [hp] at hpart <;> exact hpart)
    (b.claims.flatMap claimBytes ++ (b.cuts.flatMap cutBytes ++ (b.alarms.flatMap alarmBytes ++ [])))
  have hresult := lastResult_read b.lastResult hlast
  have hflags := toNat_byteOf (flagsOf_lt b)
  rw [flagsOf] at hflags
  simp only [beaconBytes, wordOf, List.cons_append, List.nil_append, List.append_assoc, parseBeacon]
  rw [← List.append_nil (b.alarms.flatMap alarmBytes)]
  simp only [toNat_byteOf b.part.role.code_lt, roleOfCode_code, toNat_byteOf b.op.code_lt, beaconStateOfCode_code,
    hpart', toNat_byteOf (show b.claims.length < 256 by omega), parseClaims_claimBytes _ _ hclaim,
    toNat_byteOf (show b.cuts.length < 256 by omega), parseCuts_cutBytes _ _ hcut,
    toNat_byteOf (show b.alarms.length < 256 by omega), parseAlarms_alarmBytes _ _ halarm, hclaims, hcuts, halarms,
    flagsOf, hflags, hdup, hfault, hhot, hpattern, hsome, hresult, toNat_byteOf hseq, toNat_byteOf hperiod,
    wordFrom_byteOf hparam, wordFrom_byteOf hdraw, wordFrom_byteOf hrequest, wordFrom_byteOf hregen,
    wordFrom_byteOf hsink, Option.bind_eq_bind, Option.bind_some, and_self, if_true]

/-! A command. -/

theorem parseAcks_records (rs : List AckRecord) :
    parseAcks rs.length (rs.flatMap fun r => [r.kind, r.qualifier, r.count]) = some rs := by
  induction rs with
  | nil => rfl
  | cons x rs ih => simp [parseAcks, ih]

theorem length_records (rs : List AckRecord) :
    (rs.flatMap fun r => [r.kind, r.qualifier, r.count]).length = 3 * rs.length := by
  induction rs with
  | nil => rfl
  | cons x rs ih => simp only [List.flatMap_cons, List.length_append, ih, List.length_cons, List.length_nil]; omega

/-- The records of an ACK_ALARMS stand within the bounds of Table 10-3. -/
def CommandKind.Fits : CommandKind → Prop
  | .ackAlarms rs => 1 ≤ rs.length ∧ rs.length ≤ 8
  | _ => True

theorem parseCommandKind_commandBytes (o g k : Nat) (kind : CommandKind) (h : kind.Fits) :
    parseCommandKind (commandBytes o g k kind) = some kind := by
  cases kind with
  | ackAlarms rs =>
    obtain ⟨hlow, hhigh⟩ := h
    simp [parseCommandKind, commandBytes, CommandKind.code, parseKind, byteOf, hlow, hhigh,
      Nat.mod_eq_of_lt (show rs.length < 256 by omega), parseAcks_records]
  | raisePoles => simp [parseCommandKind, commandBytes, CommandKind.code, parseKind, byteOf]
  | lowerPoles => simp [parseCommandKind, commandBytes, CommandKind.code, parseKind, byteOf]
  | clearLockout p => simp [parseCommandKind, commandBytes, CommandKind.code, parseKind, byteOf]
  | patternOn => simp [parseCommandKind, commandBytes, CommandKind.code, parseKind, byteOf]
  | patternOff => simp [parseCommandKind, commandBytes, CommandKind.code, parseKind, byteOf]

theorem length_commandBytes (o g k : Nat) (kind : CommandKind) (h : kind.Fits) :
    (commandBytes o g k kind).length ≤ 96 := by
  cases kind with
  | ackAlarms rs =>
    simp only [commandBytes, List.length_append, List.length_cons, List.length_nil, length_records]
    have := h.2
    omega
  | raisePoles => simp [commandBytes]
  | lowerPoles => simp [commandBytes]
  | clearLockout p => simp [commandBytes]
  | patternOn => simp [commandBytes]
  | patternOff => simp [commandBytes]

/-! The frame around the payload. -/

/-- A frame made with the priority of its kind passes every check of R185 but those on its payload. -/
theorem checkFrame_makeFrame {p : BitVec 2} {n : Nat} {k : BitVec 3} {bytes : List Byte} (hlow : 1 ≤ n) (hhigh : n ≤ 15)
    (hp : p.toNat = priorityOfKind k.toNat) (hlen : bytes.length ≤ 96) :
    checkFrame (makeFrame p n k bytes) = readPayload (makeFrame p n k bytes) := by
  have hlength : (BitVec.ofNat 7 bytes.length).toNat = bytes.length := by
    simp only [BitVec.toNat_ofNat]
    omega
  have hstation : BitVec.ofNat 4 n ≠ 0 := by
    intro e
    have hzero : (BitVec.ofNat 4 n).toNat = 0 := congrArg BitVec.toNat e
    rw [BitVec.toNat_ofNat] at hzero
    omega
  have hcheck : (crcAgrees (makeFrame p n k bytes) && (makeFrame p n k bytes).payload.length ==
      (makeFrame p n k bytes).length.toNat && decide ((makeFrame p n k bytes).length.toNat ≤ 96) &&
      (makeFrame p n k bytes).priority.toNat == priorityOfKind (makeFrame p n k bytes).kind.toNat &&
      (makeFrame p n k bytes).station != 0) = true := by
    simp only [makeFrame, crcAgrees, hlength, hp, beq_self_eq_true, Bool.true_and, hlen, decide_true, bne_iff_ne]
    exact hstation
  rw [checkFrame, if_pos hcheck]

theorem toNat_station {n : Nat} (h : n ≤ 15) : (BitVec.ofNat 4 n).toNat = n := by
  simp only [BitVec.toNat_ofNat]
  omega

theorem checkFrame_command {n g k : Nat} {kind : CommandKind} (hlow : 1 ≤ n) (hhigh : n ≤ 15) (hg : g ≤ 15)
    (hk : k < 256) (h : kind.Fits) :
    checkFrame (makeFrame 1 n 3 (commandBytes n g k kind)) = some (.command n n g k kind) := by
  have hread := parseCommandKind_commandBytes n g k kind h
  rw [checkFrame_makeFrame hlow hhigh rfl (length_commandBytes n g k kind h)]
  simp only [commandBytes, List.cons_append, List.nil_append] at hread ⊢
  simp only [readPayload, makeFrame, BitVec.reduceToNat, toNat_byteOf (show g < 256 by omega), hg, if_true, hread,
    Option.map_some, toNat_station hhigh, toNat_byteOf (show n < 256 by omega), toNat_byteOf hk]

end

/-- Settles O14: every layout of R187 is read back field by field, within the bounds of what a station sends. -/
theorem framesRoundTrip : Obligations.FramesRoundTrip := by
  intro n m hlow hhigh h
  cases m with
  | beacon b =>
    have hsize : (beaconBytes b).length ≤ 96 := by
      obtain ⟨-, -, -, -, -, -, -, -, hclaims, -, hcuts, -, halarms, -, -⟩ := h
      have hpart := length_partBytes b.part
      rw [length_beaconBytes]
      omega
    rw [encode, checkFrame_makeFrame hlow hhigh rfl hsize]
    simp [readPayload, makeFrame, parseBeacon_beaconBytes b h, toNat_station hhigh, Message.heard]
  | pattern k =>
    rw [encode, checkFrame_makeFrame hlow hhigh rfl (by simp [patternBytes])]
    simp [readPayload, makeFrame, toNat_station hhigh, Message.heard]
  | cut o c k =>
    rw [encode, checkFrame_makeFrame hlow hhigh rfl (by simp)]
    simp [readPayload, makeFrame, toNat_station hhigh, Message.heard, toNat_byteOf h.1, toNat_byteOf h.2]
  | release o c k =>
    rw [encode, checkFrame_makeFrame hlow hhigh rfl (by simp)]
    simp [readPayload, makeFrame, toNat_station hhigh, Message.heard, toNat_byteOf h.1, toNat_byteOf h.2]
  | command g k kind =>
    obtain ⟨hg, hk, hkind⟩ := h
    exact checkFrame_command hlow hhigh hg hk (by cases kind <;> simp_all [CommandKind.Fits])

end Sys2Proof.Machine

/-! The allotment of the classes: what is left of the remainder, the whole extras and the proportional shares (R36 to R39). -/

namespace Sys2Proof.Machine

section

/-! Proportional sharing of an amount over a list of weights. -/

theorem mul_sum_div_le (w t : Nat) (es : List Nat) : t * (es.map (fun e => e * w / t)).sum ≤ es.sum * w := by
  induction es with
  | nil => simp
  | cons e es ih =>
    have hhead := Nat.mul_div_le (e * w) t
    simp only [List.map_cons, List.sum_cons, Nat.mul_add, Nat.add_mul]
    omega

theorem sum_div_le {w t : Nat} {es : List Nat} (h : es.sum ≤ t) : (es.map (fun e => e * w / t)).sum ≤ w := by
  rcases Nat.eq_zero_or_pos t with rfl | ht
  · simp
  · refine Nat.le_of_mul_le_mul_left ((mul_sum_div_le w t es).trans ?_) ht
    exact Nat.mul_le_mul_right w h

theorem sum_mul_le_div (w t : Nat) (ht : 0 < t) (es : List Nat) :
    es.sum * w ≤ t * (es.map (fun e => e * w / t)).sum + (t - 1) * es.countP (0 < ·) := by
  induction es with
  | nil => simp
  | cons e es ih =>
    have hhead := le_mul_div_add_of_ne_zero w t e ht
    simp only [List.map_cons, List.sum_cons, List.countP_cons, Nat.mul_add, Nat.add_mul, decide_eq_true_eq]
    by_cases he : e = 0
    · simp only [he, Nat.lt_irrefl, if_false, Nat.mul_zero, Nat.zero_mul, Nat.zero_div] at hhead ⊢
      omega
    · simp only [he, if_false, Nat.pos_of_ne_zero he, if_true, Nat.mul_one] at hhead ⊢
      omega

/-- R38, R59: what the proportional shares leave is less than the number of those that can take 1 A of it. -/
theorem leftover_lt {w t : Nat} {es : List Nat} (ht : 0 < t) (h : es.sum = t) :
    w - (es.map (fun e => e * w / t)).sum < es.countP (0 < ·) := by
  have hcount : 0 < es.countP (0 < ·) := by
    rw [List.countP_pos_iff]
    by_contra hnone
    push Not at hnone
    have hzero : es.sum = 0 := List.sum_eq_zero fun e he => by simpa using hnone e he
    omega
  have hle := sum_mul_le_div w t ht es
  rw [h] at hle
  have hlt : (t - 1) * es.countP (0 < ·) < t * es.countP (0 < ·) := (Nat.mul_lt_mul_right hcount).2 (by omega)
  have : t * w < t * ((es.map (fun e => e * w / t)).sum + es.countP (0 < ·)) := by
    rw [Nat.mul_add]
    omega
  have := Nat.lt_of_mul_lt_mul_left this
  omega

theorem mul_div_lt {e w t : Nat} (he : 0 < e) (hw : w < t) : e * w / t < e :=
  Nat.div_lt_of_lt_mul (by rw [Nat.mul_comm t]; exact Nat.mul_lt_mul_of_pos_left hw he)

/-! The deal of a leftover (R38). -/

/-- R38: a claim that the deal of a class can give 1 A. -/
def Granted.open (k : Nat) (g : Granted) : Bool := decide (g.counted.claim.cls = k ∧ g.grant < g.counted.claim.demand)

theorem dealLeftover_zero (k : Nat) (gs : List Granted) : dealLeftover k 0 gs = gs := by
  induction gs with
  | nil => rfl
  | cons g gs ih => simp [dealLeftover, ih]

theorem dealLeftover_cons_open {k left : Nat} {g : Granted} {gs : List Granted} (h : g.open k = true) :
    dealLeftover k (left + 1) (g :: gs) = { g with grant := g.grant + 1 } :: dealLeftover k left gs := by
  obtain ⟨hk, hg⟩ := of_decide_eq_true h
  simp [dealLeftover, hk, hg]

theorem dealLeftover_cons_shut {k left : Nat} {g : Granted} {gs : List Granted} (h : g.open k = false) :
    dealLeftover k left (g :: gs) = g :: dealLeftover k left gs := by
  have hshut := of_decide_eq_false h
  rw [dealLeftover, if_neg fun hh => hshut ⟨hh.1, hh.2.1⟩]

theorem dealLeftover_counted (k : Nat) (gs : List Granted) : ∀ left,
    (dealLeftover k left gs).map Granted.counted = gs.map Granted.counted := by
  induction gs with
  | nil => intro left; rfl
  | cons g gs ih =>
    intro left
    rw [dealLeftover]
    split <;> simp [ih]

theorem dealLeftover_sum (k : Nat) (gs : List Granted) : ∀ left,
    ((dealLeftover k left gs).map Granted.grant).sum = (gs.map Granted.grant).sum + min left (gs.countP (Granted.open k)) := by
  induction gs with
  | nil => intro left; simp [dealLeftover]
  | cons g gs ih =>
    intro left
    cases hopen : g.open k with
    | false => simp [dealLeftover_cons_shut hopen, ih, hopen]; omega
    | true =>
      cases left with
      | zero => simp [dealLeftover_zero]
      | succ left => simp [dealLeftover_cons_open hopen, ih, hopen]; omega

/-- R38: what the deal leaves of each claim. -/
theorem dealLeftover_mem {k : Nat} {gs : List Granted} : ∀ {left : Nat} {b : Granted}, b ∈ dealLeftover k left gs →
    ∃ g ∈ gs, b = g ∨ g.open k = true ∧ b = { g with grant := g.grant + 1 } := by
  induction gs with
  | nil => intro left b hb; simp [dealLeftover] at hb
  | cons g gs ih =>
    intro left b hb
    have htail {left : Nat} (hb : b ∈ dealLeftover k left gs) :
        ∃ x ∈ g :: gs, b = x ∨ x.open k = true ∧ b = { x with grant := x.grant + 1 } := by
      obtain ⟨x, hx, hbx⟩ := ih hb
      exact ⟨x, List.mem_cons_of_mem _ hx, hbx⟩
    cases hopen : g.open k with
    | false =>
      rw [dealLeftover_cons_shut hopen] at hb
      rcases List.mem_cons.1 hb with rfl | hb
      · exact ⟨b, by simp, .inl rfl⟩
      · exact htail hb
    | true =>
      cases left with
      | zero => exact ⟨b, by simpa [dealLeftover_zero] using hb, .inl rfl⟩
      | succ left =>
        rw [dealLeftover_cons_open hopen] at hb
        rcases List.mem_cons.1 hb with rfl | hb
        · exact ⟨g, by simp, .inr ⟨hopen, rfl⟩⟩
        · exact htail hb

theorem dealLeftover_filter {k j : Nat} (h : j ≠ k) (gs : List Granted) : ∀ left,
    (dealLeftover k left gs).filter (fun g => g.counted.claim.cls == j) = gs.filter (fun g => g.counted.claim.cls == j) := by
  induction gs with
  | nil => intro left; rfl
  | cons g gs ih =>
    intro left
    rw [dealLeftover]
    split
    next hg => simp [ih, hg.1, h.symm]
    next => simp [List.filter_cons, ih]

/-- R38: the leftover is dealt in the claims' order: where a claim of the class has been dealt 1 A, so has each open one
before it. -/
theorem dealLeftover_pairwise {k : Nat} {base : CountedClaim → Nat} {gs : List Granted}
    (h : ∀ g ∈ gs, g.counted.claim.cls = k → g.grant = base g.counted ∧ (0 < g.counted.extra → g.grant < g.counted.claim.demand)) :
    ∀ left, (dealLeftover k left gs).Pairwise (fun a b => a.counted.claim.cls = k → b.counted.claim.cls = k →
      0 < a.counted.extra → b.grant = base b.counted + 1 → a.grant = base a.counted + 1) := by
  induction gs with
  | nil => intro left; simp [dealLeftover]
  | cons g gs ih =>
    intro left
    have hrest := ih fun x hx => h x (List.mem_cons_of_mem _ hx)
    cases hopen : g.open k with
    | false =>
      rw [dealLeftover_cons_shut hopen]
      refine List.Pairwise.cons (fun b _ hk _ he _ => ?_) (hrest left)
      exact absurd ⟨hk, (h g (by simp) hk).2 he⟩ (of_decide_eq_false hopen)
    | true =>
      cases left with
      | zero =>
        rw [dealLeftover_zero]
        have hplain := hrest 0
        rw [dealLeftover_zero] at hplain
        refine List.Pairwise.cons (fun b hb _ hk _ hdealt => ?_) hplain
        have := (h b (List.mem_cons_of_mem _ hb) hk).1
        omega
      | succ left =>
        rw [dealLeftover_cons_open hopen]
        refine List.Pairwise.cons (fun b _ hk _ _ _ => ?_) (hrest left)
        exact congrArg (· + 1) (h g (by simp) hk).1

/-! One class of the class stage. -/

theorem extrasOf_eq_classExtra (k : Nat) (gs : List Granted) : extrasOf (gs.map Granted.counted) k = classExtra k gs := by
  induction gs with
  | nil => rfl
  | cons g gs ih =>
    simp only [extrasOf, classExtra] at ih
    by_cases hk : g.counted.claim.cls = k <;> simp [extrasOf, classExtra, hk, ih]

theorem classShared_eq (k w t : Nat) (gs : List Granted) : classShared k w t gs =
    ((gs.map (fun g => if g.counted.claim.cls = k then g.counted.extra else 0)).map (fun e => e * w / t)).sum := by
  rw [classShared, List.map_map]
  congr 1
  refine List.map_congr_left fun g _ => ?_
  by_cases hk : g.counted.claim.cls = k <;> simp [hk]

theorem le_classExtra {k : Nat} {gs : List Granted} {g : Granted} (hg : g ∈ gs) (hk : g.counted.claim.cls = k) :
    g.counted.extra ≤ classExtra k gs := by
  refine List.single_le_sum (by simp) _ (List.mem_map.2 ⟨g, hg, ?_⟩)
  simp [hk]

theorem sum_raised (k : Nat) (f : CountedClaim → Nat) (gs : List Granted) :
    ((gs.map (fun g => if g.counted.claim.cls = k then { g with grant := g.grant + f g.counted } else g)).map
      Granted.grant).sum = (gs.map Granted.grant).sum +
      (gs.map (fun g => if g.counted.claim.cls = k then f g.counted else 0)).sum := by
  induction gs with
  | nil => rfl
  | cons g gs ih =>
    simp only [List.map_cons, List.sum_cons, ih]
    by_cases hk : g.counted.claim.cls = k <;> simp [hk] <;> omega

theorem raised_counted (k : Nat) (f : CountedClaim → Nat) (gs : List Granted) :
    (gs.map (fun g => if g.counted.claim.cls = k then { g with grant := g.grant + f g.counted } else g)).map
      Granted.counted = gs.map Granted.counted := by
  rw [List.map_map]
  refine List.map_congr_left fun g _ => ?_
  simp only [Function.comp_apply]
  split <;> rfl

theorem raised_filter {k j : Nat} (h : j ≠ k) (f : CountedClaim → Nat) (gs : List Granted) :
    (gs.map (fun g => if g.counted.claim.cls = k then { g with grant := g.grant + f g.counted } else g)).filter
      (fun g => g.counted.claim.cls == j) = gs.filter (fun g => g.counted.claim.cls == j) := by
  induction gs with
  | nil => rfl
  | cons g gs ih =>
    by_cases hk : g.counted.claim.cls = k
    · simp [hk, h.symm, ih]
    · simp [List.filter_cons, hk, ih]

/-- R37: a class that is served: its claims have their whole extras, nothing, or a proportional share of the room with the
leftover dealt in the claims' order. -/
def Served (u : Nat) (cs : List CountedClaim) (k : Nat) (gs : List Granted) : Prop :=
  (∀ g ∈ gs, g.counted.claim.cls = k → g.grant ≤ g.counted.claim.demand ∧
    (extrasOf cs k ≤ roomOf u cs k → g.grant = g.counted.claim.demand) ∧
    (roomOf u cs k = 0 → g.grant = g.counted.claim.floor) ∧
    (roomOf u cs k < extrasOf cs k →
      g.grant = g.counted.claim.floor + g.counted.extra * roomOf u cs k / extrasOf cs k ∨ 0 < g.counted.extra ∧
        g.grant = g.counted.claim.floor + g.counted.extra * roomOf u cs k / extrasOf cs k + 1)) ∧
  gs.Pairwise (fun a b => a.counted.claim.cls = k → b.counted.claim.cls = k → 0 < a.counted.extra →
    roomOf u cs k < extrasOf cs k →
    b.grant = b.counted.claim.floor + b.counted.extra * roomOf u cs k / extrasOf cs k + 1 →
    a.grant = a.counted.claim.floor + a.counted.extra * roomOf u cs k / extrasOf cs k + 1)

theorem Served.congr {u k : Nat} {cs : List CountedClaim} {gs gs' : List Granted} (h : Served u cs k gs)
    (e : gs'.filter (fun g => g.counted.claim.cls == k) = gs.filter (fun g => g.counted.claim.cls == k)) :
    Served u cs k gs' := by
  obtain ⟨heach, hpair⟩ := h
  constructor
  · intro g hg hk
    have hmem : g ∈ gs.filter (fun g => g.counted.claim.cls == k) := e ▸ List.mem_filter.2 ⟨hg, by simpa using hk⟩
    exact heach g (List.mem_filter.1 hmem).1 hk
  · have hfilter := hpair.filter (fun g => g.counted.claim.cls == k)
    rw [← e, List.pairwise_filter] at hfilter
    exact hfilter.imp fun {a b} hab ha hb => hab (by simpa using ha) (by simpa using hb) ha hb

/-- R37: the class stage before class j, from the usable envelope u. -/
structure Reached (u : Nat) (cs : List CountedClaim) (j : Nat) (p : Nat × List Granted) : Prop where
  room : p.1 = roomOf u cs j
  counted : p.2.map Granted.counted = cs
  sum : (p.2.map Granted.grant).sum + p.1 = u
  floors : ∀ g ∈ p.2, j ≤ g.counted.claim.cls → g.grant = g.counted.claim.floor
  served : ∀ k < j, Served u cs k p.2

theorem Reached.start {u : Nat} {cs : List CountedClaim} (h : floorSum cs < u) :
    Reached u cs 0 (u - floorSum cs, cs.map (fun c => ⟨c, c.claim.floor⟩)) where
  room := by simp [roomOf]
  counted := by simp [Function.comp_def]
  sum := by
    have hsum : ((cs.map (fun c => (⟨c, c.claim.floor⟩ : Granted))).map Granted.grant).sum = floorSum cs := by
      simp [floorSum, Function.comp_def]
    simp only [hsum]
    omega
  floors := by
    intro g hg _
    obtain ⟨c, -, rfl⟩ := List.mem_map.1 hg
    rfl
  served := by intro k hk; omega

theorem roomOf_succ (u : Nat) (cs : List CountedClaim) (j : Nat) : roomOf u cs (j + 1) = roomOf u cs j - extrasOf cs j := by
  simp only [roomOf, List.range_succ, List.map_append, List.sum_append, List.map_cons, List.map_nil, List.sum_cons,
    List.sum_nil]
  omega

section
variable {u j : Nat} {cs : List CountedClaim} {p : Nat × List Granted}

/-- A stage that leaves the other classes as they are and serves its own. -/
theorem Reached.next (h : Reached u cs j p) {q : Nat × List Granted} (hroom : q.1 = p.1 - extrasOf cs j)
    (hcounted : q.2.map Granted.counted = p.2.map Granted.counted)
    (hsum : (q.2.map Granted.grant).sum + q.1 = (p.2.map Granted.grant).sum + p.1)
    (hother : ∀ k, k ≠ j → q.2.filter (fun g => g.counted.claim.cls == k) = p.2.filter (fun g => g.counted.claim.cls == k))
    (hserved : Served u cs j q.2) : Reached u cs (j + 1) q where
  room := by rw [hroom, h.room, roomOf_succ]
  counted := hcounted.trans h.counted
  sum := hsum.trans h.sum
  floors := by
    intro g hg hk
    have hmem : g ∈ p.2.filter (fun x => x.counted.claim.cls == g.counted.claim.cls) :=
      hother g.counted.claim.cls (by omega) ▸ List.mem_filter.2 ⟨hg, by simp⟩
    exact h.floors g (List.mem_filter.1 hmem).1 (by omega)
  served := by
    intro k hk
    rcases Nat.lt_succ_iff_lt_or_eq.1 hk with hlt | rfl
    · exact (h.served k hlt).congr (hother k (by omega))
    · exact hserved

theorem Reached.extras (h : Reached u cs j p) : extrasOf cs j = classExtra j p.2 := by
  rw [← h.counted, extrasOf_eq_classExtra]

variable (hfit : ∀ c ∈ cs, c.claim.floor ≤ c.claim.demand)
include hfit

theorem Reached.floor_le (h : Reached u cs j p) {g : Granted} (hg : g ∈ p.2) :
    g.counted.claim.floor + g.counted.extra = g.counted.claim.demand := by
  have := hfit g.counted (h.counted ▸ List.mem_map_of_mem hg)
  simp only [CountedClaim.extra]
  omega

/-- A class without extras: its claims keep their floors, which are their demands. -/
theorem Reached.none (h : Reached u cs j p) (ht : classExtra j p.2 = 0) : Reached u cs (j + 1) p := by
  refine h.next (by rw [h.extras, ht]; rfl) rfl rfl (fun _ _ => rfl) ⟨fun g hg hk => ?_, ?_⟩
  · have hfloor := h.floors g hg hk.ge
    have hextra := le_classExtra hg hk
    have hdemand := h.floor_le hfit hg
    rw [h.extras, ht]
    refine ⟨by omega, fun _ => by omega, fun _ => hfloor, fun hlt => absurd hlt (Nat.not_lt_zero _)⟩
  · refine List.pairwise_iff_forall_sublist.2 fun {a b} _ _ _ _ hlt => ?_
    rw [h.extras, ht] at hlt
    exact absurd hlt (Nat.not_lt_zero _)

/-- A class whose extras fit the room has them whole. -/
theorem Reached.whole (h : Reached u cs j p) (hle : classExtra j p.2 ≤ p.1) (ht : classExtra j p.2 ≠ 0) :
    Reached u cs (j + 1) (p.1 - classExtra j p.2, p.2.map (fun g =>
      if g.counted.claim.cls = j then { g with grant := g.grant + g.counted.extra } else g)) := by
  have hsum := sum_raised j CountedClaim.extra p.2
  have hroom := h.room
  refine h.next (by rw [h.extras]) (raised_counted j CountedClaim.extra p.2) ?_
    (fun k hk => raised_filter hk CountedClaim.extra p.2) ⟨fun g hg hk => ?_, ?_⟩
  · simp only [hsum]
    simp only [classExtra] at hle ⊢
    omega
  · obtain ⟨x, hx, rfl⟩ := List.mem_map.1 hg
    by_cases hxk : x.counted.claim.cls = j
    · have hfloor := h.floors x hx hxk.ge
      have hdemand := h.floor_le hfit hx
      rw [h.extras, ← hroom]
      simp only [hxk, if_true]
      exact ⟨by omega, fun _ => by omega, fun _ => by omega, fun _ => by omega⟩
    · simp only [hxk, if_false] at hk
  · refine List.pairwise_iff_forall_sublist.2 fun {a b} _ _ _ _ hlt => ?_
    rw [h.extras, ← hroom] at hlt
    exact absurd hlt hle.not_gt

/-- A class that the room covers in part shares it in proportion. -/
theorem Reached.part (h : Reached u cs j p) (hlt : p.1 < classExtra j p.2) :
    Reached u cs (j + 1) (0, dealLeftover j (p.1 - classShared j p.1 (classExtra j p.2) p.2) (p.2.map (fun g =>
      if g.counted.claim.cls = j then { g with grant := g.grant + g.counted.extra * p.1 / classExtra j p.2 } else g))) := by
  have hsum := sum_raised j (fun c => c.extra * p.1 / classExtra j p.2) p.2
  have hcounted := raised_counted j (fun c => c.extra * p.1 / classExtra j p.2) p.2
  have hother k (hk : k ≠ j) := raised_filter hk (fun c => c.extra * p.1 / classExtra j p.2) p.2
  have hroom := h.room
  have hextras := h.extras
  have hshare : classShared j p.1 (classExtra j p.2) p.2 ≤ p.1 := by
    rw [classShared_eq]
    exact sum_div_le (Nat.le_refl _)
  have hleft : p.1 - classShared j p.1 (classExtra j p.2) p.2 <
      (p.2.map (fun g => if g.counted.claim.cls = j then g.counted.extra else 0)).countP (0 < ·) := by
    rw [classShared_eq]
    exact leftover_lt (by omega) rfl
  have heach : ∀ g ∈ p.2.map (fun g => if g.counted.claim.cls = j then
      { g with grant := g.grant + g.counted.extra * p.1 / classExtra j p.2 } else g), g.counted.claim.cls = j →
      g.grant = g.counted.claim.floor + g.counted.extra * p.1 / classExtra j p.2 ∧
      (0 < g.counted.extra → g.grant < g.counted.claim.demand) ∧
      g.counted.claim.floor + g.counted.extra = g.counted.claim.demand := by
    intro g hg hk
    obtain ⟨x, hx, rfl⟩ := List.mem_map.1 hg
    by_cases hxk : x.counted.claim.cls = j
    · have hfloor := h.floors x hx hxk.ge
      have hdemand := h.floor_le hfit hx
      simp only [hxk, if_true, hfloor]
      refine ⟨trivial, fun he => ?_, hdemand⟩
      have := mul_div_lt he hlt
      omega
    · simp only [hxk, if_false] at hk
  have hopen : (p.2.map (fun g => if g.counted.claim.cls = j then g.counted.extra else 0)).countP (0 < ·) ≤
      (p.2.map (fun g => if g.counted.claim.cls = j then
        { g with grant := g.grant + g.counted.extra * p.1 / classExtra j p.2 } else g)).countP (Granted.open j) := by
    rw [List.countP_map, List.countP_map]
    refine List.countP_mono_left fun g hg hpos => ?_
    by_cases hk : g.counted.claim.cls = j
    · simp only [Function.comp_apply, hk, if_true, decide_eq_true_eq] at hpos
      have hx := (heach _ (List.mem_map_of_mem hg) (by simp [hk])).2.1
      simp only [hk, if_true] at hx
      simp only [Function.comp_apply, hk, if_true, Granted.open, true_and, decide_eq_true_eq]
      exact hx hpos
    · simp [hk] at hpos
  refine h.next (by rw [hextras]; omega) ((dealLeftover_counted _ _ _).trans hcounted) ?_
    (fun k hk => (dealLeftover_filter hk _ _).trans (hother k hk)) ⟨fun b hb hk => ?_, ?_⟩
  · rw [dealLeftover_sum, hsum]
    simp only [classShared] at hleft hshare ⊢
    omega
  · have hnothing : p.1 = 0 → b.grant = b.counted.claim.floor := by
      intro hzero
      have hleft0 : p.1 - classShared j p.1 (classExtra j p.2) p.2 = 0 := by omega
      simp only [hleft0, dealLeftover_zero] at hb
      rw [(heach b hb hk).1, hzero, Nat.mul_zero, Nat.zero_div, Nat.add_zero]
    rw [hextras, ← hroom]
    obtain ⟨g, hg, rfl | ⟨hgo, rfl⟩⟩ := dealLeftover_mem hb
    · obtain ⟨hgrant, hbelow, hdemand⟩ := heach _ hg hk
      refine ⟨?_, fun _ => by omega, hnothing, fun _ => .inl hgrant⟩
      · rcases Nat.eq_zero_or_pos b.counted.extra with he | he
        · rw [he, Nat.zero_mul, Nat.zero_div] at hgrant
          omega
        · exact (hbelow he).le
    · obtain ⟨hgrant, hbelow, hdemand⟩ := heach _ hg hk
      have hgd := (of_decide_eq_true hgo).2
      have hextra : 0 < g.counted.extra := by
        by_contra hnone
        have he : g.counted.extra = 0 := by omega
        rw [he, Nat.zero_mul, Nat.zero_div] at hgrant
        omega
      exact ⟨hgd, fun _ => by omega, hnothing, fun _ => .inr ⟨hextra, congrArg (· + 1) hgrant⟩⟩
  · rw [hextras, ← hroom]
    refine (dealLeftover_pairwise (base := fun c => c.claim.floor + c.extra * p.1 / classExtra j p.2)
      (fun g hg hk => ⟨(heach g hg hk).1, (heach g hg hk).2.1⟩) _).imp ?_
    exact fun {a b} hab ha hb he _ hdealt => hab ha hb he hdealt

theorem Reached.stage (h : Reached u cs j p) : Reached u cs (j + 1) (classStage j p) := by
  rw [classStage]
  by_cases ht : classExtra j p.2 = 0
  · simpa [ht] using h.none hfit ht
  · by_cases hle : classExtra j p.2 ≤ p.1
    · simpa [ht, hle] using h.whole hfit hle ht
    · simpa [ht, hle] using h.part hfit (by omega)

theorem Reached.classGrants (h : floorSum cs < u) :
    Reached u cs 4 (classStage 3 (classStage 2 (classStage 1 (classStage 0
      (u - floorSum cs, cs.map (fun c => ⟨c, c.claim.floor⟩)))))) :=
  ((((Reached.start h).stage hfit).stage hfit).stage hfit).stage hfit

omit hfit in
theorem extrasOf_sum (hcls : ∀ c ∈ cs, c.claim.cls ≤ 3) :
    ((List.range 4).map (extrasOf cs)).sum = (cs.map CountedClaim.extra).sum := by
  induction cs with
  | nil => rfl
  | cons c cs ih =>
    have hrest := ih fun x hx => hcls x (List.mem_cons_of_mem _ hx)
    have hc : c.claim.cls = 0 ∨ c.claim.cls = 1 ∨ c.claim.cls = 2 ∨ c.claim.cls = 3 := by
      have := hcls c (by simp)
      omega
    simp only [extrasOf, List.range_succ, List.range_zero, List.nil_append, List.cons_append, List.map_cons, List.map_nil,
      List.sum_cons, List.sum_nil] at hrest ⊢
    rcases hc with hc | hc | hc | hc <;> simp [hc] <;> omega

omit hfit in
/-- R36: the floors alone, cut down in proportion, stay within the envelope and their demands. -/
theorem floorGrants_within (hle : u ≤ floorSum cs) (hfit : ∀ c ∈ cs, c.claim.floor ≤ c.claim.demand) :
    ((floorGrants u (floorSum cs) cs).map Granted.grant).sum ≤ u ∧
    (∀ g ∈ floorGrants u (floorSum cs) cs, g.grant ≤ g.counted.claim.demand) ∧
    (floorGrants u (floorSum cs) cs).map Granted.counted = cs := by
  refine ⟨?_, fun g hg => ?_, by simp [floorGrants, Function.comp_def]⟩
  · have hsum := sum_div_le (w := u) (t := floorSum cs) (es := cs.map (fun c => c.claim.floor)) (Nat.le_refl _)
    simpa [floorGrants, Function.comp_def] using hsum
  · obtain ⟨c, hc, rfl⟩ := List.mem_map.1 hg
    refine le_trans (Nat.div_le_of_le_mul ?_) (hfit c hc)
    rw [Nat.mul_comm (floorSum cs)]
    exact Nat.mul_le_mul_left _ hle

end

end

theorem pairwise_forall {α β : Type} {R : β → α → α → Prop} {l : List α} (h : ∀ k, l.Pairwise (R k)) :
    l.Pairwise (fun a b => ∀ k, R k a b) :=
  List.pairwise_iff_forall_sublist.2 fun hs k => List.pairwise_iff_forall_sublist.1 (h k) hs

/-- Settles O23: the class stage serves the classes in order, and grants and remainder together stay the envelope. -/
theorem grantsWithinEnvelope : Obligations.GrantsWithinEnvelope := by
  intro u cs h
  have hfit : ∀ c ∈ cs, c.claim.floor ≤ c.claim.demand := fun c hc => (h c hc).2
  rcases Nat.lt_or_ge (floorSum cs) u with hlt | hle
  · have hreached := Reached.classGrants hfit hlt
    rw [allot_of_floorSum_lt hlt]
    have hroom : roomOf u cs 4 = u - floorSum cs - (cs.map CountedClaim.extra).sum := by
      rw [roomOf, extrasOf_sum fun c hc => (h c hc).1]
    have hsum := hreached.sum
    rw [hreached.room, hroom] at hsum
    have hcls : ∀ g ∈ classGrants (u - floorSum cs) cs, g.counted.claim.cls < 4 := by
      intro g hg
      have := (h g.counted (hreached.counted ▸ List.mem_map_of_mem hg)).1
      omega
    refine ⟨?_, fun _ hcover => ?_, fun g hg => ?_, hreached.counted, fun _ => ⟨fun g hg k hk => ?_, ?_⟩⟩
    · rw [classGrants]
      omega
    · rw [classGrants]
      omega
    · exact ((hreached.served _ (hcls g hg)).1 g hg rfl).1
    · exact ((hreached.served k (hk ▸ hcls g hg)).1 g hg hk).2
    · refine pairwise_forall fun k => ?_
      by_cases hk : k < 4
      · exact (hreached.served k hk).2
      · exact List.pairwise_of_forall_mem_list fun a ha b _ hak => absurd (hak ▸ hcls a ha) hk
  · obtain ⟨hsum, hdemand, hcounted⟩ := floorGrants_within hle hfit
    rw [allot_of_le_floorSum hle]
    exact ⟨hsum, fun hlt => absurd hle hlt.not_ge, hdemand, hcounted, fun hlt => absurd hle hlt.not_ge⟩

end Sys2Proof.Machine

/-! The sink shares of the excess regen and their placing on the channels and the battery (R59, R61, R62). -/

namespace Sys2Proof.Machine

section

/-! The deal of a leftover over the sink stations (R59). -/

theorem dealShares_eq {left : Nat} {ks : List SinkShare} (h : ∀ k ∈ ks, k.share < k.capacity) : ∀ from_,
    dealShares (left - from_) ks =
      (ks.zipIdx from_).map (fun p => { p.1 with share := p.1.share + if p.2 < left then 1 else 0 }) := by
  induction ks with
  | nil => intro from_; rfl
  | cons k ks ih =>
    intro from_
    have hk := h k (by simp)
    have hrest := ih (fun x hx => h x (List.mem_cons_of_mem _ hx)) (from_ + 1)
    rw [dealShares, List.zipIdx_cons, List.map_cons]
    by_cases hlt : from_ < left
    · rw [if_pos ⟨hk, by omega⟩, if_pos hlt, Nat.sub_sub, hrest]
    · have hzero : left - from_ = left - (from_ + 1) := by omega
      rw [if_neg (by omega), if_neg hlt, Nat.add_zero, hzero, hrest]

theorem dealShares_mem {ks : List SinkShare} : ∀ {left : Nat} {b : SinkShare}, b ∈ dealShares left ks →
    ∃ k ∈ ks, b = k ∨ k.share < k.capacity ∧ b = { k with share := k.share + 1 } := by
  induction ks with
  | nil => intro left b hb; simp [dealShares] at hb
  | cons k ks ih =>
    intro left b hb
    have htail {left : Nat} (hb : b ∈ dealShares left ks) :
        ∃ x ∈ k :: ks, b = x ∨ x.share < x.capacity ∧ b = { x with share := x.share + 1 } := by
      obtain ⟨x, hx, hbx⟩ := ih hb
      exact ⟨x, List.mem_cons_of_mem _ hx, hbx⟩
    rw [dealShares] at hb
    split at hb
    next hk =>
      rcases List.mem_cons.1 hb with rfl | hb
      · exact ⟨k, by simp, .inr ⟨hk.1, rfl⟩⟩
      · exact htail hb
    next =>
      rcases List.mem_cons.1 hb with rfl | hb
      · exact ⟨b, by simp, .inl rfl⟩
      · exact htail hb

theorem dealShares_stations (ks : List SinkShare) : ∀ left,
    (dealShares left ks).map (fun k => (k.station, k.capacity)) = ks.map (fun k => (k.station, k.capacity)) := by
  induction ks with
  | nil => intro left; rfl
  | cons k ks ih =>
    intro left
    rw [dealShares]
    split <;> simp [ih]

theorem dealShares_sum (ks : List SinkShare) : ∀ left, ((dealShares left ks).map SinkShare.share).sum =
    (ks.map SinkShare.share).sum + min left (ks.countP (fun k => decide (k.share < k.capacity))) := by
  induction ks with
  | nil => intro left; simp [dealShares]
  | cons k ks ih =>
    intro left
    rw [dealShares]
    by_cases hk : k.share < k.capacity
    · by_cases hleft : 0 < left
      · simp [hk, hleft, ih]
        omega
      · simp [hk, hleft, ih]
        omega
    · simp [hk, ih]
      omega

/-! The three cases of R59. -/

section
variable {x : Nat} {ks : List SinkShare}

theorem sinkShares_of_none (h : x = 0 ∨ totalSink ks = 0) : sinkShares x ks = ks.map (fun k => { k with share := 0 }) :=
  if_pos h

theorem sinkShares_of_whole (ht : 0 < totalSink ks) (h : totalSink ks ≤ x) :
    sinkShares x ks = ks.map (fun k => { k with share := k.capacity }) := by
  rw [sinkShares, if_neg (by omega), if_pos h]

/-- R59: the proportional shares of an excess below the total capacity, and what they leave. -/
theorem sinkShares_of_part (hx : 0 < x) (h : x < totalSink ks) : sinkShares x ks =
    dealShares (x - (ks.map (fun k => x * k.capacity / totalSink ks)).sum)
      (ks.map (fun k => { k with share := x * k.capacity / totalSink ks })) := by
  simp only [sinkShares]
  rw [if_neg (by omega), if_neg (by omega), List.map_map]
  rfl

theorem propShares_sum : (ks.map (fun k => x * k.capacity / totalSink ks)).sum =
    ((ks.map SinkShare.capacity).map (fun e => e * x / totalSink ks)).sum := by
  rw [List.map_map]
  congr 1
  exact List.map_congr_left fun k _ => by rw [Function.comp_apply, Nat.mul_comm]

theorem propShares_le : (ks.map (fun k => x * k.capacity / totalSink ks)).sum ≤ x := by
  rw [propShares_sum]
  exact sum_div_le (Nat.le_refl _)

theorem propShares_left (ht : 0 < totalSink ks) : x - (ks.map (fun k => x * k.capacity / totalSink ks)).sum <
    ks.countP (fun k => decide (0 < k.capacity)) := by
  have h := leftover_lt (w := x) (es := ks.map SinkShare.capacity) ht rfl
  rw [List.countP_map] at h
  rw [propShares_sum]
  exact h

theorem propShare_lt {c : Nat} (hc : 0 < c) (h : x < totalSink ks) : x * c / totalSink ks < c := by
  rw [Nat.mul_comm]
  exact mul_div_lt hc h

theorem propShare_le (c : Nat) (h : x < totalSink ks) : x * c / totalSink ks ≤ c := by
  rcases Nat.eq_zero_or_pos c with rfl | hc
  · simp
  · exact (propShare_lt hc h).le

/-- A share of a proportional sharing below its capacity is one of a capacity above 0. -/
theorem propShare_open (h : x < totalSink ks) (c : Nat) : x * c / totalSink ks < c ↔ 0 < c :=
  ⟨fun hlt => (Nat.zero_le _).trans_lt hlt, fun hc => propShare_lt hc h⟩

theorem sinkShares_sum (x : Nat) (ks : List SinkShare) :
    ((sinkShares x ks).map SinkShare.share).sum = min x (totalSink ks) := by
  rcases Nat.eq_zero_or_pos x with hx | hx
  · rw [sinkShares_of_none (.inl hx)]
    simp [hx, Function.comp_def]
  rcases Nat.eq_zero_or_pos (totalSink ks) with ht | ht
  · rw [sinkShares_of_none (.inr ht)]
    simp [ht, Function.comp_def]
  rcases Nat.lt_or_ge x (totalSink ks) with hlt | hle
  · have hsum : ((ks.map (fun k => { k with share := x * k.capacity / totalSink ks })).map SinkShare.share).sum =
        (ks.map (fun k => x * k.capacity / totalSink ks)).sum := by simp [Function.comp_def]
    have hopen : (ks.map (fun k => { k with share := x * k.capacity / totalSink ks })).countP
        (fun k => decide (k.share < k.capacity)) = ks.countP (fun k => decide (0 < k.capacity)) := by
      rw [List.countP_map]
      exact List.countP_congr fun k _ => by simp [propShare_open hlt]
    have hle := propShares_le (x := x) (ks := ks)
    have hleft := propShares_left (x := x) ht
    rw [sinkShares_of_part hx hlt, dealShares_sum, hsum, hopen]
    omega
  · rw [sinkShares_of_whole ht hle, List.map_map, Nat.min_eq_right hle]
    rfl

theorem sinkShares_le (x : Nat) (ks : List SinkShare) : ∀ k ∈ sinkShares x ks, k.share ≤ k.capacity := by
  intro b hb
  by_cases hnone : x = 0 ∨ totalSink ks = 0
  · rw [sinkShares_of_none hnone] at hb
    obtain ⟨k, -, rfl⟩ := List.mem_map.1 hb
    exact Nat.zero_le _
  rcases Nat.lt_or_ge x (totalSink ks) with hlt | hle
  · rw [sinkShares_of_part (by omega) hlt] at hb
    obtain ⟨k, hk, rfl | ⟨hopen, rfl⟩⟩ := dealShares_mem hb
    · obtain ⟨k, -, rfl⟩ := List.mem_map.1 hk
      exact propShare_le _ hlt
    · exact hopen
  · rw [sinkShares_of_whole (by omega) hle] at hb
    obtain ⟨k, -, rfl⟩ := List.mem_map.1 hb
    exact Nat.le_refl _

theorem sinkShares_stations (x : Nat) (ks : List SinkShare) :
    (sinkShares x ks).map (fun k => (k.station, k.capacity)) = ks.map (fun k => (k.station, k.capacity)) := by
  by_cases hnone : x = 0 ∨ totalSink ks = 0
  · rw [sinkShares_of_none hnone, List.map_map]
    rfl
  rcases Nat.lt_or_ge x (totalSink ks) with hlt | hle
  · rw [sinkShares_of_part (by omega) hlt, dealShares_stations, List.map_map]
    rfl
  · rw [sinkShares_of_whole (by omega) hle, List.map_map]
    rfl

/-- R59: with every capacity above 0 the leftover is dealt to the first stations, 1 A each. -/
theorem sinkShares_dealt (hx : 0 < x) (h : x < totalSink ks) (hpos : ∀ k ∈ ks, 0 < k.capacity) :
    sinkShares x ks = ks.zipIdx.map (fun p => { p.1 with share := x * p.1.capacity / totalSink ks +
      if p.2 < x - (ks.map (fun k => x * k.capacity / totalSink ks)).sum then 1 else 0 }) := by
  have hopen : ∀ k ∈ ks.map (fun k => { k with share := x * k.capacity / totalSink ks }), k.share < k.capacity := by
    intro b hb
    obtain ⟨k, hk, rfl⟩ := List.mem_map.1 hb
    exact propShare_lt (hpos k hk) h
  have hdeal := dealShares_eq (left := x - (ks.map (fun k => x * k.capacity / totalSink ks)).sum) hopen 0
  rw [Nat.sub_zero] at hdeal
  rw [sinkShares_of_part hx h, hdeal, List.zipIdx_map, List.map_map]
  rfl

end

/-! The placing of a share (R61). -/

/-- What the sink duty of the channels reads: the settings, the operating state, the hot state, and of each channel its state,
cap and duty. -/
structure SinkSame (s t : State) : Prop where
  settings : t.settings = s.settings
  op : t.osm.op = s.osm.op
  hot : t.ae.hot = s.ae.hot
  chan : ∀ d, (t.chan d).state = (s.chan d).state ∧ (t.chan d).cap = (s.chan d).cap ∧ (t.chan d).duty = (s.chan d).duty

section
variable {s t u : State}

theorem SinkSame.refl (s : State) : SinkSame s s := ⟨rfl, rfl, rfl, fun _ => ⟨rfl, rfl, rfl⟩⟩

theorem SinkSame.trans (h : SinkSame s t) (k : SinkSame t u) : SinkSame s u := by
  refine ⟨k.settings.trans h.settings, k.op.trans h.op, k.hot.trans h.hot, fun d => ?_⟩
  obtain ⟨hstate, hcap, hduty⟩ := h.chan d
  obtain ⟨kstate, kcap, kduty⟩ := k.chan d
  exact ⟨kstate.trans hstate, kcap.trans hcap, kduty.trans hduty⟩

theorem SinkSame.record (h : SinkSame s t) (c : Fin 4) : t.record c = s.record c := by
  unfold State.record
  rw [h.settings]

theorem SinkSame.isSink (h : SinkSame s t) (c : Fin 4) : t.isSink c = s.isSink c := by
  unfold State.isSink
  rw [h.record, h.op, (h.chan c).1]

theorem SinkSame.sinkCap (h : SinkSame s t) (c : Fin 4) : t.sinkCap c = s.sinkCap c := by
  unfold State.sinkCap
  rw [h.hot, (h.chan c).2.1]

theorem SinkSame.capacity (h : SinkSame s t) (c : Fin 4) : t.channelCapacity c = s.channelCapacity c := by
  unfold State.channelCapacity
  rw [h.isSink, h.sinkCap, h.record, (h.chan c).2.2]

theorem SinkSame.dutyFor (h : SinkSame s t) (c : Fin 4) (p : Nat) : t.sinkDutyFor c p = s.sinkDutyFor c p := by
  unfold State.sinkDutyFor
  rw [h.record, h.sinkCap, (h.chan c).2.2]

theorem SinkSame.byPriority (h : SinkSame s t) : t.byPriority = s.byPriority := by
  have hbefore : t.before = s.before := by
    funext a b
    unfold State.before
    rw [h.record, h.record]
  unfold State.byPriority State.present
  rw [hbefore]
  congr 2
  funext c
  rw [h.record]

theorem State.placeOn_chan (s : State) (c d : Fin 4) (p : Nat) : (s.placeOn c p).chan d =
    if c = d then { s.chan c with
      placed := if s.isSink c then p else 0
      sinkDuty := if s.isSink c then s.sinkDutyFor c p else 0 } else s.chan d := by
  unfold State.placeOn
  split <;> exact State.chan_setChan _ _ _ _

theorem SinkSame.placeOn (s : State) (c : Fin 4) (p : Nat) : SinkSame s (s.placeOn c p) := by
  refine ⟨?_, ?_, ?_, fun d => ?_⟩
  · unfold State.placeOn
    split <;> rfl
  · unfold State.placeOn
    split <;> rfl
  · unfold State.placeOn
    split <;> rfl
  · rw [State.placeOn_chan]
    split
    next e => subst e; exact ⟨rfl, rfl, rfl⟩
    next => exact ⟨rfl, rfl, rfl⟩

theorem channelCapacity_of_not_sink {c : Fin 4} (h : s.isSink c = false) : s.channelCapacity c = 0 := by
  rw [State.channelCapacity, h]
  rfl

/-- R61: what a share spread in an order leaves of each channel and unplaced. -/
theorem State.spread_placed (l : List (Fin 4)) (hl : l.Nodup) : ∀ (s : State) (left : Nat),
    SinkSame s (State.spread State.channelCapacity s left l).1 ∧
    (∀ d, d ∉ l → (State.spread State.channelCapacity s left l).1.chan d = s.chan d) ∧
    (State.spread State.channelCapacity s left l).2 =
      left - (l.map (fun d => ((State.spread State.channelCapacity s left l).1.chan d).placed)).sum ∧
    ∀ l1 c l2, l = l1 ++ c :: l2 →
      let p := if s.isSink c then min (left - (l1.map (fun d =>
        ((State.spread State.channelCapacity s left l).1.chan d).placed)).sum) (s.channelCapacity c) else 0
      ((State.spread State.channelCapacity s left l).1.chan c).placed = p ∧
      ((State.spread State.channelCapacity s left l).1.chan c).sinkDuty = if s.isSink c then s.sinkDutyFor c p else 0 := by
  induction l with
  | nil => exact fun s left => ⟨.refl s, fun _ _ => rfl, rfl, fun l1 c l2 e => by simp at e⟩
  | cons c l ih =>
    intro s left
    obtain ⟨hc, hl⟩ := List.nodup_cons.1 hl
    have hplace := SinkSame.placeOn s c (min left (s.channelCapacity c))
    obtain ⟨hsame, hother, hleft, heach⟩ := ih hl (s.placeOn c (min left (s.channelCapacity c)))
      (left - min left (s.channelCapacity c))
    have hchan := hother c hc
    rw [State.placeOn_chan, if_pos rfl] at hchan
    have hput : (if s.isSink c then min left (s.channelCapacity c) else 0) = min left (s.channelCapacity c) := by
      cases hs : s.isSink c with
      | true => rfl
      | false => rw [channelCapacity_of_not_sink hs]; simp
    rw [hput] at hchan
    rw [State.spread]
    generalize State.spread State.channelCapacity (s.placeOn c (min left (s.channelCapacity c)))
      (left - min left (s.channelCapacity c)) l = r at hsame hother hleft heach hchan ⊢
    have hplaced : (r.1.chan c).placed = min left (s.channelCapacity c) := by rw [hchan]
    refine ⟨hplace.trans hsame, fun d hd => ?_, ?_, fun l1 e l2 hsplit => ?_⟩
    · rw [hother d fun hd' => hd (List.mem_cons_of_mem _ hd'), State.placeOn_chan,
        if_neg fun e => hd (by rw [e]; exact List.mem_cons_self)]
    · rw [hleft, List.map_cons, List.sum_cons, hplaced, Nat.sub_sub]
    · cases l1 with
      | nil =>
        obtain ⟨rfl, rfl⟩ := List.cons.inj hsplit
        rw [hchan, List.map_nil, List.sum_nil, Nat.sub_zero, hput]
        exact ⟨rfl, rfl⟩
      | cons a l1 =>
        obtain ⟨rfl, rfl⟩ := List.cons.inj hsplit
        have h := heach l1 e l2 rfl
        simp only [hplace.isSink, hplace.capacity, hplace.dutyFor] at h
        rw [List.map_cons, List.sum_cons, hplaced, ← Nat.sub_sub]
        exact h

theorem State.byPriority_nodup (s : State) : s.byPriority.Nodup :=
  (orderChannels_perm _ _).nodup_iff.mpr (channelNumbers_nodup.filter _)

/-- R61, R62: a share as a state holds it placed on the channels and the battery. -/
def State.SharePlaced (s : State) : Prop :=
  (∀ l c m, s.byPriority = l ++ c :: m →
    let p := if s.isSink c then min (s.ae.share - (l.map (fun d => (s.chan d).placed)).sum) (s.channelCapacity c) else 0
    (s.chan c).placed = p ∧ (s.chan c).sinkDuty = if s.isSink c then s.sinkDutyFor c p else 0) ∧
  s.lcm.batteryPart = min (s.ae.share - (s.byPriority.map (fun d => (s.chan d).placed)).sum) s.batteryCapacity

theorem State.batteryCapacity_withPart (s : State) (n : Nat) :
    (s.withLcm { s.lcm with batteryPart := n }).batteryCapacity = s.batteryCapacity := rfl

theorem State.placeShare_placed (s : State) : s.placeShare.SharePlaced := by
  obtain ⟨hsame, -, hleft, heach⟩ := State.spread_placed s.byPriority s.byPriority_nodup s s.ae.share
  have hae : (State.spread State.channelCapacity s s.ae.share s.byPriority).1.ae = s.ae := by
    obtain ⟨l, a, r, e⟩ := LoadOnly.spread State.channelCapacity s.byPriority s s.ae.share
    rw [e]
    rfl
  unfold State.placeShare
  dsimp only
  generalize State.spread State.channelCapacity s s.ae.share s.byPriority = r at hsame hleft heach hae ⊢
  have hend : SinkSame r.1 (r.1.withLcm { r.1.lcm with batteryPart := min r.2 r.1.batteryCapacity }) :=
    ⟨rfl, rfl, rfl, fun _ => ⟨rfl, rfl, rfl⟩⟩
  have hto := hsame.trans hend
  constructor
  · intro l c m hsplit
    rw [hto.byPriority] at hsplit
    have h := heach l c m hsplit
    simp only [hto.isSink, hto.capacity, hto.dutyFor]
    rw [← hae] at h
    exact h
  · rw [hto.byPriority, State.batteryCapacity_withPart]
    rw [← hae] at hleft
    exact congrArg (min · r.1.batteryCapacity) hleft

end

end

end Sys2Proof.Machine

/-! The allotment engine over the reaction's closing part, and the placing of the own share as a computation ends (R61, R62). -/

namespace Sys2Proof.Machine

section
variable {s t x : State}

/-- What of the allotment engine the closing part of a reaction leaves. -/
def Allotment.closing (a : Allotment) : Allotment :=
  { a with snapshot := emptySnapshot, computing := none, waiting := none, sinkOffered := 0, setpoint := 0, shares := [] }

theorem Allotment.barred_of_closing {a b : Allotment} (h : a.closing = b.closing) : a.barred = b.barred := by
  have e : a.closing.barred = b.closing.barred := by rw [h]
  exact e

theorem State.startWaiting_ae (s : State) : s.startWaiting.ae.closing = s.ae.closing ∧ s.startWaiting.ae.shares = s.ae.shares := by
  unfold State.startWaiting
  split <;> exact ⟨rfl, rfl⟩

theorem State.settleEvents_ae (cue : Cue) (s0 s : State) :
    (State.settleEvents cue s0 s).ae.closing = s.ae.closing ∧ (State.settleEvents cue s0 s).ae.shares = s.ae.shares := by
  have hevent : (s.allotmentEvent .unscheduled).ae.closing = s.ae.closing ∧
      (s.allotmentEvent .unscheduled).ae.shares = s.ae.shares :=
    State.startWaiting_ae (s.withAe { s.ae with waiting := some (joinKind s.ae.waiting .unscheduled) })
  unfold State.settleEvents
  split
  · obtain ⟨h1, h2⟩ := (s.allotmentEvent .unscheduled).startWaiting_ae
    exact ⟨h1.trans hevent.1, h2.trans hevent.2⟩
  · exact s.startWaiting_ae

theorem State.compose_ae (s : State) : s.compose.ae = s.ae := by
  unfold State.compose
  split
  · rfl
  · split
    · rfl
    · unfold State.composeBeacon State.fillOwn
      split <;> rfl

theorem State.followPoles_ae (s : State) : s.followPoles.ae = s.ae := by
  unfold State.followPoles
  dsimp only
  split
  · split <;> rfl
  · rfl

theorem State.fillAtEntry_ae (s0 s : State) : (State.fillAtEntry s0 s).ae = s.ae := by
  unfold State.fillAtEntry State.fillOwn
  split
  · split <;> rfl
  · rfl

theorem State.composeIf_ae (cue : Cue) (s : State) : (State.composeIf cue s).ae = s.ae := by
  unfold State.composeIf
  split
  · exact s.compose_ae
  · rfl

theorem State.settleDormancy_ae (s : State) : s.settleDormancy.ae = s.ae := by
  unfold State.settleDormancy
  split <;> rfl

theorem State.settleOutputs_ae (s : State) : s.settleOutputs.ae.closing = s.ae.closing ∧
    s.settleOutputs.ae.shares = s.ae.shares.map s.followPoles.standingShare := by
  have h := State.settleDormancy_ae s.followPoles.settleSetpoint.settleShares
  have hf := s.followPoles_ae
  constructor
  · calc s.settleOutputs.ae.closing
      _ = s.followPoles.settleSetpoint.settleShares.ae.closing := congrArg Allotment.closing h
      _ = s.followPoles.ae.closing := rfl
      _ = s.ae.closing := congrArg Allotment.closing hf
  · calc s.settleOutputs.ae.shares
      _ = s.followPoles.ae.shares.map s.followPoles.standingShare := congrArg Allotment.shares h
      _ = s.ae.shares.map s.followPoles.standingShare := by rw [hf]

theorem State.closing_ae (cue : Cue) (s0 s : State) :
    (State.react cue s0 s).ae.closing = (State.settleBlocks cue s0 s).settleMove.ae.closing := by
  unfold State.react
  rw [(State.settleOutputs_ae _).1, (State.settleEvents_ae _ _ _).1, State.composeIf_ae, State.fillAtEntry_ae]

theorem Carried.sourceRead (h : Carried s t) (hp : s.PolePlaced) (hw : t.pwu.source = s.pwu.source) :
    t.sourceRead = s.sourceRead := by
  unfold State.sourceRead
  rw [h.role, h.settings]
  split
  · exact hw
  · next hr =>
    have hn : s.isOwn s.settings.poleStation = false := by
      by_contra hn
      exact hr (hp (by simpa using hn))
    unfold sourceOf
    rw [polePartOf_carried (h.peers _ hn)]

/-- What follows a pass over the blocks leaves the channels and their currents. -/
theorem Closed.sinkSame (h : Closed s t) (hc : Carried s t) : SinkSame s t where
  settings := hc.settings
  op := h.op
  hot := by
    have e : t.ae.carried.hot = s.ae.carried.hot := by rw [hc.ae]
    exact e
  chan d := by rw [State.chan, h.lcm]; exact ⟨rfl, rfl, rfl⟩

theorem Closed.batteryCapacity (h : Closed s t) (hc : Carried s t) (hb : t.ae.barred = s.ae.barred) (hp : s.PolePlaced) :
    t.batteryCapacity = s.batteryCapacity := by
  have hsame := h.sinkSame hc
  have hchan : ∀ d, t.chan d = s.chan d := fun d => by rw [State.chan, h.lcm]; rfl
  have hconverter : t.converter = s.converter := by
    unfold State.converter
    congr 1
    funext d
    rw [hsame.record]
  have hload : t.load = s.load := by
    unfold State.load
    congr 2
    funext d
    rw [hsame.record, hchan]
  unfold State.batteryCapacity
  rw [hc.role, hc.sourceRead hp (congrArg PoleUnit.source h.pwu), h.ia, hb, hconverter]
  refine if_congr Iff.rfl ?_ rfl
  split
  · next d _ =>
    unfold State.current State.runs State.ownAccept State.ain
    rw [hchan, hsame.record, hload, h.draw, hc.su]
  · unfold State.ownAccept State.ain
    rw [hc.su]

/-- A placed share stays placed over the closing part of a reaction; where no share may stand it is 0. -/
theorem SharePlaced.closed (hs : s.SharePlaced) (h : Closed s t) (hc : Carried s t) (hb : t.ae.barred = s.ae.barred)
    (hp : s.ae.share ≠ 0 → s.PolePlaced) : t.SharePlaced := by
  have hsame := h.sinkSame hc
  have hchan : ∀ d, t.chan d = s.chan d := fun d => by rw [State.chan, h.lcm]; rfl
  obtain ⟨heach, hbattery⟩ := hs
  constructor
  · intro l c m hsplit
    rw [hsame.byPriority] at hsplit
    simp only [hchan, hsame.isSink, hsame.capacity, hsame.dutyFor, h.share]
    exact heach l c m hsplit
  · have hpart : t.lcm.batteryPart = s.lcm.batteryPart := by rw [h.lcm]
    simp only [hpart, hbattery, hsame.byPriority, hchan, h.share]
    by_cases h0 : s.ae.share = 0
    · simp [h0]
    · rw [h.batteryCapacity hc hb (hp h0)]

theorem State.judgeSinkShort_only (s : State) : s.judgeSinkShort = s.withAu s.judgeSinkShort.au := by
  unfold State.judgeSinkShort
  split
  · split
    · obtain ⟨a, h, -⟩ := s.onset_only .sinkShort 0
      rw [h]
      rfl
    · obtain ⟨a, h, -⟩ := s.clearCond_only .sinkShort 0
      rw [h]
      rfl
  · rfl

/-- What the end of a computation makes of the allotment engine. -/
def State.computedAe (s : State) (k : CompKind) : Allotment :=
  { ((s.computeDraw k).computeRegen k).computeShares.ae with computing := none }

/-- The end of a computation touches the allotment engine and the condition SINK_SHORT alone. -/
theorem State.endComputation_eq (s : State) (k : CompKind) : s.endComputation k =
    (s.withAe (s.computedAe k)).withAu ((s.computeDraw k).computeRegen k).judgeSinkShort.au := by
  unfold State.endComputation
  rw [State.judgeSinkShort_only]
  rfl

theorem State.forced_of_not_draws (h : s.osm.op.draws = false) : s.forced = true := by
  simp [State.forced, h]

/-- As a computation ends with the operating state kept, the own share stands placed. -/
theorem exec_computationEnd_placed {k : CompKind} (h : s.ae.computing = some k) (hp : s.PlacedOk)
    (ht : exec .allotmentComputationEnd s = .next t) (hop : t.osm.op = s.osm.op) : t.SharePlaced := by
  have hreact : t = State.react { noCue with place := true, compose := k == .periodic } s (s.endComputation k) := by
    have e : exec .allotmentComputationEnd s = execAllotmentComputationEnd s := rfl
    rw [e, execAllotmentComputationEnd, h] at ht
    exact (Host.Outcome.next.inj ht).symm
  have hu := s.endComputation_eq k
  generalize ((s.computeDraw k).computeRegen k).judgeSinkShort.au = a at hu
  generalize s.endComputation k = u at hu hreact
  have hsame : (State.react { noCue with place := true, compose := k == .periodic } s u).osm.op = u.osm.op := by
    rw [← hreact, hop, hu]
    rfl
  have hclosed := Closed.react_same _ _ _ hsame
  have hcarried := State.closing_carried { noCue with place := true, compose := k == .periodic } s u
  have hae := State.closing_ae { noCue with place := true, compose := k == .periodic } s u
  have hmove : (State.settleBlocks { noCue with place := true, compose := k == .periodic } s u).settleMove =
      State.settleBlocks { noCue with place := true, compose := k == .periodic } s u := by
    obtain ⟨-, hm⟩ | ⟨hne, hm⟩ :=
      (State.settleBlocks { noCue with place := true, compose := k == .periodic } s u).settleMove_cases
    · exact hm
    · have hop' := (Closed.react { noCue with place := true, compose := k == .periodic } s u).op
      rw [hm, (Kept.settleBlocks noCue _ _).osm, hclosed.op] at hop'
      exact absurd hop'.symm hne
  rw [hmove] at hcarried hae
  rw [hreact]
  refine SharePlaced.closed ?_ hclosed hcarried ?_ fun hshare => ?_
  · exact State.placeShare_placed _
  · exact Allotment.barred_of_closing hae
  · have hkept := Kept.settleBlocks { noCue with place := true, compose := k == .periodic } s u
    have hdraws : s.osm.op.draws = true := by
      by_contra hno
      refine hshare (Pass.zero (State.forced_of_not_draws ?_)).2.2
      rw [hkept.osm, hu]
      exact eq_false_of_ne_true hno
    have hplaced : s.PolePlaced := by
      refine State.polePlaced_of (State.placedOk_iff.mp hp ?_)
      generalize s.osm.op = o at hdraws
      cases o with
      | active => rfl
      | parked => rfl
      | _ => cases hdraws
    intro ho
    unfold State.isOwn at ho
    rw [hkept.settings, hkept.osm, hu] at ho
    rw [hkept.osm, hu]
    exact hplaced ho

/-- R61: the placed part and the sink duty of a channel, in terms of its record and its duties. -/
theorem SharePlaced.channel (h : s.SharePlaced) {l m : List (Fin 4)} {c : Fin 4} (hsplit : s.byPriority = l ++ c :: m) :
    (s.chan c).placed = (if s.isSink c then min (s.ae.share - (l.map (fun d => (s.chan d).placed)).sum)
      ((s.record c).rated * s.sinkCap c / 8 - (s.record c).rated * (s.chan c).duty / 8) else 0) ∧
    (s.chan c).sinkDuty = if s.isSink c then min (((s.chan c).placed * 8 + (s.record c).rated - 1) / (s.record c).rated)
      (s.sinkCap c - (s.chan c).duty) else 0 := by
  obtain ⟨hplaced, hduty⟩ := h.1 l c m hsplit
  rw [← hplaced] at hduty
  refine ⟨?_, hduty⟩
  rw [hplaced]
  cases hs : s.isSink c with
  | true => simp [State.channelCapacity, hs, dutyCurrent]
  | false => rfl

/-- R59, R60: the excess and the shares of a computation. -/
theorem State.computeShares_excess (s : State) : s.computeShares.ae.excess =
      s.regenUsed s.ae.snapshot - (s.absorptionOf s.ae.snapshot + s.usableRegenOf s.ae.snapshot) ∧
    s.computeShares.ae.shares = sinkShares s.computeShares.ae.excess (s.sinkStations s.ae.snapshot) ∧
    (s.computesZero = false → s.computeShares.ae.share = s.ownShare s.computeShares.ae.shares) ∧
    ∀ k ∈ s.sinkStations s.ae.snapshot, 0 < k.capacity := by
  refine ⟨rfl, rfl, fun h => ?_, fun k hk => ?_⟩
  · unfold State.computeShares
    simp only [State.withAe, h]
    rfl
  · have hcap := (List.mem_filter.1 hk).2
    exact Nat.pos_of_ne_zero (by simpa using hcap)

end

/-- Settles O24: the three cases of the shares, their sum and bounds, and the placing of the own share as the last pass of the
computation's step leaves it. -/
theorem sinkSharesOfExcess : Obligations.SinkSharesOfExcess := by
  refine ⟨fun k s hk hp => ⟨_, rfl, fun hop => ?_⟩, State.computeShares_excess, fun x ks => ?_⟩
  · have hplaced := exec_computationEnd_placed hk hp rfl hop
    exact ⟨fun l c m hsplit => SharePlaced.channel hplaced hsplit, hplaced.2⟩
  · refine ⟨fun h k hk => ?_, fun ht hle k hk => ?_, fun hx hlt hpos => ⟨sinkShares_dealt hx hlt hpos, ?_, ?_⟩,
      sinkShares_sum x ks, sinkShares_le x ks, sinkShares_stations x ks⟩
    · rw [sinkShares_of_none h] at hk
      obtain ⟨k, -, rfl⟩ := List.mem_map.1 hk
      rfl
    · rw [sinkShares_of_whole ht hle] at hk
      obtain ⟨k, -, rfl⟩ := List.mem_map.1 hk
      rfl
    · exact (propShares_left (by omega)).trans_le List.countP_le_length
    · exact fun k hk => propShare_lt (hpos k hk) hlt

end Sys2Proof.Machine

/-! What a reaction makes of the currents and of SINK_SHORT where no forcing condition holds (R42, R56, R57). -/

namespace Sys2Proof.Machine

section
variable {s t u : State}

theorem State.clearShort_sinkShort (s : State) (c : Fin 4) : (s.clearShort c).inForce .sinkShort 0 = s.inForce .sinkShort 0 :=
  s.clearCond_inForce .shortCycle .sinkShort c.val 0 (by simp)

/-- The load channels raise and clear SHORT_CYCLE alone. -/
theorem Loads.sinkShort {C : ChannelRecord → Channel → Channel → Prop} (h : Loads C s t) :
    t.inForce .sinkShort 0 = s.inForce .sinkShort 0 := by
  induction h with
  | refl s => rfl
  | trans _ _ ih ih' => exact ih'.trans ih
  | chan s c ch _ => rfl
  | unit s x _ _ => rfl
  | spaced s _ => rfl
  | record s l => rfl
  | onset s c =>
    rw [State.onset_inForce]
    simp
  | clear s c => exact s.clearShort_sinkShort c

theorem Loads.ae {C : ChannelRecord → Channel → Channel → Prop} (h : Loads C s t) : t.ae = s.ae := by
  obtain ⟨l, a, r, e⟩ := h.only
  rw [e]
  rfl

/-- What one pass over the blocks makes of the currents where no forcing condition holds: the applied regen follows a fall of
the request alone. -/
structure Paid (s t : State) : Prop where
  draw : t.ae.draw = s.ae.draw
  regen : t.ae.regen = min t.ae.regenRequest s.ae.regen
  request : t.ae.regenRequest ≤ s.ae.regenRequest
  short : t.inForce .sinkShort 0 = s.inForce .sinkShort 0

theorem Paid.trans (h : Paid s t) (k : Paid t u) : Paid s u where
  draw := k.draw.trans h.draw
  regen := by
    have hreq := k.request
    rw [k.regen, h.regen]
    omega
  request := k.request.trans h.request
  short := k.short.trans h.short

theorem Paid.of_ae (h : t.ae.draw = s.ae.draw ∧ t.ae.regen = s.ae.regen ∧ t.ae.regenRequest = s.ae.regenRequest)
    (hin : s.ae.regen ≤ s.ae.regenRequest) (hshort : t.inForce .sinkShort 0 = s.inForce .sinkShort 0) : Paid s t := by
  obtain ⟨hdraw, hregen, hreq⟩ := h
  exact ⟨hdraw, by rw [hregen, hreq, Nat.min_eq_right hin], hreq.le, hshort⟩

theorem State.clampRegen_paid (os : List Inhibits) (s : State) : Paid s (s.clampRegen os) where
  draw := rfl
  regen := Nat.min_comm _ _
  request := by
    show (if _ then 0 else s.ae.regenRequest) ≤ s.ae.regenRequest
    split
    · exact Nat.zero_le _
    · exact Nat.le_refl _
  short := rfl

theorem State.passFrom_paid (cue : Cue) (os : List Inhibits) (s0 a : State) : Paid a (State.passFrom cue os s0 a) := by
  have hstart : (if a.osm.op.evaluates then a.withIa a.evaluated else a).ae = a.ae ∧
      (if a.osm.op.evaluates then a.withIa a.evaluated else a).inForce .sinkShort 0 = a.inForce .sinkShort 0 := by
    split <;> exact ⟨rfl, rfl⟩
  have heval := Loads.evaluate os a
  have hreq := Loads.refreshRequests (a.evaluate os)
  have hae : (a.evaluate os).refreshRequests.ae = a.ae := (hreq.ae.trans heval.ae).trans hstart.1
  have hshort : (a.evaluate os).refreshRequests.inForce .sinkShort 0 = a.inForce .sinkShort 0 :=
    (hreq.sinkShort.trans heval.sinkShort).trans hstart.2
  unfold State.passFrom
  generalize (a.evaluate os).refreshRequests = r at hae hshort
  have hclamp := r.clampRegen_paid os
  generalize r.clampRegen os = x at hclamp
  have hadm := Loads.admissions x cue os s0
  generalize State.admissions cue os s0 x = y at hadm
  have hrest : y.settleRestoring.rebuildClaims.ae = { y.ae with published := y.settleRestoring.rebuildClaims.ae.published } ∧
      y.settleRestoring.rebuildClaims.inForce .sinkShort 0 = y.inForce .sinkShort 0 := by
    unfold State.settleRestoring
    split <;> exact ⟨rfl, rfl⟩
  generalize y.settleRestoring.rebuildClaims = z at hrest
  have hshare := Loads.settleShare z cue
  generalize z.settleShare cue = w at hshare
  obtain ⟨hzae, hzshort⟩ := hrest
  have hwae : w.ae = { x.ae with published := z.ae.published } := by rw [hshare.ae, hzae, hadm.ae]
  refine ⟨?_, ?_, ?_, ?_⟩
  · rw [hwae, ← hae]
    exact hclamp.draw
  · rw [hwae, ← hae]
    exact hclamp.regen
  · rw [hwae, ← hae]
    exact hclamp.request
  · rw [hshare.sinkShort, hzshort, hadm.sinkShort, hclamp.short, hshort]

theorem State.settleBlocks_paid (cue : Cue) (s0 : State) (h : s.DriverSettled) (hf : s.forced = false) :
    Paid s (State.settleBlocks cue s0 s) := by
  have hsame : s.driverCut.forceZero = s := by
    rw [s.driverCut_settled h, State.forceZero, hf]
    rfl
  rw [State.settleBlocks_eq, hsame]
  exact State.passFrom_paid _ _ _ _

/-- R57: SINK_SHORT does not begin in a pass over the blocks. -/
theorem State.settleBlocks_short (cue : Cue) (s0 : State) (h : s.DriverSettled)
    (hs : s.inForce .sinkShort 0 = false ∨ s.forced = true ∧ s.osm.op.alarmsTaken = true) :
    (State.settleBlocks cue s0 s).inForce .sinkShort 0 = false := by
  rw [State.settleBlocks_eq, (State.passFrom_paid _ _ _ _).short, s.driverCut_settled h]
  unfold State.forceZero
  split
  · next hf =>
    unfold State.zeroDraw
    cases ht : s.osm.op.alarmsTaken with
    | true => exact State.clearCond_ends .sinkShort 0 ht
    | false =>
      rcases hs with hs | ⟨-, hs⟩
      · obtain ⟨a, ha, hi⟩ := State.clearCond_only
          (s.withAe { s.ae with draw := 0, regen := 0, share := 0, shareBase := 0 }) .sinkShort 0
        have hi' : a.inForce = s.au.inForce := by
          rw [hi, State.withAe_osm, ht]
          rfl
        rw [ha]
        show a.inForce.contains _ = false
        rw [hi']
        exact hs
      · rw [ht] at hs
        cases hs
  · next hf =>
    rcases hs with hs | ⟨hs, -⟩
    · exact hs
    · exact absurd hs hf

/-! The moves of the operating state that the key and the draw decide. -/

theorem State.parkAll_units (l : List (Fin 4)) (s : State) : (l.foldl State.parkChannel s).ae = s.ae ∧
    (l.foldl State.parkChannel s).bus = s.bus ∧ (l.foldl State.parkChannel s).inForce .sinkShort 0 = s.inForce .sinkShort 0 := by
  obtain ⟨x, a, r, e⟩ := LoadOnly.foldl LoadOnly.parkChannel l s
  refine ⟨by rw [e]; rfl, by rw [e]; rfl, ?_⟩
  clear e
  induction l generalizing s with
  | nil => rfl
  | cons c l ih =>
    rw [List.foldl_cons, ih]
    unfold State.parkChannel
    split
    · rw [State.clearShort_sinkShort]
      rfl
    · rfl

/-- A move by the key or the draw restarts the due time at most, and uses no sequence number. -/
theorem State.autoMove_units (s : State) : (∃ n, s.autoMove.ae = { s.ae with due := n }) ∧
    s.autoMove.bus.sequence = s.bus.sequence ∧ s.autoMove.inForce .sinkShort 0 = s.inForce .sinkShort 0 := by
  have hstay : (∃ n, s.ae = { s.ae with due := n }) ∧ s.bus.sequence = s.bus.sequence ∧
      s.inForce .sinkShort 0 = s.inForce .sinkShort 0 := ⟨⟨s.ae.due, rfl⟩, rfl, rfl⟩
  have hperiods : ∀ t : State, t.reperiodAll.ae = t.ae ∧ t.reperiodAll.bus = t.bus ∧
      t.reperiodAll.inForce .sinkShort 0 = t.inForce .sinkShort 0 := fun t => by
    obtain ⟨x, hx⟩ := t.reperiodAll_only
    rw [hx]
    exact ⟨rfl, rfl, rfl⟩
  unfold State.autoMove
  split
  · split
    · have hcount : ∀ t : State, t.resetCounter.ae = t.ae ∧ t.resetCounter.bus = t.bus ∧
          t.resetCounter.inForce .sinkShort 0 = t.inForce .sinkShort 0 := fun t => by
        obtain ⟨n, hn⟩ := t.resetCounter_shed
        rw [hn]
        exact ⟨rfl, rfl, rfl⟩
      unfold State.enterParked
      obtain ⟨h1, h2, h3⟩ := hcount (channelNumbers.foldl State.parkChannel ((s.enterOp .parked).restartDue.reperiodAll))
      obtain ⟨p1, p2, p3⟩ := State.parkAll_units channelNumbers ((s.enterOp .parked).restartDue.reperiodAll)
      obtain ⟨q1, q2, q3⟩ := hperiods ((s.enterOp .parked).restartDue)
      exact ⟨⟨0, (h1.trans p1).trans q1⟩, congrArg BusUnit.sequence ((h2.trans p2).trans q2), (h3.trans p3).trans q3⟩
    · exact hstay
  · split
    · obtain ⟨q1, q2, q3⟩ := hperiods ((s.enterOp .listening).restartDue)
      exact ⟨⟨0, q1⟩, congrArg BusUnit.sequence q2, q3⟩
    · exact hstay
  · split
    · exact hstay
    · exact ⟨⟨s.ae.due, rfl⟩, rfl, rfl⟩
  · split
    · have hclocks : ∀ t : State, t.startTracking.startFlash.readSpecial.ae = t.ae ∧
          t.startTracking.startFlash.readSpecial.bus = t.bus ∧ t.startTracking.startFlash.readSpecial.au = t.au := fun t => by
        have hfirst : ∀ v : State, v.startTracking.ae = v.ae ∧ v.startTracking.bus = v.bus ∧ v.startTracking.au = v.au :=
          fun v => by unfold State.startTracking; split <;> exact ⟨rfl, rfl, rfl⟩
        have hsecond : ∀ v : State, v.startFlash.ae = v.ae ∧ v.startFlash.bus = v.bus ∧ v.startFlash.au = v.au :=
          fun v => by unfold State.startFlash; split <;> exact ⟨rfl, rfl, rfl⟩
        have hthird : ∀ v : State, v.readSpecial.ae = v.ae ∧ v.readSpecial.bus = v.bus ∧ v.readSpecial.au = v.au :=
          fun v => by unfold State.readSpecial; split <;> exact ⟨rfl, rfl, rfl⟩
        obtain ⟨a1, a2, a3⟩ := hfirst t
        obtain ⟨b1, b2, b3⟩ := hsecond t.startTracking
        obtain ⟨c1, c2, c3⟩ := hthird t.startTracking.startFlash
        exact ⟨(c1.trans b1).trans a1, (c2.trans b2).trans a2, (c3.trans b3).trans a3⟩
      obtain ⟨q1, q2, q3⟩ := hclocks ((s.enterOp .listening).restartDue.startCarrier)
      refine ⟨⟨0, q1⟩, congrArg BusUnit.sequence q2, ?_⟩
      unfold State.inForce
      rw [State.wake, q3]
      rfl
    · exact hstay
  · exact hstay

theorem State.sourceRead_congr (hrole : t.osm.role = s.osm.role) (hset : t.settings = s.settings)
    (hsource : t.pwu.source = s.pwu.source)
    (hpart : polePartOf t.pvt s.settings.poleStation = polePartOf s.pvt s.settings.poleStation) :
    t.sourceRead = s.sourceRead := by
  unfold State.sourceRead sourceOf
  rw [hrole, hset, hsource, hpart]

/-- R42, R49: the entry to PARKED begins no forcing condition. -/
theorem State.enterParked_forced (h : s.forced = false) : s.enterParked.forced = false := by
  obtain ⟨x, hx⟩ := (s.enterOp .parked).restartDue.reperiodAll_only
  have hentry := (s.enterOp .parked).restartDue.reperiodAll_entry s.settings.poleStation
  have hload : LoadOnly ((s.enterOp .parked).restartDue.reperiodAll) s.enterParked :=
    (LoadOnly.foldl LoadOnly.parkChannel _ _).trans (LoadOnly.resetCounter _)
  have hpart : polePartOf ((s.enterOp .parked).restartDue.reperiodAll).pvt s.settings.poleStation =
      polePartOf s.pvt s.settings.poleStation := polePartOf_carried (s := s) hentry
  obtain ⟨hcuts, -, -, -, -, -, hosm, -, hpvt, hset, -, hpwu, -⟩ := hload.same
  rw [← hpvt] at hpart
  rw [hx] at hcuts hosm hset hpwu
  have hop := s.enterParked_op
  generalize s.enterParked = t at hpart hcuts hosm hset hpwu hop
  have hsource : t.sourceRead = s.sourceRead :=
    State.sourceRead_congr (by rw [hosm]; rfl) hset (congrArg PoleUnit.source hpwu) hpart
  have hcuts' : t.cc.cuts = s.cc.cuts := hcuts
  unfold State.forced at h ⊢
  rw [hsource, hcuts', hop]
  simp only [Bool.or_eq_false_iff] at h
  obtain ⟨⟨hheld, hdead⟩, -⟩ := h
  rw [hheld, hdead]
  rfl

/-- What a reaction makes of the currents and SINK_SHORT where no forcing condition holds and no key ends PARKED. -/
theorem State.react_paid (cue : Cue) (s0 : State) (h : s.DriverSettled) (hf : s.forced = false)
    (hkey : s.osm.op = .parked → s.keyOn = false) : Paid s (State.react cue s0 s) := by
  have hpass := State.settleBlocks_paid cue s0 h hf
  have hp := Pass.settleBlocks cue s0 s h
  have hclosed := Closed.react cue s0 s
  generalize State.react cue s0 s = t at hclosed
  generalize State.settleBlocks cue s0 s = x at hpass hp hclosed
  have hend : Paid s x.settleMove := by
    obtain ⟨-, hm⟩ | ⟨hne, hm⟩ := x.settleMove_cases
    · rw [hm]
      exact hpass
    · rw [hm]
      have hxforced : x.forced = false := hp.forced.trans hf
      have hdraws : x.osm.op.draws = true := by
        unfold State.forced at hxforced
        simp only [Bool.or_eq_false_iff, Bool.not_eq_false'] at hxforced
        exact hxforced.2
      have hparked : x.autoMove = x.enterParked := by
        have hop := x.autoMove_op
        cases ho : x.osm.op with
        | active =>
          unfold State.autoMove at hne ⊢
          rw [ho] at hne ⊢
          dsimp only at hne ⊢
          split at hne
          · next hk => rw [if_pos hk]
          · exact absurd ho hne
        | parked =>
          rw [ho] at hop hne
          dsimp only at hop
          rw [hp.key, hkey (hp.kept.osm ▸ ho)] at hop
          exact absurd hop hne
        | _ =>
          rw [ho] at hdraws
          cases hdraws
      have hmforced : x.autoMove.forced = false := by rw [hparked]; exact State.enterParked_forced hxforced
      have hmoved := Moved.autoMove x
      have hmdriver := hmoved.driver (Carried.autoMove x) x.autoMove_runs (hp.driver h)
      obtain ⟨-, -, hmshort⟩ := x.autoMove_units
      have hmove : Paid x x.autoMove :=
        .of_ae ⟨hmoved.draw, hmoved.regen, hmoved.regenRequest⟩ hp.within hmshort
      exact (hpass.trans hmove).trans (State.settleBlocks_paid noCue x hmdriver hmforced)
  refine ⟨hclosed.draw.trans hend.draw, ?_, hclosed.regenRequest.le.trans hend.request, ?_⟩
  · rw [hclosed.regen, hclosed.regenRequest]
    exact hend.regen
  · unfold State.inForce
    rw [hclosed.au]
    exact hend.short

/-- R57: under a forcing condition a reaction leaves SINK_SHORT ended. -/
theorem State.react_forced_short (cue : Cue) (s0 : State) (h : s.DriverSettled) (hf : s.forced = true)
    (ht : s.osm.op.alarmsTaken = true) : (State.react cue s0 s).inForce .sinkShort 0 = false := by
  have hpass := State.settleBlocks_short cue s0 h (.inr ⟨hf, ht⟩)
  have hp := Pass.settleBlocks cue s0 s h
  have hclosed := Closed.react cue s0 s
  unfold State.inForce
  rw [hclosed.au]
  generalize State.settleBlocks cue s0 s = x at hpass hp
  obtain ⟨-, hm⟩ | ⟨-, hm⟩ := x.settleMove_cases
  · rw [hm]
    exact hpass
  · rw [hm]
    have hmdriver := (Moved.autoMove x).driver (Carried.autoMove x) x.autoMove_runs (hp.driver h)
    obtain ⟨-, -, hmshort⟩ := x.autoMove_units
    exact State.settleBlocks_short noCue x hmdriver (.inl (hmshort.trans hpass))

end

end Sys2Proof.Machine

/-! The sums and the claims a computation reads from its snapshot (R12, R31, R51, R54). -/

namespace Sys2Proof.Machine

section
variable {s : State} {x : Snapshot}

theorem sum_filter_map {α : Type} (p : α → Bool) (f : α → Nat) (l : List α) :
    ((l.filter p).map f).sum = (l.map (fun a => if p a then f a else 0)).sum := by
  induction l with
  | nil => rfl
  | cons a l ih => cases hp : p a <;> simp [hp, ih]

/-! The counted claims. -/

theorem mem_countedOf {n m i : Nat} {c : Claim} {cs : List Claim} :
    (⟨n, i, c⟩ : CountedClaim) ∈ countedOf m cs ↔ n = m ∧ cs[i]? = some c ∧ c.demand ≠ 0 := by
  simp only [countedOf, List.mem_filter, List.mem_map, List.mem_zipIdx_iff_getElem?, Prod.exists, CountedClaim.mk.injEq,
    bne_iff_ne]
  constructor
  · rintro ⟨⟨d, j, hd, rfl, rfl, rfl⟩, hc⟩
    exact ⟨rfl, hd, hc⟩
  · rintro ⟨rfl, hd, hc⟩
    exact ⟨⟨c, i, hd, rfl, rfl, rfl⟩, hc⟩

theorem zipIdx_pairwise {α : Type} (l : List α) : ∀ k, (l.zipIdx k).Pairwise (fun p q => p.2 < q.2) := by
  induction l with
  | nil => intro k; simp
  | cons a l ih =>
    intro k
    rw [List.zipIdx_cons]
    refine List.Pairwise.cons (fun q hq => ?_) (ih (k + 1))
    have := List.le_snd_of_mem_zipIdx hq
    show k < q.2
    omega

theorem countedOf_pairwise (n : Nat) (cs : List Claim) :
    (countedOf n cs).Pairwise (fun c d => c.station = n ∧ d.station = n ∧ c.index < d.index) := by
  refine List.Pairwise.filter _ (List.pairwise_map.2 ((zipIdx_pairwise cs 0).imp fun h => ⟨rfl, rfl, h⟩))

theorem station_of_mem_countedOf {n : Nat} {cs : List Claim} {c : CountedClaim} (h : c ∈ countedOf n cs) : c.station = n :=
  (mem_countedOf.1 h).1

/-- R12: the claim an entry yields at an index, by its state. -/
theorem entryClaims_get (e : Entry) (i : Nat) (c : Claim) : (entryClaims e)[i]? = some c ↔
    match e.state, e.beacon with
    | .fresh, some b => b.claims[i]? = some c
    | .stale, some b => i = 0 ∧ c = ⟨0, b.draw, b.draw⟩
    | .phantom, some b => i = 0 ∧ c = ⟨0, b.draw, b.draw⟩
    | _, _ => False := by
  have hone : ∀ d : Claim, ([d][i]? = some c ↔ i = 0 ∧ c = d) := by
    intro d
    cases i with
    | zero => simp [eq_comm]
    | succ i => simp
  unfold entryClaims
  cases e.beacon with
  | none => cases e.state <;> simp
  | some b => cases e.state <;> simp [hone]

theorem mem_countedClaims (s : State) (x : Snapshot) (n i : Nat) (c : Claim) :
    (⟨n, i, c⟩ : CountedClaim) ∈ s.countedClaims x ↔ n ∈ stationNumbers ∧ c.demand ≠ 0 ∧
      if s.isOwn n then x.ownClaims[i]? = some c
      else match (entryOf x.entries n).state, (entryOf x.entries n).beacon with
        | .fresh, some b => b.claims[i]? = some c
        | .stale, some b => i = 0 ∧ c = ⟨0, b.draw, b.draw⟩
        | .phantom, some b => i = 0 ∧ c = ⟨0, b.draw, b.draw⟩
        | _, _ => False := by
  simp only [State.countedClaims, List.mem_flatMap, mem_countedOf]
  rw [← entryClaims_get]
  have hlist : (if s.isOwn n then x.ownClaims[i]? = some c else (entryClaims (entryOf x.entries n))[i]? = some c) ↔
      (if s.isOwn n then x.ownClaims else entryClaims (entryOf x.entries n))[i]? = some c := by
    split <;> exact Iff.rfl
  rw [hlist]
  constructor
  · rintro ⟨m, hm, rfl, hget, hd⟩
    exact ⟨hm, hd, hget⟩
  · rintro ⟨hn, hd, hget⟩
    exact ⟨n, hn, rfl, hget, hd⟩

theorem countedClaims_pairwise (s : State) (x : Snapshot) : (s.countedClaims x).Pairwise
    (fun c d => c.station < d.station ∨ c.station = d.station ∧ c.index < d.index) := by
  rw [State.countedClaims, List.pairwise_flatMap]
  refine ⟨fun n _ => (countedOf_pairwise n _).imp fun ⟨hc, hd, hlt⟩ => .inr ⟨hc.trans hd.symm, hlt⟩, ?_⟩
  have horder : stationNumbers.Pairwise (· < ·) := by decide
  refine horder.imp fun hlt c hc d hd => .inl ?_
  rw [station_of_mem_countedOf hc, station_of_mem_countedOf hd]
  exact hlt

/-! The absorption and the sink capacity. -/

/-- R51: what a station's draw adds to the absorption of a computation. -/
def State.drawnBy (s : State) (x : Snapshot) (traction : Option Nat) (n : Nat) : Nat :=
  if s.isOwn n = true ∨ traction = some n then 0
  else match (entryOf x.entries n).state, (entryOf x.entries n).beacon with
    | .empty, _ => 0
    | _, some b => b.draw
    | _, none => 0

theorem absorptionOf_eq (s : State) (x : Snapshot) : s.absorptionOf x =
    (stationNumbers.map (s.drawnBy x (s.tractionNumber x))).sum + (if s.osm.role = .traction then 0 else x.ownDraw) := by
  rw [State.absorptionOf, sum_filter_map]
  congr 3
  funext n
  unfold State.drawnBy State.countedEntry entryDraw
  cases s.isOwn n with
  | true => simp
  | false =>
    by_cases ht : s.tractionNumber x = some n
    · simp [ht]
    · cases (entryOf x.entries n).state <;> cases (entryOf x.entries n).beacon <;> simp [ht]

/-- R54: what a station offers the sinking of a computation. -/
def State.sunkBy (s : State) (x : Snapshot) (n : Nat) : Nat :=
  if s.isOwn n then x.sink
  else match (entryOf x.entries n).state, (entryOf x.entries n).beacon with
    | .fresh, some b => b.sink
    | _, _ => 0

theorem capacityOf_eq (s : State) (x : Snapshot) (n : Nat) : s.capacityOf x n = s.sunkBy x n := by
  unfold State.capacityOf State.sunkBy Entry.freshBeacon
  cases s.isOwn n with
  | true => rfl
  | false => cases (entryOf x.entries n).state <;> cases (entryOf x.entries n).beacon <;> rfl

theorem sinkStations_eq (s : State) (x : Snapshot) : s.sinkStations x =
    (stationNumbers.filter (fun n => s.sunkBy x n != 0)).map (fun n => ⟨n, s.sunkBy x n, 0⟩) := by
  unfold State.sinkStations
  rw [List.filter_map]
  simp only [capacityOf_eq]
  rfl

theorem totalSink_sinkStations (s : State) (x : Snapshot) :
    totalSink (s.sinkStations x) = (stationNumbers.map (s.sunkBy x)).sum := by
  rw [sinkStations_eq, totalSink, List.map_map]
  have e : (SinkShare.capacity ∘ fun n => (⟨n, s.sunkBy x n, 0⟩ : SinkShare)) = s.sunkBy x := rfl
  rw [e, sum_filter_map]
  congr 2
  funext n
  cases h : s.sunkBy x n <;> simp

/-! The rise of the currents. -/

theorem stationNumbers_all {p : Nat → Bool} : stationNumbers.all p = true ↔ ∀ n ∈ stationNumbers, p n = true := List.all_eq_true

/-- R41: the conditions on an increase. -/
theorem mayIncrease_iff (s : State) (k : CompKind) : s.mayIncrease k = true ↔ k = .periodic ∧
    (s.ae.snapshot.op = .active ∨ s.ae.snapshot.op = .parked) ∧
    (entryOf s.ae.snapshot.entries s.settings.poleStation).state = .fresh ∧
    (∀ n ∈ stationNumbers, s.isOwn n = false → (entryOf s.ae.snapshot.entries n).state = .empty ∨
      (entryOf s.ae.snapshot.entries n).state = .fresh) ∧
    s.ae.snapshot.offsetRunning = false ∧ s.cc.phase ≠ .offset := by
  have heach : ∀ n, (!(s.countedEntry s.ae.snapshot n) || (entryOf s.ae.snapshot.entries n).state == .fresh) = true ↔
      (s.isOwn n = false → (entryOf s.ae.snapshot.entries n).state = .empty ∨
        (entryOf s.ae.snapshot.entries n).state = .fresh) := by
    intro n
    unfold State.countedEntry
    cases s.isOwn n <;> simp
  unfold State.mayIncrease State.increaseAllowed
  simp only [Bool.and_eq_true, beq_iff_eq, bne_iff_ne, Bool.or_eq_true (a := (_ == OpState.active)), Bool.not_eq_true',
    stationNumbers_all, heach]
  tauto

/-- R40, R41, R55: a ramp in its three cases. -/
theorem ramp_cases (b : Bool) (k prev grant : Nat) :
    (grant < prev → ramp b k prev grant = grant) ∧
    (prev ≤ grant → b = true → ramp b k prev grant = min grant (prev + k)) ∧
    (prev ≤ grant → b ≠ true → ramp b k prev grant = prev) := by
  unfold ramp
  refine ⟨fun h => if_pos h, fun h hb => ?_, fun h hb => ?_⟩
  · rw [if_neg (by omega)]
    by_cases hlt : prev < grant
    · rw [if_pos ⟨hlt, hb⟩]
    · rw [if_neg (fun hh => hlt hh.1)]
      omega
  · rw [if_neg (by omega), if_neg (fun hh => hb hh.2)]

end

end Sys2Proof.Machine

/-! What a reaction leaves of the shares, the own share and the composed frame (R6, R20, R60, R184, R192). -/

namespace Sys2Proof.Machine

section
variable {s t u w : State}

/-! The share and the snapshot up to the closing part. -/

theorem State.settleBlocks_share (cue : Cue) (s0 s : State) : (State.settleBlocks cue s0 s).ae.share ≤ s.ae.share := by
  have hpass := (Pass.afterDriver cue s0 s).share
  have hcut := (Cutting.driverCut s).share
  split at hpass <;> omega

theorem State.react_share (cue : Cue) (s0 s : State) : (State.react cue s0 s).ae.share ≤ s.ae.share := by
  have hpass := State.settleBlocks_share cue s0 s
  rw [(Closed.react cue s0 s).share]
  generalize State.settleBlocks cue s0 s = x at hpass
  obtain ⟨-, hm⟩ | ⟨-, hm⟩ := x.settleMove_cases
  · rw [hm]
    exact hpass
  · rw [hm]
    have hnext := State.settleBlocks_share noCue x x.autoMove
    rw [(Moved.autoMove x).share] at hnext
    exact hnext.trans hpass

theorem Kept.snapshot (h : Kept s t) : t.ae.snapshot = s.ae.snapshot ∧ t.ae.shares = s.ae.shares ∧
    t.bus.sequence = s.bus.sequence := by
  have hae : t.ae.steady.snapshot = s.ae.steady.snapshot ∧ t.ae.steady.shares = s.ae.steady.shares := by
    rw [h.ae]
    exact ⟨rfl, rfl⟩
  have hbus : t.bus.steady.1.sequence = s.bus.steady.1.sequence := by rw [h.bus]
  exact ⟨hae.1, hae.2, hbus⟩

/-- The passes over the blocks keep the snapshot, the computed shares and the sequence number. -/
theorem State.settleMove_snapshot (cue : Cue) (s0 s : State) :
    (State.settleBlocks cue s0 s).settleMove.ae.snapshot = s.ae.snapshot ∧
    (State.settleBlocks cue s0 s).settleMove.ae.shares = s.ae.shares ∧
    (State.settleBlocks cue s0 s).settleMove.bus.sequence = s.bus.sequence := by
  obtain ⟨h1, h2, h3⟩ := (Kept.settleBlocks cue s0 s).snapshot
  generalize State.settleBlocks cue s0 s = x at h1 h2 h3
  obtain ⟨-, hm⟩ | ⟨-, hm⟩ := x.settleMove_cases
  · rw [hm]
    exact ⟨h1, h2, h3⟩
  · obtain ⟨k1, k2, k3⟩ := (Kept.settleBlocks noCue x x.autoMove).snapshot
    obtain ⟨⟨n, hn⟩, hseq, -⟩ := x.autoMove_units
    rw [hm]
    exact ⟨k1.trans ((congrArg Allotment.snapshot hn).trans h1), k2.trans ((congrArg Allotment.shares hn).trans h2),
      k3.trans (hseq.trans h3)⟩

/-! The closing part from the composition on. -/

/-- The state in which a reaction composes its frame. -/
def State.composing (cue : Cue) (s0 s : State) : State :=
  State.fillAtEntry s0 (State.settleBlocks cue s0 s).settleMove

theorem State.react_composing (cue : Cue) (s0 s : State) : State.react cue s0 s =
    (State.settleEvents cue s0 (State.composeIf cue (State.composing cue s0 s))).settleOutputs := rfl

theorem Closed.composing (cue : Cue) (s0 s : State) : Closed (State.composing cue s0 s) (State.react cue s0 s) :=
  ((Closed.ite (Closed.compose _) (Closed.refl _)).trans (Closed.settleEvents cue s0 _)).trans (Closed.settleOutputs _)

theorem Carried.composing (cue : Cue) (s0 s : State) : Carried (State.composing cue s0 s) (State.react cue s0 s) :=
  ((Carried.composeIf _ _).trans (Carried.settleEvents _ _ _)).trans (Carried.settleOutputs _)

/-- What the composition finds of the snapshot, the shares and the sequence number. -/
theorem State.composing_snapshot (cue : Cue) (s0 s : State) :
    (State.composing cue s0 s).ae.snapshot = s.ae.snapshot ∧ (State.composing cue s0 s).ae.shares = s.ae.shares ∧
    (State.composing cue s0 s).bus.sequence = s.bus.sequence := by
  have h := State.settleMove_snapshot cue s0 s
  have hfill : (State.composing cue s0 s).ae = (State.settleBlocks cue s0 s).settleMove.ae ∧
      (State.composing cue s0 s).bus = (State.settleBlocks cue s0 s).settleMove.bus := by
    unfold State.composing State.fillAtEntry State.fillOwn
    split
    · split <;> exact ⟨rfl, rfl⟩
    · exact ⟨rfl, rfl⟩
  rw [hfill.1, hfill.2]
  exact h

theorem State.startWaiting_bus (s : State) : s.startWaiting.bus = s.bus := by
  unfold State.startWaiting
  split <;> rfl

theorem State.settleEvents_bus (cue : Cue) (s0 s : State) : (State.settleEvents cue s0 s).bus = s.bus := by
  unfold State.settleEvents
  rw [State.startWaiting_bus]
  split
  · exact State.startWaiting_bus _
  · rfl

theorem State.settleDormancy_bus (s : State) : s.settleDormancy.bus = s.bus ∧ s.settleDormancy.pvt = s.pvt := by
  unfold State.settleDormancy
  split <;> exact ⟨rfl, rfl⟩

theorem State.followPoles_bus (s : State) : s.followPoles.bus = s.bus := by
  unfold State.followPoles
  dsimp only
  split
  · split <;> rfl
  · rfl

theorem State.settleOutputs_bus (s : State) : s.settleOutputs.bus = s.bus ∧ s.settleOutputs.pvt = s.followPoles.pvt := by
  have hout : ∀ t : State, t.refreshOutputs.bus = t.bus ∧ t.refreshOutputs.pvt = t.pvt := fun _ => ⟨rfl, rfl⟩
  have hshares : ∀ t : State, t.settleSetpoint.settleShares.bus = t.bus ∧ t.settleSetpoint.settleShares.pvt = t.pvt :=
    fun _ => ⟨rfl, rfl⟩
  have hpoles := s.followPoles_bus
  unfold State.settleOutputs
  generalize s.followPoles = f at hpoles ⊢
  obtain ⟨sbus, spvt⟩ := hshares f
  generalize f.settleSetpoint.settleShares = g at sbus spvt ⊢
  obtain ⟨dbus, dpvt⟩ := g.settleDormancy_bus
  generalize g.settleDormancy = d at dbus dpvt ⊢
  obtain ⟨obus, opvt⟩ := hout d
  exact ⟨((obus.trans dbus).trans sbus).trans hpoles, (opvt.trans dpvt).trans spvt⟩

theorem State.react_closingBus (cue : Cue) (s0 s : State) :
    (State.react cue s0 s).bus = (State.composeIf cue (State.composing cue s0 s)).bus := by
  rw [State.react_composing, (State.settleOutputs_bus _).1, State.settleEvents_bus]

/-- R60, R64: the shares a reaction leaves, as they stand in it. -/
theorem State.react_shares (cue : Cue) (s0 s : State) :
    (State.react cue s0 s).ae.shares = s.ae.shares.map (State.react cue s0 s).standingShare := by
  have hclosed := Closed.settleOutputs (State.settleEvents cue s0 (State.composeIf cue (State.composing cue s0 s)))
  have hpoles := Closed.followPoles (State.settleEvents cue s0 (State.composeIf cue (State.composing cue s0 s)))
  have hshares := (State.settleOutputs_ae (State.settleEvents cue s0 (State.composeIf cue (State.composing cue s0 s)))).2
  have hcarried := Carried.settleOutputs (State.settleEvents cue s0 (State.composeIf cue (State.composing cue s0 s)))
  have hpcarried := Carried.followPoles (State.settleEvents cue s0 (State.composeIf cue (State.composing cue s0 s)))
  rw [(State.settleEvents_ae _ _ _).2, State.composeIf_ae, (State.composing_snapshot cue s0 s).2.1] at hshares
  rw [← State.react_composing] at hclosed hshares hcarried
  generalize State.settleEvents cue s0 (State.composeIf cue (State.composing cue s0 s)) = y at *
  generalize State.react cue s0 s = t at hclosed hshares hcarried ⊢
  rw [hshares]
  congr 1
  funext k
  unfold State.standingShare
  rw [hpoles.op, hpoles.share, hpcarried.isOwn, hclosed.op, hclosed.share, hcarried.isOwn]

/-! The composed frame. -/

theorem State.compose_pattern (hn : w.osm.number ≠ 0) (ho : w.osm.op = .pattern) :
    w.compose.bus = { w.bus with beaconSlot := some (.pattern w.osm.number) } := by
  unfold State.compose
  rw [if_neg hn, if_pos ho]
  rfl

/-- The beacon a periodic computation composes. -/
def State.periodicBeacon (w : State) : Beacon := w.ownBeacon w.ae.snapshot.ownClaims w.ae.snapshot.sink false

theorem State.compose_beacon (hn : w.osm.number ≠ 0) (ho : w.osm.op ≠ .pattern) :
    w.compose = ((w.setEntry w.osm.number ⟨.fresh, 0, w.periodInForce, 0, noCauses, some w.periodicBeacon⟩).withBus
      { w.bus with beaconSlot := some (.beacon w.periodicBeacon), sequence := (w.bus.sequence + 1) % 256 }) := by
  unfold State.compose
  rw [if_neg hn, if_neg ho]
  unfold State.composeBeacon State.fillOwn
  dsimp only
  rw [if_neg hn]
  rfl

/-- The closing part leaves what the own pole part is read from. -/
theorem Closed.ownPart (h : Closed s t) (hc : Carried s t) : t.ownPart = s.ownPart := by
  unfold State.ownPart State.polePart State.ownDischarge State.ownAccept State.ain State.din
  rw [hc.role, hc.su, h.pwu, h.cf]

theorem Closed.ownCuts (h : Closed s t) : t.ownCuts = s.ownCuts := by
  unfold State.ownCuts
  rw [h.cc]

theorem Closed.alarmReport (h : Closed s t) (hc : Carried s t) : t.alarmReport = s.alarmReport := by
  have hown : t.ownAlarm = s.ownAlarm := by
    funext e
    unfold State.ownAlarm
    rw [hc.number]
  unfold State.alarmReport
  rw [h.au, hown]

/-- R6: an own entry that holds the own part is left as it is. -/
theorem State.followPoles_own {b : Beacon} (hb : (s.entry s.osm.number).beacon = some b) (hp : b.part = s.ownPart)
    (hlow : 1 ≤ s.osm.number) (hhigh : s.osm.number ≤ 15) :
    (s.followPoles.entry s.osm.number).beacon = some b ∧
      (s.followPoles.entry s.osm.number).state = (s.entry s.osm.number).state := by
  unfold State.followPoles
  dsimp only
  rw [hb]
  dsimp only
  split
  · next h =>
    rw [State.entry_setEntry, if_pos ⟨rfl, hlow, hhigh⟩]
    have hpart : s.ownPart = .pole s.polePart := by
      unfold State.ownPart
      rw [h.1]
    rw [hpart] at hp
    exact ⟨by rw [← hp], rfl⟩
  · exact ⟨hb, rfl⟩

/-- R6, R20: the own entry after a reaction that composes a beacon. -/
theorem State.react_composedEntry {cue : Cue} {s0 : State} (hc : cue.compose = true)
    (ho : (State.composing cue s0 s).osm.op ≠ .pattern)
    (hlow : 1 ≤ (State.composing cue s0 s).osm.number) (hhigh : (State.composing cue s0 s).osm.number ≤ 15) :
    ((State.react cue s0 s).entry (State.composing cue s0 s).osm.number).beacon =
      some (State.composing cue s0 s).periodicBeacon ∧
    ((State.react cue s0 s).entry (State.composing cue s0 s).osm.number).state = .fresh := by
  have hpvt : (State.react cue s0 s).pvt =
      (State.settleEvents cue s0 (State.composeIf cue (State.composing cue s0 s))).followPoles.pvt := by
    rw [State.react_composing, (State.settleOutputs_bus _).2]
  have hif : State.composeIf cue (State.composing cue s0 s) = (State.composing cue s0 s).compose := by
    unfold State.composeIf
    rw [hc]
    rfl
  have hevents := State.settleEvents_pvt cue s0 (State.composeIf cue (State.composing cue s0 s))
  have hcarried : Carried (State.composing cue s0 s)
      (State.settleEvents cue s0 (State.composeIf cue (State.composing cue s0 s))) :=
    (Carried.composeIf _ _).trans (Carried.settleEvents _ _ _)
  have hclosed : Closed (State.composing cue s0 s)
      (State.settleEvents cue s0 (State.composeIf cue (State.composing cue s0 s))) :=
    (Closed.ite (Closed.compose _) (Closed.refl _)).trans (Closed.settleEvents _ _ _)
  rw [hif] at hpvt hevents hcarried hclosed
  generalize State.composing cue s0 s = w at *
  have hentry : w.compose.entry w.osm.number = ⟨.fresh, 0, w.periodInForce, 0, noCauses, some w.periodicBeacon⟩ := by
    rw [State.compose_beacon (by omega) ho]
    exact (State.entry_setEntry w _ _ _).trans (if_pos ⟨rfl, hlow, hhigh⟩)
  generalize State.settleEvents cue s0 w.compose = y at *
  have hown : y.entry w.osm.number = ⟨.fresh, 0, w.periodInForce, 0, noCauses, some w.periodicBeacon⟩ := by
    rw [← hentry]
    unfold State.entry
    rw [hevents]
  have hnum := hcarried.number
  rw [← hnum] at hown hlow hhigh ⊢
  have hpart : w.periodicBeacon.part = y.ownPart := (hclosed.ownPart hcarried).symm
  have hfollow := State.followPoles_own (s := y) (b := w.periodicBeacon) (by rw [hown]) hpart hlow hhigh
  unfold State.entry at hfollow ⊢
  rw [hpvt]
  refine ⟨hfollow.1, hfollow.2.trans ?_⟩
  unfold State.entry at hown
  rw [hown]

end

end Sys2Proof.Machine

/-! The end of a computation: grants, currents, shares and the released frame (R23, R36 to R42, R55 to R60). -/

namespace Sys2Proof.Machine

section
variable {s t u : State} {k : CompKind}

/-! What the computation works out. -/

theorem State.computedAe_draw (s : State) (k : CompKind) :
    (s.computedAe k).grants = allot (s.usableDraw s.ae.snapshot) (s.countedClaims s.ae.snapshot) ∧
    (s.computedAe k).grant = s.ownGrant (s.computedAe k).grants ∧
    (s.computedAe k).draw = if s.computesZero then 0
      else ramp (s.mayIncrease k) s.settings.step s.ae.draw (s.computedAe k).grant := ⟨rfl, rfl, rfl⟩

theorem State.computedAe_regen (s : State) (k : CompKind) :
    (s.computedAe k).absorption = s.absorptionOf s.ae.snapshot ∧
    (s.computedAe k).usableRegen = s.usableRegenOf s.ae.snapshot ∧
    (s.computedAe k).sinkTotal = totalSink (s.sinkStations s.ae.snapshot) ∧
    (s.computedAe k).regenGrant = (if s.osm.role = .traction then
      min s.ae.snapshot.regenRequest (s.disposable s.ae.snapshot) else 0) ∧
    (s.computedAe k).regen = if s.computesZero || s.osm.role != .traction then 0
      else ramp (s.mayIncrease k) s.settings.step s.ae.regen (s.computedAe k).regenGrant := ⟨rfl, rfl, rfl, rfl, rfl⟩

theorem State.computedAe_shares (s : State) (k : CompKind) :
    (s.computedAe k).shares = sinkShares (s.computedAe k).excess (s.sinkStations s.ae.snapshot) ∧
    (s.computedAe k).share = if s.computesZero then 0 else s.ownShare (s.computedAe k).shares := ⟨rfl, rfl⟩

/-- R57: SINK_SHORT as the computation of a traction station judges it. -/
theorem State.judgeSinkShort_inForce (hr : s.osm.role = .traction) (hz : s.computesZero = false)
    (ht : s.osm.op.alarmsTaken = true) : s.judgeSinkShort.inForce .sinkShort 0 = true ↔
      s.disposable s.ae.snapshot < s.ae.snapshot.regenRequest := by
  unfold State.judgeSinkShort
  rw [if_pos ⟨hr, by rw [hz]; rfl⟩]
  split
  · next hlt =>
    rw [State.onset_inForce, ht]
    simp [hlt]
  · next hlt =>
    rw [State.clearCond_ends .sinkShort 0 ht]
    simp [hlt]

/-! What the step leaves of it. -/

/-- What a reaction carries of the results of a computation. -/
theorem Carried.computed (h : Carried s t) : t.ae.grants = s.ae.grants ∧ t.ae.grant = s.ae.grant ∧
    t.ae.absorption = s.ae.absorption ∧ t.ae.usableRegen = s.ae.usableRegen ∧ t.ae.sinkTotal = s.ae.sinkTotal ∧
    t.ae.regenGrant = s.ae.regenGrant ∧ t.ae.excess = s.ae.excess := by
  have e : ∀ a b : Allotment, a.carried = b.carried → a.grants = b.grants ∧ a.grant = b.grant ∧
      a.absorption = b.absorption ∧ a.usableRegen = b.usableRegen ∧ a.sinkTotal = b.sinkTotal ∧
      a.regenGrant = b.regenGrant ∧ a.excess = b.excess := by
    intro a b hab
    have hread : ∀ x : Allotment, (x.grants, x.grant, x.absorption, x.usableRegen, x.sinkTotal, x.regenGrant, x.excess) =
        (x.carried.grants, x.carried.grant, x.carried.absorption, x.carried.usableRegen, x.carried.sinkTotal,
          x.carried.regenGrant, x.carried.excess) := fun _ => rfl
    have hsame := (hread a).trans ((by rw [hab]) : _ = _) |>.trans (hread b).symm
    simpa only [Prod.mk.injEq] using hsame
  exact e _ _ h.ae

/-- What of the bus interface a reaction carries: the last result and the duplicate flag. -/
theorem Carried.answers (h : Carried s t) : t.bus.lastResult = s.bus.lastResult ∧ t.bus.duplicate = s.bus.duplicate := by
  have elast : t.bus.carried.1.lastResult = s.bus.carried.1.lastResult := by rw [h.bus]
  have edup : t.bus.carried.1.duplicate = s.bus.carried.1.duplicate := by rw [h.bus]
  exact ⟨elast, edup⟩

/-- The reaction's cue at the end of a computation. -/
def endCue (k : CompKind) : Cue := { noCue with place := true, compose := k == .periodic }

/-- What ALLOTMENT_COMPUTATION_END leaves. -/
def State.computationEnded (s : State) (k : CompKind) : State := State.react (endCue k) s (s.endComputation k)

theorem exec_computationEnd (h : s.ae.computing = some k) :
    exec .allotmentComputationEnd s = .next (s.computationEnded k) := by
  have e : exec .allotmentComputationEnd s = execAllotmentComputationEnd s := rfl
  rw [e, execAllotmentComputationEnd, h]
  rfl

theorem State.endComputation_ae (s : State) (k : CompKind) : (s.endComputation k).ae = s.computedAe k := by
  rw [s.endComputation_eq]
  rfl

theorem State.endComputation_units (s : State) (k : CompKind) :
    (s.endComputation k).osm = s.osm ∧ (s.endComputation k).settings = s.settings ∧ (s.endComputation k).bus = s.bus ∧
    (s.endComputation k).forced = s.forced ∧ (s.endComputation k).keyOn = s.keyOn ∧
    ((s.endComputation k).DriverSettled ↔ s.DriverSettled) := by
  rw [s.endComputation_eq]
  exact ⟨rfl, rfl, rfl, rfl, rfl, Iff.rfl⟩

theorem State.endComputation_short (s : State) (k : CompKind) : (s.endComputation k).inForce .sinkShort 0 =
    ((s.computeDraw k).computeRegen k).judgeSinkShort.inForce .sinkShort 0 := by
  rw [s.endComputation_eq]
  rfl

theorem State.ended_ae (s : State) (k : CompKind) :
    (s.computationEnded k).ae.grants = (s.computedAe k).grants ∧ (s.computationEnded k).ae.grant = (s.computedAe k).grant ∧
    (s.computationEnded k).ae.absorption = (s.computedAe k).absorption ∧
    (s.computationEnded k).ae.usableRegen = (s.computedAe k).usableRegen ∧
    (s.computationEnded k).ae.sinkTotal = (s.computedAe k).sinkTotal ∧
    (s.computationEnded k).ae.regenGrant = (s.computedAe k).regenGrant ∧
    (s.computationEnded k).ae.excess = (s.computedAe k).excess := by
  rw [← s.endComputation_ae k]
  exact (Carried.react (endCue k) s (s.endComputation k)).computed

theorem State.ended_zero (h : s.computesZero = true) : (s.computationEnded k).ae.draw = 0 := by
  have hle := ((Changes.react (E := [.moves, .admits]) (s.endComputation k) (by simp) (by simp) (endCue k) s).currents
    (by simp)).1
  rw [s.endComputation_ae, (s.computedAe_draw k).2.2, h] at hle
  exact Nat.le_zero.mp hle

/-- R41, R55: what a computation makes of the currents where no forcing condition holds. -/
theorem State.ended_paid (hz : s.computesZero = false) (hd : s.DriverSettled) (hkey : s.osm.op = .parked → s.keyOn = false) :
    Paid (s.endComputation k) (s.computationEnded k) := by
  obtain ⟨hosm, -, -, hforced, hkeyOn, hdriver⟩ := s.endComputation_units k
  unfold State.computesZero at hz
  rw [Bool.or_eq_false_iff] at hz
  refine State.react_paid (endCue k) s (hdriver.mpr hd) (hforced.trans hz.1) fun ho => ?_
  rw [hosm] at ho
  rw [hkeyOn]
  exact hkey ho

theorem alarmsTaken_of_draws {o : OpState} (h : o.draws = true) : o.alarmsTaken = true := by
  cases o with
  | active => rfl
  | parked => rfl
  | _ => cases h

/-- The own share after a computation is no more than it worked out. -/
theorem State.ended_share (s : State) (k : CompKind) :
    (s.computationEnded k).ae.share ≤ s.ownShare (sinkShares (s.computationEnded k).ae.excess (s.sinkStations s.ae.snapshot)) := by
  have hle := State.react_share (endCue k) s (s.endComputation k)
  obtain ⟨hshares, hshare⟩ := s.computedAe_shares k
  obtain ⟨-, -, -, -, -, -, hexcess⟩ := s.ended_ae k
  rw [s.endComputation_ae, hshare, hshares] at hle
  rw [hexcess]
  refine hle.trans ?_
  split
  · exact Nat.zero_le _
  · exact Nat.le_refl _

/-- R60, R64: the shares as they stand after a computation. -/
theorem State.ended_shares (s : State) (k : CompKind) : (s.computationEnded k).ae.shares =
    (sinkShares (s.computationEnded k).ae.excess (s.sinkStations s.ae.snapshot)).map (fun h => { h with
      share := if (s.computationEnded k).osm.op = .active ∨ (s.computationEnded k).osm.op = .parked then
        (if s.isOwn h.station then (s.computationEnded k).ae.share else h.share) else 0 }) := by
  have hreact := State.react_shares (endCue k) s (s.endComputation k)
  have hown := (Carried.react (endCue k) s (s.endComputation k)).isOwn
  obtain ⟨hshares, -⟩ := s.computedAe_shares k
  obtain ⟨-, -, -, -, -, -, hexcess⟩ := s.ended_ae k
  rw [s.endComputation_ae, hshares, ← hexcess] at hreact
  refine hreact.trans (List.map_congr_left fun h _ => ?_)
  have hnum : (s.endComputation k).isOwn h.station = s.isOwn h.station := by
    unfold State.isOwn
    rw [(s.endComputation_units k).1]
  have hstand : ∀ r : State, r.standingShare h = { h with
      share := if r.osm.op = .active ∨ r.osm.op = .parked then (if r.isOwn h.station then r.ae.share else h.share) else 0 } := by
    intro r
    unfold State.standingShare
    cases r.osm.op <;> rfl
  rw [hstand, hown, hnum]
  rfl

end

section
variable {s : State} {k : CompKind}

/-- R192: in PATTERN a periodic computation releases the PATTERN frame. -/
theorem State.ended_pattern (hk : k = .periodic) (hn : s.osm.number ≠ 0) (ho : (s.computationEnded k).osm.op = .pattern) :
    (s.computationEnded k).bus.beaconSlot = some (.pattern s.osm.number) ∧
      (s.computationEnded k).bus.sequence = s.bus.sequence := by
  have hbus : (s.computationEnded k).bus = _ := State.react_closingBus (endCue k) s (s.endComputation k)
  have hop := (Closed.composing (endCue k) s (s.endComputation k)).op
  have hseq := (State.composing_snapshot (endCue k) s (s.endComputation k)).2.2
  have hnum := (Carried.composing (endCue k) s (s.endComputation k)).number.symm.trans
    (Carried.react (endCue k) s (s.endComputation k)).number
  rw [(s.endComputation_units k).1] at hnum
  rw [(s.endComputation_units k).2.2.1] at hseq
  generalize State.composing (endCue k) s (s.endComputation k) = w at *
  have hif : State.composeIf (endCue k) w = w.compose := by rw [hk]; rfl
  rw [hif, State.compose_pattern (by rw [hnum]; exact hn) (hop.symm.trans ho), hnum] at hbus
  rw [hbus]
  exact ⟨rfl, hseq⟩

/-- R6, R20, R184: outside PATTERN a periodic computation releases the next beacon, which the own entry holds. -/
theorem State.ended_beacon (hk : k = .periodic) (hn : s.osm.number ≠ 0) (ho : (s.computationEnded k).osm.op ≠ .pattern) :
    (s.computationEnded k).bus.sequence = (s.bus.sequence + 1) % 256 ∧ ∃ b,
      (s.computationEnded k).bus.beaconSlot = some (.beacon b) ∧
      (1 ≤ s.osm.number → s.osm.number ≤ 15 → ((s.computationEnded k).entry s.osm.number).beacon = some b ∧
        ((s.computationEnded k).entry s.osm.number).state = .fresh) ∧
      b.sequence = s.bus.sequence ∧ b.op = (s.computationEnded k).osm.op.published ∧
      b.hot = (s.computationEnded k).ae.hot ∧ b.duplicate = (s.computationEnded k).bus.duplicate ∧
      b.part = (s.computationEnded k).ownPart ∧ b.period = s.settings.period ∧ b.paramSet = s.settings.paramSet ∧
      b.lastResult = s.bus.lastResult ∧ b.cuts = (s.computationEnded k).ownCuts ∧
      b.alarms = (s.computationEnded k).alarmReport ∧
      ((s.computationEnded k).osm.op ≠ .faulted → b.claims = s.ae.snapshot.ownClaims ∧
        b.draw = (s.computationEnded k).ae.draw ∧ b.regen = (s.computationEnded k).ae.regen ∧
        b.regenRequest = (s.computationEnded k).ae.regenRequest ∧ b.sink = min 1600 s.ae.snapshot.sink) ∧
      ((s.computationEnded k).osm.op = .faulted → b.claims = [] ∧ b.draw = 0 ∧ b.regen = 0 ∧ b.regenRequest = 0 ∧
        b.sink = 0) := by
  have hbus : (s.computationEnded k).bus = _ := State.react_closingBus (endCue k) s (s.endComputation k)
  have hclosed := Closed.composing (endCue k) s (s.endComputation k)
  have hcarried := Carried.composing (endCue k) s (s.endComputation k)
  have hreact := Carried.react (endCue k) s (s.endComputation k)
  obtain ⟨hsnap, -, hseq⟩ := State.composing_snapshot (endCue k) s (s.endComputation k)
  obtain ⟨uosm, uset, ubus, -, -, -⟩ := s.endComputation_units k
  have hae := s.endComputation_ae k
  have hentry := State.react_composedEntry (cue := endCue k) (s0 := s) (s := s.endComputation k) (by rw [hk]; rfl)
  have hended : State.react (endCue k) s (s.endComputation k) = s.computationEnded k := rfl
  rw [hended] at hclosed hcarried hreact hentry
  have hnum := hcarried.number.symm.trans hreact.number
  have hset := hcarried.settings.symm.trans hreact.settings
  obtain ⟨hlast, hdup⟩ := hcarried.answers
  obtain ⟨hlast', -⟩ := hreact.answers
  rw [uosm] at hnum
  rw [uset] at hset
  rw [ubus] at hseq hlast'
  rw [hae] at hsnap
  generalize State.composing (endCue k) s (s.endComputation k) = w at *
  generalize s.computationEnded k = t at *
  have hif : State.composeIf (endCue k) w = w.compose := by rw [hk]; rfl
  rw [hclosed.op] at ho
  rw [hnum] at hentry
  rw [hif, State.compose_beacon (by rw [hnum]; exact hn) ho] at hbus
  have hhot : t.ae.hot = w.ae.hot := by
    have e : t.ae.carried.hot = w.ae.carried.hot := by rw [hcarried.ae]
    exact e
  have hquiet : w.osm.op.quiet = true ↔ w.osm.op = .faulted := by
    revert ho
    generalize w.osm.op = o
    intro ho
    cases o with
    | pattern => exact absurd rfl ho
    | _ => decide
  refine ⟨by rw [hbus]; exact congrArg (fun n => (n + 1) % 256) hseq, w.periodicBeacon, by rw [hbus]; rfl,
    fun hlow hhigh => hentry ho hlow hhigh, hseq, congrArg OpState.published hclosed.op.symm, hhot.symm, hdup.symm,
    (hclosed.ownPart hcarried).symm, congrArg Settings.period hset, congrArg Settings.paramSet hset, hlast.symm.trans hlast',
    hclosed.ownCuts.symm, (hclosed.alarmReport hcarried).symm, fun hop => ?_, fun hop => ?_⟩
  · have hq : w.osm.op.quiet = false := by
      rw [← Bool.not_eq_true, hquiet, ← hclosed.op]
      exact hop
    unfold State.periodicBeacon State.ownBeacon
    simp only [hq, Bool.false_eq_true, if_false, hsnap, hclosed.draw, hclosed.regen, hclosed.regenRequest]
    exact ⟨rfl, trivial, trivial, trivial, rfl⟩
  · have hq : w.osm.op.quiet = true := by
      rw [hquiet, ← hclosed.op]
      exact hop
    unfold State.periodicBeacon State.ownBeacon
    simp [hq]

theorem draws_of_not_zero (h : s.computesZero = false) : s.osm.op.draws = true := by
  unfold State.computesZero State.forced at h
  simp only [Bool.or_eq_false_iff, Bool.not_eq_false'] at h
  exact h.1.2

/-- R57: SINK_SHORT after a computation of the traction station where no forcing condition holds. -/
theorem State.ended_short (hz : s.computesZero = false) (hd : s.DriverSettled) (hkey : s.osm.op = .parked → s.keyOn = false)
    (hr : s.osm.role = .traction) : (s.computationEnded k).inForce .sinkShort 0 = true ↔
      s.disposable s.ae.snapshot < s.ae.snapshot.regenRequest := by
  rw [(State.ended_paid (k := k) hz hd hkey).short, s.endComputation_short k]
  exact State.judgeSinkShort_inForce (s := (s.computeDraw k).computeRegen k) hr hz (alarmsTaken_of_draws (draws_of_not_zero hz))

/-- R40, R41: the applied draw after a computation where no forcing condition holds. -/
theorem State.ended_draw (hz : s.computesZero = false) (hd : s.DriverSettled) (hkey : s.osm.op = .parked → s.keyOn = false) :
    (s.computationEnded k).ae.draw =
      ramp (s.mayIncrease k) s.settings.step s.ae.draw (s.computationEnded k).ae.grant := by
  have hdraw := (s.computedAe_draw k).2.2
  rw [hz] at hdraw
  rw [(State.ended_paid (k := k) hz hd hkey).draw, s.endComputation_ae, (s.ended_ae k).2.1]
  exact hdraw

/-- R55: the applied regen of the traction station after a computation where no forcing condition holds. -/
theorem State.ended_regen (hz : s.computesZero = false) (hd : s.DriverSettled) (hkey : s.osm.op = .parked → s.keyOn = false)
    (hr : s.osm.role = .traction) : (s.computationEnded k).ae.regen = min (s.computationEnded k).ae.regenRequest
      (ramp (s.mayIncrease k) s.settings.step s.ae.regen (s.computationEnded k).ae.regenGrant) := by
  have hregen := (s.computedAe_regen k).2.2.2.2
  rw [hz, hr] at hregen
  obtain ⟨-, -, -, -, -, hgrant, -⟩ := s.ended_ae k
  rw [(State.ended_paid (k := k) hz hd hkey).regen, s.endComputation_ae, hgrant]
  exact congrArg _ hregen

theorem tractionNumber_eq (s : State) (x : Snapshot) : s.tractionNumber x =
    if s.osm.role = .traction then some s.osm.number
    else stationNumbers.find? (fun n => (entryOf x.entries n).beacon.any (fun b => b.part.role == .traction)) := by
  rw [State.tractionNumber, lowestOfRole_eq]

end

/-- Settles O45: the computation's results as the engine works them out, what the reaction leaves of each, and the frame it
composes. -/
theorem computationEnds : Obligations.ComputationEnds := by
  intro k s h entry traction drawn sunk ks
  have htraction : traction = s.tractionNumber s.ae.snapshot := (tractionNumber_eq s s.ae.snapshot).symm
  have hdrawn : drawn = s.drawnBy s.ae.snapshot (s.tractionNumber s.ae.snapshot) := by
    rw [← htraction]
    rfl
  have hsunk : sunk = s.sunkBy s.ae.snapshot := rfl
  have hks : ks = s.sinkStations s.ae.snapshot := (sinkStations_eq s s.ae.snapshot).symm
  clear_value drawn sunk ks
  obtain ⟨hgrants, hgrant, habs, husable, htotal, hregen, -⟩ := s.ended_ae k
  obtain ⟨egrants, egrant, -⟩ := s.computedAe_draw k
  obtain ⟨eabs, eusable, etotal, eregen, -⟩ := s.computedAe_regen k
  refine ⟨s.computationEnded k, exec_computationEnd h, ⟨_, hgrants.trans egrants, countedClaims_pairwise _ _,
    mem_countedClaims _ _⟩, ?_, State.ended_zero, fun rises hrises hz hd hkey => ?_, fun hf hd ht => ?_, ?_,
    husable.trans eusable, ?_, ?_, ?_, ?_, State.ended_pattern, State.ended_beacon⟩
  · rw [hgrant, egrant, ← hgrants]
    rfl
  · obtain ⟨hdown, hup, hstay⟩ := ramp_cases (s.mayIncrease k) s.settings.step s.ae.draw (s.computationEnded k).ae.grant
    have hiff := hrises.trans (mayIncrease_iff s k).symm
    rw [State.ended_draw hz hd hkey]
    refine ⟨hdown, fun hle hr => hup hle (hiff.mp hr), fun hle hr => hstay hle fun hm => hr (hiff.mpr hm), fun hrole => ?_⟩
    obtain ⟨rdown, rup, rstay⟩ := ramp_cases (s.mayIncrease k) s.settings.step s.ae.regen (s.computationEnded k).ae.regenGrant
    rw [State.ended_regen hz hd hkey hrole]
    refine ⟨fun hlt => by rw [rdown hlt], fun hle hr => by rw [rup hle (hiff.mp hr)],
      fun hle hr => by rw [rstay hle fun hm => hr (hiff.mpr hm)], fun _ => ?_⟩
    rw [State.ended_short hz hd hkey hrole, habs, husable, htotal, eabs, eusable, etotal]
    rfl
  · obtain ⟨hosm, -, -, hforced, -, hdriver⟩ := s.endComputation_units k
    exact State.react_forced_short (endCue k) s (hdriver.mpr hd) (hforced.trans hf) (by rw [hosm]; exact ht)
  · rw [habs, eabs, absorptionOf_eq, hdrawn]
  · rw [htotal, etotal, totalSink_sinkStations, hsunk]
  · rw [hregen, eregen, habs, husable, htotal, eabs, eusable, etotal]
    rfl
  · rw [hks]
    exact s.ended_shares k
  · rw [hks]
    exact s.ended_share k

end Sys2Proof.Machine

/-! The DRIVER cut at a step's reaction: its number, its entry and its frame (R116, R117, R123, R130). -/

namespace Sys2Proof.Machine

section

/-- R117: the search for a number stops at the first that is free, or where it may look no further. -/
theorem freeNumber_search (held : List Nat) : ∀ (fuel n : Nat), n < 256 → ∃ d, d ≤ fuel ∧
    freeNumber held fuel n = (n + d) % 256 ∧ (∀ j < d, (n + j) % 256 ∈ held) ∧ (d < fuel → (n + d) % 256 ∉ held) := by
  intro fuel
  induction fuel with
  | zero => exact fun n hn => ⟨0, le_rfl, (Nat.mod_eq_of_lt hn).symm, nofun, nofun⟩
  | succ fuel ih =>
    intro n hn
    by_cases hheld : n ∈ held
    · obtain ⟨d, hd, hfree, hbefore, hstop⟩ := ih ((n + 1) % 256) (Nat.mod_lt _ (by decide))
      have hshift : ∀ j, ((n + 1) % 256 + j) % 256 = (n + (j + 1)) % 256 := fun j => by omega
      refine ⟨d + 1, by omega, ?_, fun j hj => ?_, fun hlt => ?_⟩
      · rw [freeNumber, if_pos (List.contains_iff_mem.mpr hheld), hfree, hshift]
      · cases j with
        | zero => rwa [Nat.add_zero, Nat.mod_eq_of_lt hn]
        | succ j => rw [← hshift]; exact hbefore j (by omega)
      · rw [← hshift]
        exact hstop (by omega)
    · refine ⟨0, Nat.zero_le _, ?_, nofun, fun _ => by rwa [Nat.add_zero, Nat.mod_eq_of_lt hn]⟩
      rw [freeNumber, if_neg (fun h => hheld (List.contains_iff_mem.mp h)), Nat.add_zero, Nat.mod_eq_of_lt hn]

/-- R117: with 8 numbers held at most, the number found is free. -/
theorem freeNumber_free {held : List Nat} (hlen : held.length ≤ 8) {n : Nat} (hn : n < 256) : ∃ d, d ≤ 8 ∧
    freeNumber held 9 n = (n + d) % 256 ∧ (∀ j < d, (n + j) % 256 ∈ held) ∧ (n + d) % 256 ∉ held := by
  obtain ⟨d, hd, hfree, hbefore, hstop⟩ := freeNumber_search held 9 n hn
  have hlt : d < 9 := by
    by_contra hnot
    have hnodup : ((List.range 9).map (fun j => (n + j) % 256)).Nodup := by
      refine List.Nodup.map_on (fun a ha b hb hab => ?_) List.nodup_range
      rw [List.mem_range] at ha hb
      omega
    have hsub : ((List.range 9).map (fun j => (n + j) % 256)) ⊆ held := by
      intro k hk
      obtain ⟨j, hj, rfl⟩ := List.mem_map.1 hk
      rw [List.mem_range] at hj
      exact hbefore j (by omega)
    have hcount := (hnodup.subperm hsub).length_le
    rw [List.length_map, List.length_range] at hcount
    omega
  exact ⟨d, by omega, hfree, hbefore, hstop hlt⟩

end

section
variable {s u : State}

theorem State.beginHeld_bus (s : State) : s.beginHeld.bus = s.bus := by
  obtain ⟨t, ht, he⟩ := s.beginHeld_eq
  obtain ⟨l, a, r, rfl⟩ := ht.only
  obtain ⟨b, hb, -⟩ := (s.withAe { s.ae with draw := 0, regen := 0, share := 0, shareBase := 0 }).clearCond_only .sinkShort 0
  rw [he]
  unfold State.zeroDraw
  rw [hb]
  rfl

/-- A change of the cut set leaves the number counter and the transmit queue. -/
theorem State.putCuts_units (s : State) (cuts : List CutEntry) :
    (s.putCuts cuts).cc.counter = s.cc.counter ∧ (s.putCuts cuts).bus = s.bus := by
  unfold State.putCuts
  dsimp only
  split
  · rw [(State.beginHeld_units _).1, State.beginHeld_bus]
    exact ⟨rfl, rfl⟩
  · split <;> exact ⟨rfl, rfl⟩

/-- The newest urgent frame stands last. -/
theorem State.pushUrgent_last (s : State) (m : Message) : (s.pushUrgent m).bus.urgentSlots.getLast? = some m := by
  have hslots : (s.pushUrgent m).bus.urgentSlots = _ := BusUnit.putUrgent_slots s.bus m
  rw [hslots]
  exact List.getLast?_concat

/-- R116, R117, R123: an own cut originated, with the first number from the counter on that no own entry bears. -/
theorem State.originate_new {c : CutCause} (h : s.holdsCut c = false) (hi : s.CutsOk) (hr : s.cc.counter < 256) :
    ∃ d k, d ≤ 8 ∧ k = (s.cc.counter + d) % 256 ∧ (∀ e ∈ s.cc.cuts, e.own = true → e.number ≠ k) ∧
      (∀ j < d, ∃ e ∈ s.cc.cuts, e.own = true ∧ e.number = (s.cc.counter + j) % 256) ∧
      (s.originate c).cc.counter = (k + 1) % 256 ∧ (s.originate c).cc.phase = .held ∧
      (s.originate c).cc.cuts = (if s.cc.cuts.length < 8 then s.cc.cuts else dropOldestPeer s.cc.cuts) ++
        [⟨s.osm.number, c, k, true⟩] ∧
      (s.originate c).bus.urgentSlots.getLast? = some (.cut s.osm.number c k) := by
  obtain ⟨hlen, -, -, hheld, -⟩ := hi
  have hcount : s.heldNumbers.length ≤ 8 := by
    unfold State.heldNumbers
    rw [List.length_map]
    exact (List.length_filter_le _ _).trans hlen
  have hmem : ∀ k, k ∈ s.heldNumbers ↔ ∃ e ∈ s.cc.cuts, e.own = true ∧ e.number = k := fun k => by
    simp only [State.heldNumbers, List.mem_map, List.mem_filter, and_assoc]
  obtain ⟨d, hd, hfree, hbefore, hnot⟩ := freeNumber_free hcount hr
  have hroom : (if 8 ≤ s.cc.cuts.length then dropOldestPeer s.cc.cuts else s.cc.cuts) =
      if s.cc.cuts.length < 8 then s.cc.cuts else dropOldestPeer s.cc.cuts := by
    by_cases hfull : 8 ≤ s.cc.cuts.length
    · rw [if_pos hfull, if_neg (by omega)]
    · rw [if_neg hfull, if_pos (by omega)]
  refine ⟨d, (s.cc.counter + d) % 256, hd, rfl, fun e he ho hk => hnot ((hmem _).mpr ⟨e, he, ho, hk⟩),
    fun j hj => (hmem _).mp (hbefore j hj), ?_⟩
  unfold State.originate
  rw [if_neg (by rw [h]; exact Bool.false_ne_true)]
  dsimp only
  rw [hfree]
  refine ⟨?_, ?_, ?_, State.pushUrgent_last _ _⟩
  · exact (State.putCuts_units _ _).1
  · exact State.putCuts_held _ _ hheld (by simp)
  · refine (State.putCuts_cuts _ _).trans ?_
    exact congrArg (· ++ _) hroom

theorem State.releaseOwn_some {c : CutCause} {e : CutEntry} (h : s.ownCut c = some e) :
    (s.releaseOwn c).holdsCut c = false ∧ (s.releaseOwn c).cc.cuts = s.cc.cuts.filter (fun a => !(a.own && a.cause == c)) ∧
    (s.releaseOwn c).bus.urgentSlots.getLast? = some (.release s.osm.number c e.number) := by
  refine ⟨by rw [State.releaseOwn_holds]; simp, ?_, ?_⟩
  · unfold State.releaseOwn
    rw [h]
    exact State.putCuts_cuts _ _
  · unfold State.releaseOwn
    rw [h]
    exact State.pushUrgent_last _ _

/-- Past the DRIVER cut a reaction changes neither the cut set nor the number counter and hands over no urgent frame. -/
theorem State.react_afterDriver (cue : Cue) (s0 u : State) (h : u.osm.op.serves = true) :
    (State.react cue s0 u).cc.cuts = u.driverCut.cc.cuts ∧ (State.react cue s0 u).cc.counter = u.driverCut.cc.counter ∧
    (u.driverCut.cc.phase ≠ .restoring → (State.react cue s0 u).cc.phase = u.driverCut.cc.phase) ∧
    (State.react cue s0 u).bus.urgentSlots = u.driverCut.bus.urgentSlots ∧
    (u.driverCut.cc.cuts ≠ [] → (State.react cue s0 u).ae.draw = 0) := by
  have hclosed := Closed.react cue s0 u
  have hpass := Pass.afterDriver cue s0 u
  have hdriver := State.settleBlocks_driver cue s0 u h
  have hbus := State.settleBlocks_bus cue s0 u
  have hphase : ∀ {a b : State}, Pass a b → a.cc.phase ≠ .restoring → b.cc.phase = a.cc.phase := fun hp hne =>
    hp.phase.elim And.left fun hr => absurd hr.1 hne
  have hzero : u.driverCut.cc.cuts ≠ [] → (State.settleBlocks cue s0 u).ae.draw = 0 := fun hne => by
    rw [hpass.draw, if_pos]
    unfold State.forced
    cases hc : u.driverCut.cc.cuts with
    | nil => exact absurd hc hne
    | cons e es => rfl
  rw [hclosed.cc, hclosed.urgent, hclosed.draw]
  generalize State.settleBlocks cue s0 u = x at hpass hdriver hbus hzero
  obtain ⟨-, hm⟩ | ⟨-, hm⟩ := x.settleMove_cases
  · rw [hm]
    exact ⟨hpass.cuts, hpass.counter, hphase hpass, by rw [hbus], hzero⟩
  · have hmoved := Moved.autoMove x
    have hmdriver := hmoved.driver (Carried.autoMove x) x.autoMove_runs hdriver
    have hnext := Pass.settleBlocks noCue x x.autoMove hmdriver
    have hnbus := State.settleBlocks_bus noCue x x.autoMove
    rw [State.driverCut_settled _ hmdriver] at hnbus
    rw [hm]
    refine ⟨(hnext.cuts.trans hmoved.cuts).trans hpass.cuts, (hnext.counter.trans hmoved.counter).trans hpass.counter,
      fun hne => ?_, ?_, fun hne => ?_⟩
    · have hx := hphase hpass hne
      have hmx := hmoved.phase.trans hx
      exact (hphase hnext (by rw [hmx]; exact hne)).trans hmx
    · rw [hnbus, hmoved.urgent, hbus]
    · rw [hnext.draw, hmoved.draw, hzero hne, ite_self]

end

end Sys2Proof.Machine

/-! What the console makes of its inputs: the commands it generates, the acknowledge button and the special-work input (R175 to
R177). -/

namespace Sys2Proof.Machine

section
variable {s t u v : State}

/-! The commands the console generates. -/

theorem BusUnit.putCommand_slots (b : BusUnit) (m : Message) : (b.putCommand m).commandSlots =
    if b.commandSlots.length + b.driven .command < 3 then b.commandSlots ++ [m] else b.commandSlots := by
  unfold BusUnit.putCommand
  split <;> rfl

/-- What a command that the console takes leaves: the console functions, the command slots, and the operating state, which only
a pattern command moves. -/
structure Answered (s t : State) : Prop where
  cf : t.cf = s.cf
  slots : t.bus.commandSlots = s.bus.commandSlots
  awake : s.osm.op ≠ .dormant → t.osm.op ≠ .dormant

theorem State.enterPattern_units (s : State) : s.enterPattern.cf = s.cf ∧ s.enterPattern.bus.commandSlots = s.bus.commandSlots := by
  obtain ⟨l, a, r, h⟩ := (s.enterOp .pattern).clearChannels_only
  have hentered : s.patternEntered.cf = s.cf ∧ s.patternEntered.bus = s.bus := by
    unfold State.patternEntered
    rw [h]
    exact ⟨rfl, rfl⟩
  have hdef : s.enterPattern = if s.patternEntered.osm.number = 0 then s.patternEntered
      else s.patternEntered.composeBeacon (s.patternEntered.ownBeacon [] 0 true) := rfl
  rw [hdef]
  obtain ⟨hcf, hbus⟩ := hentered
  generalize s.patternEntered = p at hcf hbus
  split
  · exact ⟨hcf, by rw [hbus]⟩
  · next hn =>
    have hcompose : ∀ b, (p.composeBeacon b).cf = p.cf ∧ (p.composeBeacon b).bus.commandSlots = p.bus.commandSlots := fun b => by
      unfold State.composeBeacon State.fillOwn
      split <;> exact ⟨rfl, rfl⟩
    exact ⟨(hcompose _).1.trans hcf, (hcompose _).2.trans (by rw [hbus])⟩

theorem Answered.takeCommand (hr : s.osm.role = .console) (n : Nat) (kind : CommandKind) : Answered s (s.takeCommand n kind) := by
  have hpole : ∀ judge, Answered s (s.poleCommand n judge) := fun judge => by
    unfold State.poleCommand
    rw [if_neg (by rw [hr]; nofun)]
    exact ⟨rfl, rfl, id⟩
  cases kind with
  | raisePoles => exact hpole _
  | lowerPoles => exact hpole _
  | clearLockout p => exact hpole fun t => t.judgeClear p.toNat
  | ackAlarms rs =>
    obtain ⟨a, ha, -⟩ := s.ackAll_only rs
    have htake : s.takeCommand n (.ackAlarms rs) =
        (s.ackAll rs).1.storeResult n (if (s.ackAll rs).2 then .ignoredStale else .done) := rfl
    rw [htake, ha]
    exact ⟨rfl, rfl, id⟩
  | patternOn =>
    show Answered s (s.takePatternOn n)
    rw [State.takePatternOn_eq]
    split
    · obtain ⟨hcf, hslots⟩ := (s.storeResult n s.patternResult).enterPattern_units
      exact ⟨hcf, hslots, fun _ => by rw [State.enterPattern_op]; nofun⟩
    · exact ⟨rfl, rfl, id⟩
  | patternOff =>
    show Answered s (s.takePatternOff n)
    unfold State.takePatternOff
    dsimp only
    split
    · exact ⟨rfl, rfl, fun _ => nofun⟩
    · exact ⟨rfl, rfl, id⟩

/-- R188: the result the console stores of its own pattern commands. -/
theorem State.takePattern_result (s : State) (n : Nat) :
    (s.takeCommand n .patternOn).bus.lastResult = some (n, s.patternResult.code) ∧
    (s.takeCommand n .patternOff).bus.lastResult = some (n, 0) := by
  constructor
  · show (s.takePatternOn n).bus.lastResult = _
    rw [State.takePatternOn_eq]
    split
    · exact State.enterPattern_lastResult _
    · rfl
  · show (s.takePatternOff n).bus.lastResult = _
    unfold State.takePatternOff
    dsimp only
    split <;> rfl

/-- The state in which a generated command has its number and has been handed over. -/
def State.handedOver (s : State) (n : Nat) (kind : CommandKind) : State :=
  (s.withCf { s.cf with commandCounter := (s.cf.commandCounter + 1) % 256 }).pushCommand (.command n s.cf.commandCounter kind)

theorem State.generate_eq (s : State) (n : Nat) (kind : CommandKind) : s.generate n kind =
    if n = 0 then (s.handedOver n kind).takeCommand s.cf.commandCounter kind else s.handedOver n kind := rfl

/-- R176: a command the console generates takes the next number and a command slot. -/
theorem State.generate_units (hr : s.osm.role = .console) (n : Nat) (kind : CommandKind) :
    (s.generate n kind).cf = { s.cf with commandCounter := (s.cf.commandCounter + 1) % 256 } ∧
    (s.generate n kind).bus.commandSlots = (if s.bus.commandSlots.length + s.bus.driven .command < 3
      then s.bus.commandSlots ++ [.command n s.cf.commandCounter kind] else s.bus.commandSlots) ∧
    (s.osm.op ≠ .dormant → (s.generate n kind).osm.op ≠ .dormant) := by
  have hslots : (s.handedOver n kind).bus.commandSlots = (if s.bus.commandSlots.length + s.bus.driven .command < 3
      then s.bus.commandSlots ++ [.command n s.cf.commandCounter kind] else s.bus.commandSlots) := BusUnit.putCommand_slots _ _
  have hrole : (s.handedOver n kind).osm.role = .console := hr
  rw [State.generate_eq]
  split
  · have h := Answered.takeCommand hrole s.cf.commandCounter kind
    exact ⟨h.cf, h.slots.trans hslots, h.awake⟩
  · exact ⟨rfl, hslots, id⟩

/-! The acknowledge button. -/

/-- R175 step 3: what one station's entries make of the command counter and the command slots. -/
theorem State.ackSource_eq {n : Nat} (hn : n ≠ 0) (s : State) : s.ackSource n =
    if s.au.entries.any (s.toAck n) then s.handedOver n (.ackAlarms ((s.au.entries.filter (s.toAck n)).map
      (fun e => ⟨byteOf e.kind.code, byteOf e.qualifier, byteOf e.count⟩))) else s := by
  unfold State.ackSource
  cases hes : s.au.entries.filter (s.toAck n) with
  | nil =>
    rw [if_neg]
    rw [List.any_eq_true]
    rintro ⟨e, he, hack⟩
    have hmem : e ∈ s.au.entries.filter (s.toAck n) := List.mem_filter.mpr ⟨he, hack⟩
    rw [hes] at hmem
    exact absurd hmem List.not_mem_nil
  | cons e es =>
    rw [if_pos]
    · exact (s.generate_eq n _).trans (if_neg hn)
    · have hmem : e ∈ s.au.entries.filter (s.toAck n) := hes ▸ List.mem_cons_self
      exact List.any_eq_true.mpr ⟨e, (List.mem_filter.mp hmem).1, (List.mem_filter.mp hmem).2⟩

/-- R175 step 3: the ACK_ALARMS of the stations of a list, from a command number on. -/
def State.ackCommands (s : State) (l : List Nat) (c : Nat) : List Message :=
  (l.filter (fun n => s.au.entries.any (s.toAck n))).zipIdx.map (fun p => Message.command p.1 ((c + p.2) % 256)
    (.ackAlarms ((s.au.entries.filter (s.toAck p.1)).map (fun e => ⟨byteOf e.kind.code, byteOf e.qualifier, byteOf e.count⟩))))

theorem State.ackCommands_cons (s : State) (n : Nat) (l : List Nat) {c : Nat} (hc : c < 256) : s.ackCommands (n :: l) c =
    if s.au.entries.any (s.toAck n) then .command n c (.ackAlarms ((s.au.entries.filter (s.toAck n)).map
      (fun e => ⟨byteOf e.kind.code, byteOf e.qualifier, byteOf e.count⟩))) :: s.ackCommands l ((c + 1) % 256)
    else s.ackCommands l c := by
  unfold State.ackCommands
  rw [List.filter_cons]
  split
  · rw [List.zipIdx_cons, List.map_cons, Nat.add_zero, Nat.mod_eq_of_lt hc, List.zipIdx_succ, List.map_map]
    congr 1
    refine List.map_congr_left fun p _ => ?_
    simp only [Function.comp_apply]
    congr 1
    omega
  · rfl

/-- The state with the command counter and the command slots replaced. -/
def State.withCommands (s : State) (c : Nat) (l : List Message) : State :=
  (s.withCf { s.cf with commandCounter := c }).withBus { s.bus with commandSlots := l }

theorem State.handedOver_eq (s : State) (n : Nat) (kind : CommandKind) : s.handedOver n kind =
    s.withCommands ((s.cf.commandCounter + 1) % 256) (if s.bus.commandSlots.length + s.bus.driven .command < 3
      then s.bus.commandSlots ++ [.command n s.cf.commandCounter kind] else s.bus.commandSlots) := by
  have hput : s.bus.putCommand (.command n s.cf.commandCounter kind) = { s.bus with
      commandSlots := if s.bus.commandSlots.length + s.bus.driven .command < 3
        then s.bus.commandSlots ++ [.command n s.cf.commandCounter kind] else s.bus.commandSlots } := by
    unfold BusUnit.putCommand
    split <;> rfl
  have hdef : s.handedOver n kind = (s.withCf { s.cf with commandCounter := (s.cf.commandCounter + 1) % 256 }).withBus
      (s.bus.putCommand (.command n s.cf.commandCounter kind)) := rfl
  rw [hdef, hput]
  rfl

/-- R175 step 3: what the sources of a list make of the command counter and the command slots. -/
theorem State.ackSources_eq {l : List Nat} (hl : 0 ∉ l) : ∀ s : State, s.cf.commandCounter < 256 →
    l.foldl State.ackSource s = s.withCommands
      ((s.cf.commandCounter + (l.filter (fun n => s.au.entries.any (s.toAck n))).length) % 256)
      (s.bus.commandSlots ++ (s.ackCommands l s.cf.commandCounter).take
        (3 - (s.bus.commandSlots.length + s.bus.driven .command))) := by
  induction l with
  | nil =>
    intro s hc
    have hcount : (s.cf.commandCounter + 0) % 256 = s.cf.commandCounter := Nat.mod_eq_of_lt hc
    simp only [List.foldl_nil, List.filter_nil, List.length_nil, State.ackCommands, List.zipIdx_nil, List.map_nil,
      List.take_nil, List.append_nil, hcount]
    rfl
  | cons n l ih =>
    intro s hc
    have hn : n ≠ 0 := fun e => hl (by simp [e])
    have hrest := ih fun h => hl (List.mem_cons_of_mem _ h)
    rw [List.foldl_cons, State.ackSource_eq hn, State.ackCommands_cons s n l hc, List.filter_cons]
    split
    · next hany =>
      generalize hm : Message.command n s.cf.commandCounter (.ackAlarms ((s.au.entries.filter (s.toAck n)).map
        (fun e => ⟨byteOf e.kind.code, byteOf e.qualifier, byteOf e.count⟩))) = m
      have hmod : ∀ m, ((s.cf.commandCounter + 1) % 256 + m) % 256 = (s.cf.commandCounter + (m + 1)) % 256 := fun m => by omega
      have hnext := fun x => hrest (s.withCommands ((s.cf.commandCounter + 1) % 256) x) (Nat.mod_lt _ (by decide))
      rw [State.handedOver_eq, hm, hnext]
      have hcollapse : ∀ (a : Nat) (x : List Message) b y, (s.withCommands a x).withCommands b y = s.withCommands b y :=
        fun _ _ _ _ => rfl
      have hany : ∀ x, (fun k => (s.withCommands ((s.cf.commandCounter + 1) % 256) x).au.entries.any
          ((s.withCommands ((s.cf.commandCounter + 1) % 256) x).toAck k)) = fun k => s.au.entries.any (s.toAck k) := fun _ => rfl
      have hcommands : ∀ x, (s.withCommands ((s.cf.commandCounter + 1) % 256) x).ackCommands l
          (s.withCommands ((s.cf.commandCounter + 1) % 256) x).cf.commandCounter =
          s.ackCommands l ((s.cf.commandCounter + 1) % 256) := fun _ => rfl
      have hcounter : ∀ x, (s.withCommands ((s.cf.commandCounter + 1) % 256) x).cf.commandCounter =
          (s.cf.commandCounter + 1) % 256 := fun _ => rfl
      have hslots : ∀ x, (s.withCommands ((s.cf.commandCounter + 1) % 256) x).bus.commandSlots = x := fun _ => rfl
      have hdriven : ∀ x, (s.withCommands ((s.cf.commandCounter + 1) % 256) x).bus.driven .command = s.bus.driven .command :=
        fun _ => rfl
      rw [hcollapse, hany, hcommands, hcounter, hslots, hdriven, hmod, List.length_cons]
      congr 1
      split
      · next hlt =>
        have hroom : 3 - (s.bus.commandSlots.length + s.bus.driven .command) =
            3 - (s.bus.commandSlots.length + 1 + s.bus.driven .command) + 1 := by omega
        rw [hroom, List.take_succ_cons, List.length_append, List.length_singleton, List.append_assoc, List.singleton_append]
      · next hfull =>
        have hroom : 3 - (s.bus.commandSlots.length + s.bus.driven .command) = 0 := by omega
        rw [hroom, List.take_zero, List.take_zero]
    · exact hrest s hc

end

end Sys2Proof.Machine

/-! DIGITAL_INPUT_CHANGE: what the change of an input leaves (R65, R130, R175 to R177). -/

namespace Sys2Proof.Machine

section
variable {s t u w : State}

/-! The acknowledge button. -/

/-- R175 steps 1 and 2: the alarm table after the acknowledgement at the station itself. -/
def ackedEntries (s : State) : List AlarmEntry :=
  (s.au.entries.filter (fun e => !(e.orphan || (s.ownAlarm e && e.state == .clearedUnack)))).map (fun e =>
    if s.ownAlarm e && e.state == .activeUnack then { e with state := .activeAck } else e)

theorem State.ackLocal_only (s : State) : ∃ a, s.ackLocal = s.withAu a ∧ a.entries = ackedEntries s ∧
    a.inForce = s.au.inForce := by
  refine ⟨_, rfl, ?_, ?_⟩
  · dsimp only
    rw [AlarmUnit.remove_entries, AlarmUnit.remove_entries, List.filter_filter]
    unfold ackedEntries
    congr 2
    funext e
    cases e.orphan <;> simp
  · exact (AlarmUnit.remove_inForce _ _).trans (AlarmUnit.remove_inForce _ _)

/-- What a filter keeps is found after a removal and a rewriting that touch nothing of it. -/
theorem filter_map_filter {α : Type} {p q : α → Bool} {g : α → α} (hq : ∀ e, q e = true → p e = true ∧ g e = e)
    (hn : ∀ e, q e = false → q (g e) = false) (l : List α) : ((l.filter p).map g).filter q = l.filter q := by
  induction l with
  | nil => rfl
  | cons e l ih =>
    cases he : q e with
    | true =>
      obtain ⟨hp, hg⟩ := hq e he
      rw [List.filter_cons_of_pos hp, List.map_cons, hg, List.filter_cons_of_pos he, List.filter_cons_of_pos he, ih]
    | false =>
      rw [List.filter_cons_of_neg (l := l) (p := q) (by rw [he]; exact Bool.false_ne_true), ← ih, List.filter_cons]
      split
      · rw [List.map_cons, List.filter_cons_of_neg (by rw [hn e he]; exact Bool.false_ne_true)]
      · rfl

/-- R175 step 3: the acknowledgement at the station itself leaves the entries other stations are asked to acknowledge. -/
theorem ackedEntries_toAck (s : State) (n : Nat) : (ackedEntries s).filter (s.toAck n) = s.au.entries.filter (s.toAck n) := by
  have hown : ∀ f, s.ownAlarm f = true → s.toAck n f = false := fun f hf => by simp [State.toAck, hf]
  refine filter_map_filter (fun e he => ?_) (fun e he => ?_) s.au.entries
  · cases ho : s.ownAlarm e with
    | true =>
      rw [hown e ho] at he
      cases he
    | false =>
      simp only [State.toAck, ho, Bool.and_eq_true, Bool.not_eq_true'] at he
      simp [he]
  · split
    · next hack =>
      exact hown _ (Bool.and_eq_true_iff.mp hack).1
    · exact he

theorem any_of_filter_eq {α : Type} {p : α → Bool} {l m : List α} (h : l.filter p = m.filter p) : l.any p = m.any p := by
  have hmem : ∀ k : List α, k.any p = true ↔ ∃ e, e ∈ k.filter p := fun k => by
    simp [List.any_eq_true, List.mem_filter]
  rw [Bool.eq_iff_iff, hmem, hmem, h]

/-- What other stations are asked to acknowledge is the same after the acknowledgement at the station itself. -/
theorem State.withAu_toAck {a : AlarmUnit} (ha : a.entries = ackedEntries s) :
    (fun n => (s.withAu a).au.entries.any ((s.withAu a).toAck n)) = (fun n => s.au.entries.any (s.toAck n)) ∧
    ∀ n, (s.withAu a).au.entries.filter ((s.withAu a).toAck n) = s.au.entries.filter (s.toAck n) := by
  have hfilter : ∀ n, (s.withAu a).au.entries.filter ((s.withAu a).toAck n) = s.au.entries.filter (s.toAck n) := fun n => by
    have hto : (s.withAu a).toAck n = s.toAck n := rfl
    have hentries : (s.withAu a).au.entries = ackedEntries s := ha
    rw [hto, hentries, ackedEntries_toAck]
  exact ⟨funext fun n => any_of_filter_eq (hfilter n), hfilter⟩

/-- R175 step 3: the ACK_ALARMS are those of the entries before the acknowledgement at the station itself. -/
theorem State.ackCommands_acked {a : AlarmUnit} (ha : a.entries = ackedEntries s) (l : List Nat) (c : Nat) :
    (s.withAu a).ackCommands l c = s.ackCommands l c := by
  obtain ⟨hany, hfilter⟩ := State.withAu_toAck ha
  unfold State.ackCommands
  rw [hany]
  simp only [hfilter]

theorem State.ackSources_only {l : List Nat} (hl : 0 ∉ l) : ∀ s : State, ∃ c x, l.foldl State.ackSource s = s.withCommands c x := by
  induction l with
  | nil => exact fun s => ⟨s.cf.commandCounter, s.bus.commandSlots, rfl⟩
  | cons n l ih =>
    intro s
    have hn : n ≠ 0 := fun e => hl (by simp [e])
    obtain ⟨c, x, h⟩ := ih (fun h => hl (List.mem_cons_of_mem _ h)) (s.ackSource n)
    rw [List.foldl_cons, h, State.ackSource_eq hn]
    split
    · rw [State.handedOver_eq]
      exact ⟨c, x, rfl⟩
    · exact ⟨c, x, rfl⟩

/-- R175: the state a press of the acknowledge button leaves at the console. -/
theorem State.pressAck_only (s : State) : ∃ a c l, s.pressAck = (s.withAu a).withCommands c l ∧
    (s.osm.op.serves = true ∨ s.osm.op = .faulted → a.entries = ackedEntries s) ∧ a.inForce = s.au.inForce ∧
    (s.osm.op.serves = false → l = s.bus.commandSlots) ∧
    (s.osm.op.serves = true → s.cf.commandCounter < 256 →
      c = (s.cf.commandCounter + (stationNumbers.filter (fun n => s.au.entries.any (s.toAck n))).length) % 256 ∧
      l = s.bus.commandSlots ++ (s.ackCommands stationNumbers s.cf.commandCounter).take
        (3 - (s.bus.commandSlots.length + s.bus.driven .command))) := by
  obtain ⟨a, ha, hentries, hforce⟩ := s.ackLocal_only
  have hplain : ∀ b, s.withAu b = (s.withAu b).withCommands s.cf.commandCounter s.bus.commandSlots := fun _ => rfl
  unfold State.pressAck
  split
  · next hserves =>
    have hnone : 0 ∉ stationNumbers := by decide
    rw [ha]
    by_cases hc : s.cf.commandCounter < 256
    · have hsources := State.ackSources_eq hnone (s.withAu a) hc
      have hcommands := State.ackCommands_acked hentries stationNumbers s.cf.commandCounter
      have hany := (State.withAu_toAck hentries).1
      rw [hany] at hsources
      refine ⟨a, _, _, hsources, fun _ => hentries, hforce, fun h => absurd hserves (by rw [h]; exact Bool.false_ne_true),
        fun _ _ => ⟨rfl, ?_⟩⟩
      rw [← hcommands]
      rfl
    · obtain ⟨c, x, h⟩ := State.ackSources_only hnone (s.withAu a)
      exact ⟨a, c, x, h, fun _ => hentries, hforce, fun h => absurd hserves (by rw [h]; exact Bool.false_ne_true),
        fun _ hlt => absurd hlt hc⟩
  · next hserves =>
    split
    · next hf =>
      rw [ha]
      exact ⟨a, _, _, hplain a, fun _ => hentries, hforce, fun _ => rfl, fun h => absurd h hserves⟩
    · next hf =>
      exact ⟨s.au, _, _, hplain s.au, fun h => (h.elim hserves hf).elim, rfl, fun _ => rfl, fun h => absurd h hserves⟩

/-! The change of an input at the console. -/

theorem State.poleInput_console (h : s.osm.role ≠ .pole) (i : Nat) : s.poleInput i = s := by
  have hrope : ∀ p, s.ropeChange p = s := fun p => by
    unfold State.ropeChange State.polesRun
    rw [if_neg]
    simp [h]
  unfold State.poleInput
  split
  · exact hrope _
  · exact hrope _
  · rfl

/-- The state with an input at a level. -/
def State.inputAt (s : State) (i : Nat) (level : Bool) : State := s.withSu { s.su with din := setLevel s.su.din i level }

/-- At the console an input's change is the console's, and starts the cycles it feeds. -/
theorem State.takeInput_console (hr : s.osm.role = .console) (i : Nat) (level : Bool) : s.takeInput i level =
    if level then channelNumbers.foldl (State.edgeChannel i) ((s.inputAt i level).consoleInput i level)
    else (s.inputAt i level).consoleInput i level := by
  have hrole : ((s.inputAt i level).consoleInput i level).osm.role ≠ .pole := by
    have hconsole : (s.inputAt i level).osm.role = .console := hr
    have hnot : (s.inputAt i level).osm.role ≠ .pole := fun h => nomatch hconsole.symm.trans h
    have h := Changes.consoleInput (E := [.counter, .results, .moves]) (s.inputAt i level) hnot (by simp) (by simp) (by simp) i
      level (by simp)
    rw [h.role _ (by simp)]
    exact hnot
  have hdef : s.takeInput i level = if level then channelNumbers.foldl (State.edgeChannel i)
      ((if (s.inputAt i level).osm.role = .console then (s.inputAt i level).consoleInput i level
        else s.inputAt i level).poleInput i)
      else (if (s.inputAt i level).osm.role = .console then (s.inputAt i level).consoleInput i level
        else s.inputAt i level).poleInput i := rfl
  have hconsole : (s.inputAt i level).osm.role = .console := hr
  rw [hdef, if_pos hconsole, State.poleInput_console hrole]

theorem State.takeInput_edges (hr : s.osm.role = .console) (i : Nat) (level : Bool) :
    LoadOnly ((s.inputAt i level).consoleInput i level) (s.takeInput i level) := by
  rw [State.takeInput_console hr]
  exact .ite (.foldl (fun _ c => LoadOnly.edgeChannel i c) _ _) (.refl _)

/-- An input that feeds no TIMED channel starts no cycle. -/
theorem State.edgeAll_none {i : Nat} (h : ∀ c, (s.record c).kind = .timed → (s.record c).input ≠ i) :
    channelNumbers.foldl (State.edgeChannel i) s = s := by
  have hone : ∀ c, State.edgeChannel i s c = s := fun c => by
    unfold State.edgeChannel
    dsimp only
    refine if_neg fun hc => ?_
    simp only [Bool.and_eq_true, beq_iff_eq] at hc
    exact h c hc.1.1.1.2 hc.1.1.2
  have hall : ∀ l : List (Fin 4), l.foldl (State.edgeChannel i) s = s := by
    intro l
    induction l with
    | nil => rfl
    | cons c l ih => rw [List.foldl_cons, hone, ih]
  exact hall _

end

end Sys2Proof.Machine

/-! DIGITAL_INPUT_CHANGE as a whole (R65, R116, R130, R175 to R177). -/

namespace Sys2Proof.Machine

section
variable {s t u w : State}

theorem Changes.din {E : List Special} (h : Changes E s t) (hi : .inputs ∉ E) : t.su.din = s.su.din :=
  h.same (f := fun s => s.su.din) fun _ _ => Change.din hi

/-- R65: the one input takes the level. -/
theorem State.takeInput_din (i : Nat) (level : Bool) : (s.takeInput i level).su.din = setLevel s.su.din i level := by
  have hedges : ∀ v : State, (if level then channelNumbers.foldl (State.edgeChannel i) v else v).su = v.su := fun v => by
    have h : LoadOnly v (if level then channelNumbers.foldl (State.edgeChannel i) v else v) :=
      .ite (.foldl (fun _ c => LoadOnly.edgeChannel i c) _ _) (.refl v)
    obtain ⟨l, a, r, e⟩ := h
    rw [e]
    rfl
  have hconsole : (if (s.inputAt i level).osm.role = .console then (s.inputAt i level).consoleInput i level
      else s.inputAt i level).su.din = (s.inputAt i level).su.din := by
    split
    · next hr =>
      exact Changes.din (Changes.consoleInput (E := [.counter, .results, .moves]) (s.inputAt i level)
        (fun k => nomatch hr.symm.trans k) (by simp) (by simp) (by simp) i level (by simp)) (by simp)
    · rfl
  have hdef : s.takeInput i level = if level then channelNumbers.foldl (State.edgeChannel i)
      ((if (s.inputAt i level).osm.role = .console then (s.inputAt i level).consoleInput i level
        else s.inputAt i level).poleInput i)
      else (if (s.inputAt i level).osm.role = .console then (s.inputAt i level).consoleInput i level
        else s.inputAt i level).poleInput i := rfl
  rw [hdef, hedges, (poleInput_units _).1, hconsole]
  rfl

/-- R65: the inputs after the command. -/
theorem exec_input_levels {i : Fin 12} {level : Bool} (h : exec (.digitalInputChange i level) s = .next t) :
    t.su.ain = s.su.ain ∧ ∀ j : Fin 12, t.din j.val = if j = i then level else s.din j.val := by
  have hc : Instr.digitalInputChange i level ≠ .coldReset := nofun
  refine ⟨exec_same .readings hc h (fun ⟨x, k⟩ => nomatch k) fun _ _ _ => Change.ain, fun j => ?_⟩
  have hexec : exec (.digitalInputChange i level) s = execDigitalInputChange i level s := rfl
  rw [hexec, execDigitalInputChange] at h
  split at h
  · next hsame =>
    obtain rfl := Host.Outcome.next.inj h
    split
    · next hj => rw [hj, hsame]
    · rfl
  · obtain rfl := Host.Outcome.next.inj h
    have hdin : (State.react noCue s (s.takeInput i.val level)).su.din = setLevel s.su.din i.val level :=
      ((Changes.react (E := [.moves, .admits]) (s.takeInput i.val level) (by simp) (by simp) noCue s).din (by simp)).trans
        (State.takeInput_din _ _)
    unfold State.din
    rw [hdin, getLsbD_setLevel s.su.din i.isLt]
    exact if_congr ⟨fun hj => Fin.ext hj.symm, fun hj => by rw [hj]⟩ rfl rfl

theorem exec_input_react {i : Fin 12} {level : Bool} (h : s.din i.val ≠ level) :
    exec (.digitalInputChange i level) s = .next (State.react noCue s (s.takeInput i.val level)) :=
  congrArg Host.Outcome.next (if_neg h)

/-- R177: the special-work input at the console. -/
theorem react_special {level : Bool} (hr : s.osm.role = .console) (ho : s.osm.op.serves = true ∨ s.osm.op = .faulted) :
    (level = true → (State.react noCue s (s.takeInput 5 level)).cf.special = true ∧
      (State.react noCue s (s.takeInput 5 level)).cf.tail = none) ∧
    (level = false → (State.react noCue s (s.takeInput 5 level)).cf.special = s.cf.special ∧
      (State.react noCue s (s.takeInput 5 level)).cf.tail = some 0) := by
  have hreceives : s.osm.op.receives = true := by
    generalize s.osm.op = o at ho
    cases o <;> simp_all [OpState.serves, OpState.receives, OpState.composes]
  have hinput : (s.inputAt 5 level).consoleInput 5 level = (s.inputAt 5 level).withCf
      (if level then { s.cf with special := true, tail := none } else { s.cf with tail := some 0 }) := by
    unfold State.consoleInput State.specialChange
    rw [if_pos rfl]
    exact if_pos hreceives
  obtain ⟨l, a, r, e⟩ := State.takeInput_edges hr 5 level
  rw [hinput] at e
  have hcf : (State.react noCue s (s.takeInput 5 level)).cf =
      if level then { s.cf with special := true, tail := none } else { s.cf with tail := some 0 } := by
    rw [State.react_cf, e]
    · rfl
    · rw [e]
      rintro hd
      have hd : s.osm.op = .dormant := hd
      rw [hd] at hreceives
      cases hreceives
  rw [hcf]
  cases level with
  | true => exact ⟨fun _ => ⟨rfl, rfl⟩, nofun⟩
  | false => exact ⟨nofun, fun _ => ⟨rfl, rfl⟩⟩

/-- R130: the emergency current-off input is the cut controller's. -/
theorem takeInput_emergency (hr : s.osm.role = .console) (level : Bool) : LoadOnly (s.inputAt 8 level) (s.takeInput 8 level) := by
  have hnone : (s.inputAt 8 level).consoleInput 8 level = s.inputAt 8 level := by
    unfold State.consoleInput State.pressButton
    rw [if_neg (by decide)]
    cases level with
    | true =>
      rw [if_pos rfl, if_neg (by decide)]
      split <;> rfl
    | false => rw [if_neg Bool.false_ne_true, if_neg (fun h => absurd h.1 (by decide))]
  have h := State.takeInput_edges hr 8 level
  rwa [hnone] at h

/-- R116, R117, R130: the DRIVER cut as the emergency current-off input comes. -/
theorem react_emergency_on (hr : s.osm.role = .console) (ho : s.osm.op.serves = true) (hn : s.holdsCut .driver = false)
    (hi : s.CutsOk) (hrange : s.cc.counter < 256) : ∃ d k, d ≤ 8 ∧ k = (s.cc.counter + d) % 256 ∧
      (∀ e ∈ s.cc.cuts, e.own = true → e.number ≠ k) ∧
      (∀ j < d, ∃ e ∈ s.cc.cuts, e.own = true ∧ e.number = (s.cc.counter + j) % 256) ∧
      (State.react noCue s (s.takeInput 8 true)).cc.counter = (k + 1) % 256 ∧
      (State.react noCue s (s.takeInput 8 true)).cc.phase = .held ∧
      (State.react noCue s (s.takeInput 8 true)).ae.draw = 0 ∧
      (State.react noCue s (s.takeInput 8 true)).cc.cuts =
        (if s.cc.cuts.length < 8 then s.cc.cuts else dropOldestPeer s.cc.cuts) ++ [⟨s.osm.number, .driver, k, true⟩] ∧
      (State.react noCue s (s.takeInput 8 true)).bus.urgentSlots.getLast? = some (.cut s.osm.number .driver k) := by
  obtain ⟨l, a, r, e⟩ := takeInput_emergency hr true
  have hdin : (s.takeInput 8 true).din 8 = true := by
    unfold State.din
    rw [State.takeInput_din, getLsbD_setLevel s.su.din (by decide)]
    rfl
  rw [show ((s.inputAt 8 true).withLcm l).withAu a = _ from rfl] at e
  generalize s.takeInput 8 true = u at e hdin
  have hcuts : u.cc.cuts = s.cc.cuts := by rw [e]; rfl
  have hcounter : u.cc.counter = s.cc.counter := by rw [e]; rfl
  have hosm : u.osm = s.osm := by rw [e]; rfl
  have hphase : u.cc.phase = s.cc.phase := by rw [e]; rfl
  have hheld : u.holdsCut .driver = false := by rw [State.holdsCut_eq, hcuts, ← State.holdsCut_eq]; exact hn
  have hok : u.CutsOk := by
    unfold State.CutsOk
    rw [hcuts, hosm, hphase]
    exact hi
  have hcut : u.driverCut = u.originate .driver := by
    unfold State.driverCut
    rw [if_pos ⟨by rw [hosm]; exact hr, by rw [hosm]; exact ho⟩, if_pos hdin]
  obtain ⟨rcuts, rcounter, rphase, rurgent, rdraw⟩ := State.react_afterDriver noCue s u (by rw [hosm]; exact ho)
  obtain ⟨d, k, hd, hk, hfree, hbefore, ocounter, ophase, ocuts, ourgent⟩ :=
    State.originate_new hheld hok (by rw [hcounter]; exact hrange)
  rw [hcut] at rcuts rcounter rphase rurgent rdraw
  rw [hcuts, hosm] at ocuts
  rw [hcuts] at hfree hbefore
  rw [hcounter] at hk hbefore
  rw [hosm] at ourgent
  exact ⟨d, k, hd, hk, hfree, hbefore, rcounter.trans ocounter, (rphase (by rw [ophase]; nofun)).trans ophase,
    rdraw (by rw [ocuts]; simp), rcuts.trans ocuts, rurgent ▸ ourgent⟩

/-- R116, R130: the RELEASE as the emergency current-off input ends. -/
theorem react_emergency_off (hr : s.osm.role = .console) (ho : s.osm.op.serves = true) {e : CutEntry}
    (hn : s.ownCut .driver = some e) : (State.react noCue s (s.takeInput 8 false)).holdsCut .driver = false ∧
      (State.react noCue s (s.takeInput 8 false)).cc.cuts = s.cc.cuts.filter (fun a => !(a.own && a.cause == .driver)) ∧
      (State.react noCue s (s.takeInput 8 false)).bus.urgentSlots.getLast? =
        some (.release s.osm.number .driver e.number) := by
  obtain ⟨l, a, r, eq⟩ := takeInput_emergency hr false
  have hdin : (s.takeInput 8 false).din 8 = false := by
    unfold State.din
    rw [State.takeInput_din, getLsbD_setLevel s.su.din (by decide)]
    rfl
  generalize s.takeInput 8 false = u at eq hdin
  have hcuts : u.cc.cuts = s.cc.cuts := by rw [eq]; rfl
  have hosm : u.osm = s.osm := by rw [eq]; rfl
  have hown : u.ownCut .driver = some e := by
    unfold State.ownCut at hn ⊢
    rw [hcuts]
    exact hn
  have hcut : u.driverCut = u.releaseOwn .driver := by
    unfold State.driverCut
    rw [if_pos ⟨by rw [hosm]; exact hr, by rw [hosm]; exact ho⟩, if_neg (by rw [hdin]; exact Bool.false_ne_true)]
  obtain ⟨rcuts, -, -, rurgent, -⟩ := State.react_afterDriver noCue s u (by rw [hosm]; exact ho)
  obtain ⟨oholds, ocuts, ourgent⟩ := State.releaseOwn_some hown
  rw [hcut] at rcuts rurgent
  have hholds : (State.react noCue s u).holdsCut .driver = (u.releaseOwn .driver).holdsCut .driver := by
    rw [State.holdsCut_eq, rcuts, ← State.holdsCut_eq]
  rw [hcuts] at ocuts
  rw [hosm] at ourgent
  exact ⟨hholds.trans oholds, rcuts.trans ocuts, rurgent ▸ ourgent⟩

end

end Sys2Proof.Machine

/-! DIGITAL_INPUT_CHANGE at the console: the buttons and the acknowledge button (R175, R176). -/

namespace Sys2Proof.Machine

section
variable {s t u w : State}

/-- What the console's buttons leave, after the reaction. -/
theorem react_generated {i : Nat} {level : Bool} {n : Nat} {kind : CommandKind} (hr : s.osm.role = .console)
    (ho : s.osm.op.serves = true) (h : (s.inputAt i level).consoleInput i level = (s.inputAt i level).generate n kind) :
    (State.react noCue s (s.takeInput i level)).cf.commandCounter = (s.cf.commandCounter + 1) % 256 ∧
    (State.react noCue s (s.takeInput i level)).bus.lastResult = ((s.inputAt i level).generate n kind).bus.lastResult ∧
    (State.react noCue s (s.takeInput i level)).bus.commandSlots =
      if s.bus.commandSlots.length + s.bus.driven .command < 3
        then s.bus.commandSlots ++ [.command n s.cf.commandCounter kind] else s.bus.commandSlots := by
  have hrole : (s.inputAt i level).osm.role = .console := hr
  obtain ⟨gcf, gslots, gawake⟩ := State.generate_units hrole n kind
  obtain ⟨l, a, r, e⟩ := State.takeInput_edges hr i level
  rw [h] at e
  have hop : (s.inputAt i level).osm.op = s.osm.op := rfl
  have hawake : (s.inputAt i level).osm.op ≠ .dormant := by
    rw [hop]
    intro hd
    rw [hd] at ho
    cases ho
  have hcarried := Carried.react noCue s (s.takeInput i level)
  have hcf := State.react_cf noCue s (s.takeInput i level)
  generalize s.takeInput i level = u at e hcarried hcf ⊢
  have hucf : u.cf = ((s.inputAt i level).generate n kind).cf := by rw [e]; rfl
  have hubus : u.bus = ((s.inputAt i level).generate n kind).bus := by rw [e]; rfl
  have huop : u.osm.op = ((s.inputAt i level).generate n kind).osm.op := by rw [e]; rfl
  have hslots : (State.react noCue s u).bus.commandSlots = u.bus.commandSlots := by
    have k : (State.react noCue s u).bus.carried.1.commandSlots = u.bus.carried.1.commandSlots := by rw [hcarried.bus]
    exact k
  rw [hcf (by rw [huop]; exact gawake hawake), hslots, hucf, hubus, gcf, gslots, hcarried.lastResult, hubus]
  exact ⟨rfl, rfl, rfl⟩

/-- R176: a button's edge at the console. -/
theorem consoleInput_button {i : Nat} {kind : CommandKind} (ho : s.osm.op.serves = true)
    (hk : i = 1 ∧ kind = .raisePoles ∨ i = 2 ∧ kind = .lowerPoles ∨ i = 3 ∧ kind = .clearLockout 2) :
    (s.inputAt i true).consoleInput i true = (s.inputAt i true).generate s.settings.poleStation kind := by
  have hserves : (s.inputAt i true).osm.op.serves = true := ho
  obtain ⟨rfl, rfl⟩ | ⟨rfl, rfl⟩ | ⟨rfl, rfl⟩ := hk <;>
  · unfold State.consoleInput State.pressButton
    rw [if_neg (by decide), if_pos rfl, if_neg (by decide), if_pos hserves]
    rfl

/-- R176: an edge of the pattern switch at the console. -/
theorem consoleInput_pattern (ho : s.osm.op.serves = true) (level : Bool) : (s.inputAt 4 level).consoleInput 4 level =
    (s.inputAt 4 level).generate 0 (if level then .patternOn else .patternOff) := by
  have hserves : (s.inputAt 4 level).osm.op.serves = true := ho
  unfold State.consoleInput
  rw [if_neg (by decide)]
  cases level with
  | true =>
    unfold State.pressButton
    rw [if_pos rfl, if_neg (by decide), if_pos hserves]
    rfl
  | false =>
    rw [if_neg Bool.false_ne_true, if_pos ⟨rfl, hserves⟩]
    rfl

theorem generate_patternResult (level : Bool) :
    ((s.inputAt 4 level).generate 0 (if level then .patternOn else .patternOff)).bus.lastResult =
      some (s.cf.commandCounter, if level then s.patternResult.code else 0) := by
  have hresult : ∀ k, ((s.inputAt 4 level).handedOver 0 k).patternResult = s.patternResult := fun _ => rfl
  rw [State.generate_eq, if_pos rfl]
  cases level with
  | true =>
    have h := (((s.inputAt 4 true).handedOver 0 .patternOn).takePattern_result s.cf.commandCounter).1
    rw [hresult] at h
    exact h
  | false => exact (((s.inputAt 4 false).handedOver 0 .patternOff).takePattern_result s.cf.commandCounter).2

/-- R175: a press of the acknowledge button at a calm console that feeds no TIMED channel by it. -/
theorem react_acknowledge (hr : s.osm.role = .console) (ho : s.osm.op.serves = true ∨ s.osm.op = .faulted)
    (hcalm : (s.inputAt 0 true).Calm) (hfeeds : ∀ c, (s.record c).kind = .timed → (s.record c).input ≠ 0) :
    (State.react noCue s (s.takeInput 0 true)).au.entries = ackedEntries s ∧
    (State.react noCue s (s.takeInput 0 true)).bus.lastResult = s.bus.lastResult ∧
    (s.osm.op = .faulted → (State.react noCue s (s.takeInput 0 true)).bus.commandSlots = s.bus.commandSlots) ∧
    (s.osm.op.serves = true → s.cf.commandCounter < 256 →
      (State.react noCue s (s.takeInput 0 true)).bus.commandSlots = s.bus.commandSlots ++
        (s.ackCommands stationNumbers s.cf.commandCounter).take
          (3 - (s.bus.commandSlots.length + s.bus.driven .command))) := by
  obtain ⟨a, c, l, hpress, hentries, hforce, hsilent, hslots⟩ := (s.inputAt 0 true).pressAck_only
  have htake : s.takeInput 0 true = ((s.inputAt 0 true).withAu a).withCommands c l := by
    have hinput : (s.inputAt 0 true).consoleInput 0 true = (s.inputAt 0 true).pressAck := rfl
    rw [State.takeInput_console hr, if_pos rfl, hinput, hpress]
    exact State.edgeAll_none hfeeds
  have hacked : a.entries = ackedEntries s := hentries ho
  have hforced : (((s.inputAt 0 true).withAu a).withCommands c l).inForce .sinkShort 0 = (s.inputAt 0 true).inForce .sinkShort 0 :=
    congrArg (fun l => l.contains (AlarmKind.sinkShort, 0)) hforce
  obtain ⟨hd, hl, hf, hm⟩ := hcalm
  have hstays : (((s.inputAt 0 true).withAu a).withCommands c l).autoMove.osm.op =
      (((s.inputAt 0 true).withAu a).withCommands c l).osm.op := by
    have h := (s.inputAt 0 true).autoMove_op
    rw [hm] at h
    rw [State.autoMove_op]
    exact h.symm
  have hquiet := State.react_calm (s0 := s) (u := ((s.inputAt 0 true).withAu a).withCommands c l) hd hl
    (fun k => ⟨(hf k).1, hforced.trans (hf k).2⟩) hstays rfl rfl rfl (State.channelEvent_self rfl)
  have hcarried := Carried.react noCue s (((s.inputAt 0 true).withAu a).withCommands c l)
  have hcommands : (State.react noCue s (((s.inputAt 0 true).withAu a).withCommands c l)).bus.commandSlots = l := by
    have k : (State.react noCue s (((s.inputAt 0 true).withAu a).withCommands c l)).bus.carried.1.commandSlots =
        (((s.inputAt 0 true).withAu a).withCommands c l).bus.carried.1.commandSlots := by rw [hcarried.bus]
    exact k
  rw [htake, hquiet.1, hcommands, hcarried.lastResult]
  refine ⟨hacked, rfl, fun h => hsilent ?_, fun h hc => (hslots h hc).2⟩
  have hop : (s.inputAt 0 true).osm.op = .faulted := h
  rw [hop]
  rfl

end

/-- Settles O29: the frame of the inputs, then each input of the console: the cut controller's, the buttons, the pattern
switch and the acknowledge button. -/
theorem inputTakesItsLevel : Obligations.InputTakesItsLevel := by
  refine ⟨fun i level s => ?_, fun s w hr ho hoff hw hcalm hfeeds => ?_, fun s ho => ?_⟩
  · obtain ⟨t, h⟩ : ∃ t, exec (.digitalInputChange i level) s = .next t := ⟨_, rfl⟩
    obtain ⟨hain, hdin⟩ := exec_input_levels h
    have hreact : s.din i.val ≠ level → t = State.react noCue s (s.takeInput i.val level) := fun hne =>
      Host.Outcome.next.inj (h.symm.trans (exec_input_react hne))
    refine ⟨t, h, hain, hdin, fun hr ho hi hne => ?_, fun hr ho hne hcuts hranges => ⟨fun hi hlevel hnone => ?_,
      fun hi hlevel e he => ?_, fun k hk hlevel => ?_, fun hi => ?_⟩⟩
    · subst hi
      rw [hreact hne]
      exact react_special hr ho
    · subst hi hlevel
      rw [hreact hne]
      exact react_emergency_on hr ho hnone hcuts hranges.2.2.2.2.1
    · subst hi hlevel
      rw [hreact hne]
      exact react_emergency_off hr ho he
    · subst hlevel
      rw [hreact hne]
      have hbutton : i.val = 1 ∧ k = .raisePoles ∨ i.val = 2 ∧ k = .lowerPoles ∨ i.val = 3 ∧ k = .clearLockout 2 := by
        obtain ⟨rfl, hk⟩ | ⟨rfl, hk⟩ | ⟨rfl, hk⟩ := hk
        · exact .inl ⟨rfl, hk⟩
        · exact .inr (.inl ⟨rfl, hk⟩)
        · exact .inr (.inr ⟨rfl, hk⟩)
      obtain ⟨hcounter, -, hslots⟩ := react_generated hr ho (consoleInput_button ho hbutton)
      exact ⟨hcounter, hslots⟩
    · subst hi
      rw [hreact hne]
      obtain ⟨hcounter, hresult, hslots⟩ := react_generated hr ho (consoleInput_pattern ho level)
      exact ⟨hcounter, hresult.trans (generate_patternResult level), hslots⟩
  · subst hw
    obtain ⟨hentries, hresult, hsilent, hslots⟩ := react_acknowledge hr ho hcalm hfeeds
    exact ⟨_, exec_input_react (i := 0) fun e => Bool.false_ne_true (hoff.symm.trans e), hentries, hresult, hsilent,
      fun h hranges => hslots h hranges.2.2.2.2.2.1⟩
  · obtain ⟨a, c, l, h, hentries, -, -, hcounter⟩ := s.pressAck_only
    rw [h]
    exact ⟨hentries ho, fun hs hranges => (hcounter hs hranges.2.2.2.2.2.1).1⟩

end Sys2Proof.Machine

/-! The effective period of a stored entry (R8). -/

namespace Sys2Proof.Machine

section
variable {s t u : State} {n : Nat}

/-- An entry that holds a beacon has the effective period that the state gives it (R8). -/
structure State.Timed (s : State) (n : Nat) (b : Beacon) : Prop where
  beacon : (s.entry n).beacon = some b
  held : (s.entry n).state ≠ .empty
  period : (s.entry n).pe = s.effectivePeriod n b

theorem State.effectivePeriod_congr {b : Beacon} (hnum : t.osm.number = s.osm.number)
    (hop : t.periodInForce = s.periodInForce) : t.effectivePeriod n b = s.effectivePeriod n b := by
  unfold State.effectivePeriod State.isOwn
  rw [hop, hnum]

theorem State.periodInForce_congr (hset : t.settings = s.settings) (hop : t.osm.op = s.osm.op) :
    t.periodInForce = s.periodInForce := by
  unfold State.periodInForce
  rw [hop, hset]

theorem State.Timed.congr {b : Beacon} (h : s.Timed n b) (hpvt : t.entry n = s.entry n) (hset : t.settings = s.settings)
    (hosm : t.osm.op = s.osm.op ∧ t.osm.number = s.osm.number) : t.Timed n b := by
  have hperiod := State.effectivePeriod_congr (n := n) (b := b) hosm.2 (State.periodInForce_congr hset hosm.1)
  exact ⟨by rw [hpvt, h.beacon], by rw [hpvt]; exact h.held, by rw [hpvt, h.period, hperiod]⟩

theorem State.reperiod_eq {b : Beacon} (hb : (s.entry n).beacon = some b) (hs : (s.entry n).state ≠ .empty) :
    s.reperiod n = { s.entry n with pe := s.effectivePeriod n b } := by
  unfold State.reperiod
  dsimp only
  rw [hb]
  cases h : (s.entry n).state with
  | empty => exact absurd h hs
  | fresh => rfl
  | stale => rfl
  | phantom => rfl

/-- R8: every entry that is not EMPTY takes its new effective period at once. -/
theorem State.reperiodAll_timed {b : Beacon} (hn : 1 ≤ n ∧ n ≤ 15) (hb : (s.entry n).beacon = some b)
    (hs : (s.entry n).state ≠ .empty) : s.reperiodAll.Timed n b := by
  have hone : ∀ (v : State) (m : Nat), (v.entry n).beacon = some b ∧ (v.entry n).state ≠ .empty →
      let w := v.setEntry m (v.reperiod m)
      ((w.entry n).beacon = some b ∧ (w.entry n).state ≠ .empty) ∧ (m = n ∨ v.Timed n b → w.Timed n b) := fun v m ⟨hvb, hvs⟩ => by
    have hentry := State.entry_setEntry v m n (v.reperiod m)
    by_cases hm : m = n
    · subst hm
      rw [if_pos ⟨rfl, hn⟩, State.reperiod_eq hvb hvs] at hentry
      dsimp only
      rw [State.reperiod_eq hvb hvs]
      refine ⟨by rw [hentry]; exact ⟨hvb, hvs⟩, fun _ => ⟨by rw [hentry]; exact hvb, by rw [hentry]; exact hvs, ?_⟩⟩
      rw [hentry]
      rfl
    · rw [if_neg (fun h => hm h.1)] at hentry
      refine ⟨by rw [hentry]; exact ⟨hvb, hvs⟩, fun h => ?_⟩
      exact (h.resolve_left hm).congr hentry rfl ⟨rfl, rfl⟩
  have hall : ∀ (l : List Nat) (v : State), (v.entry n).beacon = some b ∧ (v.entry n).state ≠ .empty → n ∈ l ∨ v.Timed n b →
      (l.foldl (fun t m => t.setEntry m (t.reperiod m)) v).Timed n b := by
    intro l
    induction l with
    | nil => exact fun v _ h => h.resolve_left List.not_mem_nil
    | cons m l ih =>
      intro v hv h
      rw [List.foldl_cons]
      obtain ⟨hw, htimed⟩ := hone v m hv
      refine ih _ hw ?_
      obtain h | h := h
      · obtain rfl | h := List.mem_cons.mp h
        · exact .inr (htimed (.inl rfl))
        · exact .inl h
      · exact .inr (htimed (.inr h))
  have hmem : n ∈ stationNumbers := by
    obtain ⟨h1, h15⟩ := hn
    interval_cases n <;> decide
  exact hall _ s ⟨hb, hs⟩ (.inl hmem)

theorem State.Timed.loadOnly {b : Beacon} (h : s.Timed n b) (k : LoadOnly s t) : t.Timed n b := by
  obtain ⟨l, a, r, e⟩ := k
  rw [e]
  exact h.congr rfl rfl ⟨rfl, rfl⟩

theorem State.enterParked_timed {b : Beacon} (hn : 1 ≤ n ∧ n ≤ 15) (hb : (s.entry n).beacon = some b)
    (hs : (s.entry n).state ≠ .empty) : s.enterParked.Timed n b := by
  have h : ((s.enterOp .parked).restartDue.reperiodAll).Timed n b := State.reperiodAll_timed hn hb hs
  exact h.loadOnly ((LoadOnly.foldl LoadOnly.parkChannel _ _).trans (LoadOnly.resetCounter _))

theorem State.leaveParked_timed {b : Beacon} (hn : 1 ≤ n ∧ n ≤ 15) (hb : (s.entry n).beacon = some b)
    (hs : (s.entry n).state ≠ .empty) : s.leaveParked.Timed n b := State.reperiodAll_timed hn hb hs

theorem State.Timed.endPattern {b : Beacon} (h : s.Timed n b) (ho : s.osm.op = .pattern) : s.endPattern.Timed n b := by
  have hperiod : s.endPattern.periodInForce = s.periodInForce := by
    unfold State.periodInForce
    rw [ho]
    rfl
  exact ⟨h.beacon, h.held, h.period.trans (State.effectivePeriod_congr (s := s) (t := s.endPattern) rfl hperiod).symm⟩

/-- R8, R199: a move of the operating state of its own accord leaves the effective periods as the state gives them. -/
theorem State.Timed.autoMove {b : Beacon} (h : s.Timed n b) (hn : 1 ≤ n ∧ n ≤ 15) (ho : s.osm.op ≠ .dormant) :
    s.autoMove.Timed n b := by
  unfold State.autoMove
  split
  · split
    · exact State.enterParked_timed hn h.beacon h.held
    · exact h
  · split
    · exact State.leaveParked_timed hn h.beacon h.held
    · exact h
  · next hop =>
    split
    · exact h
    · exact h.endPattern hop
  · next hop => exact absurd hop ho
  · exact h

/-- R8: the effective period of a peer's entry after the whole of a step. -/
theorem State.Timed.react {b : Beacon} (h : u.Timed n b) (cue : Cue) (s0 : State) (hc : cue.compose = false)
    (h0 : s0.osm.op ≠ .loading ∧ s0.osm.op ≠ .dormant) (hn : 1 ≤ n ∧ n ≤ 15) (ho : u.osm.op ≠ .dormant)
    (hpeer : u.isOwn n = false) : ((State.react cue s0 u).entry n).pe =
      max (State.react cue s0 u).periodInForce (senderPeriod b) := by
  have hkept := Kept.settleBlocks cue s0 u
  have hblocks : (State.settleBlocks cue s0 u).Timed n b :=
    h.congr (by unfold State.entry; rw [hkept.pvt]) hkept.settings (by rw [hkept.osm]; exact ⟨rfl, rfl⟩)
  have hmoved : (State.settleBlocks cue s0 u).settleMove.Timed n b := by
    obtain ⟨-, e⟩ | ⟨-, e⟩ := (State.settleBlocks cue s0 u).settleMove_cases
    · rw [e]; exact hblocks
    · rw [e]
      have kept := Kept.settleBlocks noCue (State.settleBlocks cue s0 u) (State.settleBlocks cue s0 u).autoMove
      exact (hblocks.autoMove hn (by rw [hkept.osm]; exact ho)).congr (by unfold State.entry; rw [kept.pvt]) kept.settings
        (by rw [kept.osm]; exact ⟨rfl, rfl⟩)
  have hcarried := Carried.react cue s0 u
  have hne : n ≠ u.osm.number := State.ne_number hpeer (by omega)
  have hentry : (State.react cue s0 u).entry n = (State.settleBlocks cue s0 u).settleMove.entry n := by
    obtain ⟨y, ypvt, -, ynumber, hpvt, -⟩ := State.react_pvt cue s0 u hc h0
    have hfollow : y.followPoles.entry n = y.entry n := by
      unfold State.followPoles
      dsimp only
      split
      · split
        · rw [State.entry_setEntry, if_neg (fun k => hne (by rw [← k.1, ynumber]))]
        · rfl
      · rfl
    unfold State.entry at hfollow ⊢
    rw [hpvt, hfollow, ypvt]
  have hop : (State.react cue s0 u).osm.op = (State.settleBlocks cue s0 u).settleMove.osm.op := (Closed.react cue s0 u).op
  have hsettings : (State.settleBlocks cue s0 u).settleMove.settings = u.settings :=
    (Carried.settleMove _).settings.trans hkept.settings
  have hnumber : (State.settleBlocks cue s0 u).settleMove.osm.number = u.osm.number :=
    (hkept.carried.trans (Carried.settleMove _)).number
  have hperiod : (State.react cue s0 u).periodInForce = (State.settleBlocks cue s0 u).settleMove.periodInForce :=
    State.periodInForce_congr (hcarried.settings.trans hsettings.symm) hop
  have hother : (State.settleBlocks cue s0 u).settleMove.isOwn n = false := by
    unfold State.isOwn at hpeer ⊢
    rw [hnumber]
    exact hpeer
  rw [hentry, hmoved.period, hperiod]
  unfold State.effectivePeriod
  rw [hother]
  rfl

theorem State.periodInForce_eq (s : State) : s.periodInForce =
    if s.osm.op = .parked then 1000 else if s.osm.op = .faulted then 20 else s.settings.period := by
  unfold State.periodInForce
  cases s.osm.op <;> rfl

end

end Sys2Proof.Machine

/-! What the hearing of a station leaves (R2, R4, R170, R178, R193). -/

namespace Sys2Proof.Machine

section
variable {s t u : State} {n : Nat}

/-- Only the console functions and the alarm unit have changed, the alarms other stations are the source of and the conditions
of PARAM_MISMATCH not. -/
def Noted (s t : State) : Prop := (∃ f a, t = (s.withCf f).withAu a) ∧ Foreign s t ∧
  ∀ q, t.inForce .paramMismatch q = s.inForce .paramMismatch q

namespace Noted

theorem refl (s : State) : Noted s s := ⟨⟨s.cf, s.au, rfl⟩, .refl s, fun _ => rfl⟩

theorem trans (h : Noted s t) (k : Noted t u) : Noted s u := by
  obtain ⟨⟨f, a, e⟩, hf, hi⟩ := h
  obtain ⟨⟨g, b, e'⟩, kf, ki⟩ := k
  exact ⟨⟨g, b, by rw [e', e]; rfl⟩, hf.trans kf, fun q => (ki q).trans (hi q)⟩

theorem setCheck (s : State) (n : Nat) (c : PatternCheck) : Noted s (s.setCheck n c) :=
  ⟨⟨{ s.cf with checks := stationPut s.cf.checks n c }, s.au, rfl⟩, Foreign.withCf s _, fun _ => rfl⟩

theorem clearCond (s : State) {k : AlarmKind} (hk : AlarmKind.paramMismatch ≠ k) (q : Nat) : Noted s (s.clearCond k q) := by
  obtain ⟨a, ha, -⟩ := s.clearCond_only k q
  exact ⟨⟨s.cf, a, ha⟩, Foreign.clearCond k q, fun _ => State.clearCond_inForce _ _ _ _ _ (by simp [hk])⟩

theorem onset (s : State) {k : AlarmKind} (hk : AlarmKind.paramMismatch ≠ k) (q : Nat) : Noted s (s.onset k q) := by
  obtain ⟨a, ha, -⟩ := s.onset_only k q
  exact ⟨⟨s.cf, a, ha⟩, Foreign.onset k q, fun _ => by rw [State.onset_inForce]; simp [hk]⟩

theorem stationFound (s : State) (n : Nat) : Noted s (s.stationFound n) := by
  unfold State.stationFound
  split
  · exact clearCond s (by decide) n
  · exact .refl s

theorem checkPattern (s : State) (n : Nat) (p : List Byte) : Noted s (s.checkPattern n p) := by
  unfold State.checkPattern
  split
  · dsimp only
    split
    · exact (setCheck s n _).trans (clearCond _ (by decide) n)
    · exact (setCheck s n _).trans (onset _ (by decide) n)
  · exact .refl s

theorem checkBeacon (s : State) (n : Nat) (p : Bool) : Noted s (s.checkBeacon n p) := by
  unfold State.checkBeacon
  split
  · split
    · split
      · exact .refl s
      · exact setCheck s n _
    · exact (setCheck s n _).trans (clearCond _ (by decide) n)
  · exact .refl s

end Noted

/-- The state in which a beacon's entry, cuts and alarm report have been taken (R2, R10, R121, R170). -/
def State.beaconTaken (s : State) (n : Nat) (b : Beacon) : State :=
  (((s.setEntry n (s.beaconEntry n b)).judgeMismatch n).putCuts
    (applyCutList ((s.setEntry n (s.beaconEntry n b)).judgeMismatch n).cc.cuts n b.cuts)).mirrorReport n b.alarms

theorem State.takeBeacon_noted (s : State) (n : Nat) (b : Beacon) :
    ∃ x, Noted (s.beaconTaken n b) x ∧ s.takeBeacon n b = x.polesReadTable :=
  ⟨_, (Noted.stationFound (s.beaconTaken n b) n).trans (Noted.checkBeacon _ n b.pattern), rfl⟩

/-- A step that has replaced one peer's entry and leaves the operating state leaves the entry's new period as well (R8). -/
theorem State.react_entryTaken (cue : Cue) {e : Entry} {b : Beacon} (hc : cue.compose = false) (ho : s.osm.op.receives = true)
    (hn : 1 ≤ n ∧ n ≤ 15) (hpeer : s.isOwn n = false) (hb : e.beacon = some b) (hs : e.state ≠ .empty)
    (hpe : e.pe = s.effectivePeriod n b) (hpvt : u.pvt = (s.setEntry n e).pvt) (hosm : u.osm = s.osm)
    (hset : u.settings = s.settings) :
    ((State.react cue s u).entry n).agrees e ∧
    ((State.react cue s u).entry n).pe = max (if (State.react cue s u).osm.op = .parked then 1000
      else if (State.react cue s u).osm.op = .faulted then 20 else s.settings.period) (senderPeriod b) ∧
    ∀ m, m ≠ n → s.isOwn m = false → ((State.react cue s u).entry m).agrees (s.entry m) := by
  obtain ⟨hagrees, hothers⟩ := State.react_setEntry cue s hn hpeer hpvt hosm
  have hentry : u.entry n = e := by
    have h := State.entry_setEntry s n n e
    rw [if_pos ⟨rfl, hn⟩] at h
    unfold State.entry at h ⊢
    rw [hpvt, h]
  have htimed : u.Timed n b := by
    have hperiod : u.effectivePeriod n b = s.effectivePeriod n b :=
      State.effectivePeriod_congr (by rw [hosm]) (State.periodInForce_congr hset (by rw [hosm]))
    exact ⟨by rw [hentry]; exact hb, by rw [hentry]; exact hs, by rw [hentry, hperiod]; exact hpe⟩
  have hawake := OpState.receives_not ho
  have hpe := htimed.react cue s hc hawake hn (by rw [hosm]; exact hawake.2)
    (by unfold State.isOwn at hpeer ⊢; rw [hosm]; exact hpeer)
  refine ⟨hagrees, ?_, hothers⟩
  rw [hpe, State.periodInForce_eq, (Carried.react cue s u).settings, hset]

theorem State.takePattern_units (s : State) (n : Nat) (p : List Byte) :
    (s.takePattern n p).pvt = (s.setEntry n (s.patternEntry n)).pvt ∧ (s.takePattern n p).osm = s.osm ∧
      (s.takePattern n p).settings = s.settings := by
  obtain ⟨⟨c, a, hx⟩, -, -⟩ := (Noted.stationFound (s.setEntry n (s.patternEntry n)) n).trans (Noted.checkPattern _ n p)
  unfold State.takePattern
  generalize ((s.setEntry n (s.patternEntry n)).stationFound n).checkPattern n p = x at hx ⊢
  have hw := Watched.polesReadTable x
  rw [hw.pvt, hw.osm, hw.settings, hx]
  exact ⟨rfl, rfl, rfl⟩

/-- R4: PATTERN_RECEIVED. -/
theorem react_pattern (cue : Cue) (hc : cue.compose = false) (ho : s.osm.op.receives = true) (hn : 1 ≤ n ∧ n ≤ 15)
    (hpeer : s.isOwn n = false) (p : List Byte) :
    ((State.react cue s (s.takePattern n p)).entry n).agrees (s.patternEntry n) ∧
    ((State.react cue s (s.takePattern n p)).entry n).pe = max
      (if (State.react cue s (s.takePattern n p)).osm.op = .parked then 1000
        else if (State.react cue s (s.takePattern n p)).osm.op = .faulted then 20 else s.settings.period)
      (((s.entry n).beacon.map Beacon.period).getD s.settings.period) ∧
    ∀ m, m ≠ n → s.isOwn m = false → ((State.react cue s (s.takePattern n p)).entry m).agrees (s.entry m) := by
  obtain ⟨hpvt, hosm, hset⟩ := s.takePattern_units n p
  have hperiod : senderPeriod (patternForm ((s.entry n).beacon.getD s.blankBeacon)) =
      ((s.entry n).beacon.map Beacon.period).getD s.settings.period := by
    cases (s.entry n).beacon <;> rfl
  rw [← hperiod]
  generalize s.takePattern n p = u at hpvt hosm hset ⊢
  exact State.react_entryTaken cue hc ho hn hpeer rfl nofun rfl hpvt hosm hset

end

end Sys2Proof.Machine

/-! The cut list of a beacon, and what the pole watch unit leaves of the peers' cuts (R116, R121, R123). -/

namespace Sys2Proof.Machine

section
variable {s t u : State} {n : Nat}

/-! The cut list. -/

theorem applyCutList_mem {cuts : List CutEntry} {l : List CutRecord} {e : CutEntry} :
    e ∈ applyCutList cuts n l ↔ e ∈ l.foldl (fun cs r => enterCut cs n r.cause r.number) cuts ∧
      (e.origin ≠ n ∨ ∃ r ∈ l, r.cause = e.cause ∧ r.number = e.number) := by
  unfold applyCutList
  simp [List.mem_filter, List.any_eq_true]

/-- Of a peer, the cut set holds no own entry. -/
def PeerCuts (n : Nat) (cuts : List CutEntry) : Prop := ∀ e ∈ cuts, e.origin = n → e.own = false

/-- One record of a cut list that has room: the set afterwards. -/
theorem enterCut_room {cuts : List CutEntry} (h : PeerCuts n cuts) (hl : cuts.length < 8) (c : CutCause) (k : Nat) :
    PeerCuts n (enterCut cuts n c k) ∧ (enterCut cuts n c k).length ≤ cuts.length + 1 ∧
    (⟨n, c, k, false⟩ : CutEntry) ∈ enterCut cuts n c k ∧
    ∀ e ∈ cuts, e.origin ≠ n ∨ e.cause ≠ c → e ∈ enterCut cuts n c k := by
  have hnew : ∀ l : List CutEntry, (∀ e ∈ l, e ∈ cuts) → PeerCuts n (l ++ [⟨n, c, k, false⟩]) := fun l hsub e he ho => by
    obtain he | he := List.mem_append.mp he
    · exact h e (hsub e he) ho
    · rw [List.mem_singleton.mp he]
  rw [enterCut_eq cuts h c k]
  split
  · next hin => exact ⟨h, Nat.le_succ _, hin, fun e he _ => he⟩
  · split
    · refine ⟨hnew _ fun e he => (List.mem_filter.mp he).1, ?_, by simp, fun e he ho => ?_⟩
      · rw [List.length_append, List.length_singleton]
        exact Nat.succ_le_succ (List.length_filter_le _ _)
      · refine List.mem_append_left _ (List.mem_filter.mpr ⟨he, ?_⟩)
        simp only [Bool.not_eq_true', Bool.and_eq_false_iff, beq_eq_false_iff_ne]
        exact ho
    · exact ⟨hnew _ fun e he => he, by simp, by simp, fun e he _ => List.mem_append_left _ he⟩

/-- The records of a cut list of distinct causes, where the set has room for all. -/
theorem enterCuts_room (l : List CutRecord) (hp : l.Pairwise fun r q => r.cause ≠ q.cause) : ∀ cuts : List CutEntry,
    PeerCuts n cuts → cuts.length + l.length ≤ 8 →
    (l.foldl (fun cs r => enterCut cs n r.cause r.number) cuts).length ≤ cuts.length + l.length ∧
    (∀ r ∈ l, (⟨n, r.cause, r.number, false⟩ : CutEntry) ∈ l.foldl (fun cs r => enterCut cs n r.cause r.number) cuts) ∧
    ∀ e ∈ cuts, e.origin ≠ n ∨ (∀ r ∈ l, e.cause ≠ r.cause) →
      e ∈ l.foldl (fun cs r => enterCut cs n r.cause r.number) cuts := by
  induction l with
  | nil => exact fun cuts _ _ => ⟨le_rfl, nofun, fun e he _ => he⟩
  | cons r l ih =>
    intro cuts hcuts hlen
    rw [List.length_cons] at hlen
    obtain ⟨hr, hl⟩ := List.pairwise_cons.mp hp
    obtain ⟨hpeer, hroom, hin, hkeep⟩ := enterCut_room hcuts (by omega) r.cause r.number
    obtain ⟨jlen, jin, jkeep⟩ := ih hl _ hpeer (by omega)
    rw [List.foldl_cons, List.length_cons]
    refine ⟨by omega, fun q hq => ?_, fun e he ho => ?_⟩
    · obtain rfl | hq := List.mem_cons.mp hq
      · exact jkeep _ hin (.inr hr)
      · exact jin q hq
    · exact jkeep e (hkeep e he (ho.imp id fun k => k r List.mem_cons_self))
        (ho.imp id fun k q hq => k q (List.mem_cons_of_mem _ hq))

/-- R121: the cut set after a list of distinct causes, where it has room for all. -/
theorem applyCutList_room {cuts : List CutEntry} {l : List CutRecord} (hp : l.Pairwise fun r q => r.cause ≠ q.cause)
    (h : PeerCuts n cuts) (hlen : cuts.length + l.length ≤ 8) :
    (applyCutList cuts n l).length ≤ cuts.length + l.length ∧
    (∀ r ∈ l, (⟨n, r.cause, r.number, false⟩ : CutEntry) ∈ applyCutList cuts n l) ∧
    ∀ e ∈ cuts, e.origin ≠ n → e ∈ applyCutList cuts n l := by
  obtain ⟨jlen, jin, jkeep⟩ := enterCuts_room l hp cuts h hlen
  exact ⟨(List.length_filter_le _ _).trans jlen, fun r hr => applyCutList_mem.mpr ⟨jin r hr, .inr ⟨r, hr, rfl, rfl⟩⟩,
    fun e he ho => applyCutList_mem.mpr ⟨jkeep e he (.inl ho), .inl ho⟩⟩

/-- R121: a list leaves the own cuts. -/
theorem applyCutList_own (h : s.CutsOk) (hn : n ≠ s.osm.number) (l : List CutRecord) (d : CutCause) :
    ownCause (applyCutList s.cc.cuts n l) d = ownCause s.cc.cuts d := by
  have hfold : ∀ (l : List CutRecord) (cuts : List CutEntry), CutsFit s.osm.number cuts →
      CutsFit s.osm.number (l.foldl (fun cs r => enterCut cs n r.cause r.number) cuts) ∧
      ownCause (l.foldl (fun cs r => enterCut cs n r.cause r.number) cuts) d = ownCause cuts d := by
    intro l
    induction l with
    | nil => exact fun cuts hc => ⟨hc, rfl⟩
    | cons r l ih =>
      intro cuts hc
      obtain ⟨hfit, hown⟩ := ih (enterCut cuts n r.cause r.number) (hc.entered hn r.cause r.number)
      have hone := enterCut_own (s.withCc { s.cc with cuts := cuts }) n r.cause r.number (fun e he => hc.own e he) hn d
      exact ⟨hfit, hown.trans hone⟩
  obtain ⟨hlen, hkeys, hown, -, -⟩ := h
  obtain ⟨hfit, hsame⟩ := hfold l s.cc.cuts ⟨hlen, hkeys, hown⟩
  rw [← hsame]
  unfold applyCutList ownCause
  rw [List.any_filter, Bool.eq_iff_iff, List.any_eq_true, List.any_eq_true]
  refine exists_congr fun e => and_congr_right fun he => ?_
  have hkept : e.own = true → (e.origin != n) = true := fun ho => by
    have ho' := hfit.own e he
    rw [ho] at ho'
    have horigin := beq_iff_eq.mp ho'.symm
    rw [horigin]
    exact bne_iff_ne.mpr (Ne.symm hn)
  cases ho : e.own with
  | false => simp
  | true => simp [hkept ho]

/-! What the pole watch unit leaves of the peers' cuts. -/

/-- Peers' cuts of a set that another holds. -/
def KeepsPeers (a b : List CutEntry) : Prop := ∀ e ∈ a, e.own = false → e ∈ b

theorem State.releaseOwn_keepsPeers (s : State) (c : CutCause) : KeepsPeers s.cc.cuts (s.releaseOwn c).cc.cuts := by
  intro e he ho
  unfold State.releaseOwn
  split
  · exact he
  · show e ∈ (State.putCuts _ _).cc.cuts
    rw [State.putCuts_cuts]
    exact List.mem_filter.mpr ⟨he, by simp [ho]⟩

theorem State.releaseAll_keepsPeers (w : Option Pole) (l : List CutCause) (s : State) :
    KeepsPeers s.cc.cuts (l.foldl (State.releaseIf w) s).cc.cuts := by
  induction l generalizing s with
  | nil => exact fun e he _ => he
  | cons c l ih =>
    intro e he ho
    refine ih _ e ?_ ho
    unfold State.releaseIf
    split
    · exact he
    · exact s.releaseOwn_keepsPeers c e he ho

/-- Causes that are held already where they are wanted are not originated anew. -/
theorem State.originateAll_none (w : Option Pole) (l : List CutCause)
    (h : ∀ c ∈ l, s.polesHold w c = true → s.holdsCut c = true) : l.foldl (State.originateIf w) s = s := by
  induction l with
  | nil => rfl
  | cons c l ih =>
    have hone : State.originateIf w s c = s := by
      unfold State.originateIf State.originate
      split
      · next hwant => exact if_pos (h c List.mem_cons_self hwant)
      · rfl
    rw [List.foldl_cons, hone]
    exact ih fun d hd => h d (List.mem_cons_of_mem _ hd)

theorem State.originate_keepsPeers (h : s.cc.cuts.length < 8) (c : CutCause) : KeepsPeers s.cc.cuts (s.originate c).cc.cuts := by
  intro e he _
  unfold State.originate
  split
  · exact he
  · show e ∈ (State.putCuts _ _).cc.cuts
    rw [State.putCuts_cuts]
    refine List.mem_append_left _ ?_
    have hroom : ¬ 8 ≤ s.cc.cuts.length := by omega
    exact (if_neg hroom).symm ▸ he

/-- R116: where at most the SOURCE_CHANGE cut is new and there is room for it, the pole watch unit's step leaves the peers'
cuts. -/
theorem State.syncPoleCuts_keepsPeers (hl : s.cc.cuts.length < 8)
    (h : ∀ c ∈ poleCauses, c ≠ .sourceChange → s.polesHold none c = true → s.holdsCut c = true) :
    KeepsPeers s.cc.cuts (s.syncPoleCuts none).cc.cuts := by
  have hsplit : poleCauses.foldl (State.originateIf none) s = State.originateIf none s .sourceChange := by
    have hcauses : poleCauses = [.suspectPos, .suspectNeg, .dewirePos, .dewireNeg, .section_, .lowering] ++ [.sourceChange] := rfl
    have hnone := State.originateAll_none (s := s) none [.suspectPos, .suspectNeg, .dewirePos, .dewireNeg, .section_, .lowering]
      fun c hc => h c (by rw [hcauses]; exact List.mem_append_left _ hc) (by rintro rfl; exact absurd hc (by decide))
    rw [hcauses, List.foldl_append, hnone, List.foldl_cons, List.foldl_nil]
  have horiginated : KeepsPeers s.cc.cuts (State.originateIf none s .sourceChange).cc.cuts := by
    unfold State.originateIf
    split
    · exact State.originate_keepsPeers hl _
    · exact fun e he _ => he
  intro e he ho
  have hreleased := State.releaseAll_keepsPeers none poleCauses (State.originateIf none s .sourceChange) e
    (horiginated e he ho) ho
  unfold State.syncPoleCuts
  rw [hsplit]
  generalize poleCauses.foldl (State.releaseIf none) (State.originateIf none s .sourceChange) = t at hreleased
  exact hreleased

end

end Sys2Proof.Machine

/-! The peers' cuts after the pole watch unit has read the table, and after the reaction (R14, R75, R89, R116, R130). -/

namespace Sys2Proof.Machine

section
variable {s t u : State} {n : Nat}

theorem State.checkDrain_cc (s : State) : s.checkDrain.cc = s.cc := by
  have hlower : ∀ (f : PoleState → Bool) (v : State) (p : Pole), (v.lowerIf f p).cc = v.cc := fun f v p => by
    unfold State.lowerIf
    split
    · cases p <;> rfl
    · rfl
  unfold State.checkDrain State.endDrain
  split
  · rw [bothPoles, List.foldl_cons, List.foldl_cons, List.foldl_nil, hlower, hlower]
    rfl
  · rfl

/-- R75, R76: what a drain's end leaves of the unit. -/
theorem State.checkDrain_unit (s : State) : s.checkDrain.pwu.line = s.pwu.line ∧
    s.checkDrain.pwu.operation.lowers = s.pwu.operation.lowers ∧
    ∀ p, (s.checkDrain.pole p).state = .suspect → (s.pole p).state = .suspect := by
  unfold State.checkDrain
  split
  · next hd =>
    have hunit := s.endDrain_unit
    refine ⟨by rw [hunit], by rw [hunit, hd.1]; rfl, fun p hp => ?_⟩
    rw [State.endDrain_pole] at hp
    split at hp
    · cases hp
    · exact hp
  · exact ⟨rfl, rfl, fun _ h => h⟩

theorem State.updateSource_unit (s : State) : s.updateSource.pwu.pos = s.pwu.pos ∧ s.updateSource.pwu.neg = s.pwu.neg ∧
    s.updateSource.pwu.line = s.pwu.line ∧ s.updateSource.pwu.operation = s.pwu.operation ∧ s.updateSource.cc = s.cc :=
  ⟨rfl, rfl, rfl, rfl, rfl⟩

/-- R68, R85, R89: what goes before the cuts in a step of the pole watch unit leaves the cut set, the poles, and but for an end
the line state GAP and a lowering. -/
theorem State.beforeCuts_unit (s : State) : s.openLine.endDescent.updateSource.cc = s.cc ∧
    s.openLine.endDescent.updateSource.pwu.pos = s.pwu.pos ∧ s.openLine.endDescent.updateSource.pwu.neg = s.pwu.neg ∧
    (s.openLine.endDescent.updateSource.pwu.line = .gap → s.pwu.line = .gap) ∧
    (s.openLine.endDescent.updateSource.pwu.operation.lowers = true → s.pwu.operation.lowers = true) := by
  have occ := s.openLine_cc
  have opwu := s.openLine_pwu
  have dcc := s.openLine.endDescent_cc
  have dpwu := s.openLine.endDescent_pwu
  obtain ⟨upos, uneg, uline, uoperation, ucc⟩ := s.openLine.endDescent.updateSource_unit
  rw [ucc, upos, uneg, uline, uoperation]
  generalize s.openLine.endDescent = d at dcc dpwu
  generalize s.openLine = o at occ opwu dcc dpwu
  have hopos : o.pwu.pos = s.pwu.pos ∧ o.pwu.neg = s.pwu.neg ∧ o.pwu.operation = s.pwu.operation ∧
      (o.pwu.line = .gap → s.pwu.line = .gap) := by
    rw [opwu]
    split
    · exact ⟨rfl, rfl, rfl, id⟩
    · exact ⟨rfl, rfl, rfl, nofun⟩
  obtain ⟨hpos, hneg, hoperation, hline⟩ := hopos
  refine ⟨dcc.trans occ, ?_⟩
  rw [dpwu]
  split
  · exact ⟨hpos, hneg, hline, nofun⟩
  · exact ⟨hpos, hneg, hline, fun h => hoperation ▸ h⟩

/-- R14, R89: the table's change may call for the SOURCE_CHANGE cut alone. -/
theorem State.polesReadTable_keepsPeers (s : State)
    (h : s.osm.role = .pole → s.cc.cuts.length < 8 ∧
      ∀ c ∈ poleCauses, c ≠ .sourceChange → s.polesHold none c = s.holdsCut c) :
    KeepsPeers s.cc.cuts s.polesReadTable.cc.cuts := by
  unfold State.polesReadTable
  split
  · next hr =>
    obtain ⟨hlen, hheld⟩ := h (State.polesRun_role hr).1
    have hcc := s.checkDrain_cc
    obtain ⟨hline, hlowers, hsuspect⟩ := s.checkDrain_unit
    have hrun : s.checkDrain.polesRun = true := by
      unfold State.polesRun
      rw [(Watched.checkDrain s).osm]
      exact hr
    generalize s.checkDrain = z at hcc hline hlowers hsuspect hrun ⊢
    unfold State.finishPoles
    rw [if_pos hrun]
    obtain ⟨ycc, ypos, yneg, yline, ylowers⟩ := z.beforeCuts_unit
    generalize z.openLine.endDescent.updateSource = y at ycc ypos yneg yline ylowers ⊢
    have hcuts : y.cc = s.cc := ycc.trans hcc
    have yholds : ∀ c, y.holdsCut c = s.holdsCut c := fun c => by rw [State.holdsCut_eq, State.holdsCut_eq, hcuts]
    rw [← hcuts]
    refine State.syncPoleCuts_keepsPeers (by rw [hcuts]; exact hlen) fun c hc hne hwant => ?_
    rw [yholds, ← hheld c hc hne]
    cases c with
    | suspectPos =>
      have hstate : y.pwu.pos.state = .suspect := beq_iff_eq.mp hwant
      exact beq_iff_eq.mpr (hsuspect .pos (by rw [ypos] at hstate; exact hstate))
    | suspectNeg =>
      have hstate : y.pwu.neg.state = .suspect := beq_iff_eq.mp hwant
      exact beq_iff_eq.mpr (hsuspect .neg (by rw [yneg] at hstate; exact hstate))
    | dewirePos =>
      rw [hheld _ hc hne, ← yholds]
      exact (Bool.and_eq_true_iff.mp hwant).1
    | dewireNeg =>
      rw [hheld _ hc hne, ← yholds]
      exact (Bool.and_eq_true_iff.mp hwant).1
    | section_ => exact beq_iff_eq.mpr (hline ▸ yline (beq_iff_eq.mp hwant))
    | lowering => exact hlowers.symm.trans (ylowers hwant)
    | sourceChange => exact absurd rfl hne
    | driver => exact (yholds .driver).symm.trans hwant
  · exact fun e he _ => he

/-- R130: a reaction at a settled DRIVER cut leaves the cut set. -/
theorem State.react_cuts_settled (cue : Cue) (s0 : State) (ho : u.osm.op.receives = true) (hd : u.DriverSettled) :
    (State.react cue s0 u).cc.cuts = u.cc.cuts := by
  cases hs : u.osm.op.serves with
  | true =>
    have h := (State.react_afterDriver cue s0 u hs).1
    rwa [State.driverCut_settled _ hd] at h
  | false =>
    have hfaulted : u.osm.op = .faulted := by
      generalize u.osm.op = o at ho hs
      cases o with
      | faulted => rfl
      | loading => cases ho
      | maintenance => cases ho
      | dormant => cases ho
      | listening => cases hs
      | active => cases hs
      | pattern => cases hs
      | parked => cases hs
    have hpass := Pass.afterDriver cue s0 u
    rw [State.driverCut_idle hs] at hpass
    have hosm := (Kept.settleBlocks cue s0 u).osm
    rw [(Closed.react cue s0 u).cc]
    generalize State.settleBlocks cue s0 u = x at hpass hosm ⊢
    obtain ⟨-, hm⟩ | ⟨hmoves, -⟩ := x.settleMove_cases
    · rw [hm]
      exact hpass.cuts
    · refine absurd ?_ hmoves
      unfold State.autoMove
      rw [hosm, hfaulted]
      dsimp only
      rw [hosm, hfaulted]

end

end Sys2Proof.Machine

/-! The alarm report of a beacon: the mirrored alarms of its station (R170). -/

namespace Sys2Proof.Machine

section
variable {s t u : State} {n : Nat}

/-- R170: a record of a list that repeats no kind and qualifier is the first of its own. -/
theorem firstRecords_find {rs : List AlarmRecord} : ∀ {seen : List (AlarmKind × Nat)} {r : AlarmRecord},
    r ∈ firstRecords seen rs → (r.kind, r.qualifier) ∉ seen ∧
      rs.find? (fun x => x.kind == r.kind && x.qualifier == r.qualifier) = some r := by
  induction rs with
  | nil => exact fun h => absurd h List.not_mem_nil
  | cons a rs ih =>
    intro seen r h
    have hskip : (a.kind, a.qualifier) ≠ (r.kind, r.qualifier) →
        (a :: rs).find? (fun x => x.kind == r.kind && x.qualifier == r.qualifier) =
          rs.find? (fun x => x.kind == r.kind && x.qualifier == r.qualifier) := fun hne => by
      refine List.find?_cons_of_neg fun hk => hne ?_
      simp only [Bool.and_eq_true, beq_iff_eq] at hk
      rw [hk.1, hk.2]
    rw [firstRecords] at h
    split at h
    · next hseen =>
      obtain ⟨hnew, hfind⟩ := ih h
      refine ⟨hnew, (hskip fun e => hnew ?_).trans hfind⟩
      exact e ▸ List.contains_iff_mem.mp hseen
    · next hseen =>
      obtain rfl | h := List.mem_cons.mp h
      · exact ⟨fun hm => hseen (List.contains_iff_mem.mpr hm), List.find?_cons_of_pos (by simp)⟩
      · obtain ⟨hnew, hfind⟩ := ih h
        rw [List.mem_cons, not_or] at hnew
        exact ⟨hnew.2, (hskip fun e => hnew.1 e.symm).trans hfind⟩

/-- R170: every kind and qualifier of a list has its first record. -/
theorem firstRecords_all {rs : List AlarmRecord} : ∀ {seen : List (AlarmKind × Nat)} {r : AlarmRecord}, r ∈ rs →
    (r.kind, r.qualifier) ∈ seen ∨ ∃ x ∈ firstRecords seen rs, x.kind = r.kind ∧ x.qualifier = r.qualifier := by
  induction rs with
  | nil => exact fun h => absurd h List.not_mem_nil
  | cons a rs ih =>
    intro seen r h
    rw [firstRecords]
    split
    · next hseen =>
      obtain rfl | h := List.mem_cons.mp h
      · exact .inl (List.contains_iff_mem.mp hseen)
      · exact ih h
    · obtain rfl | h := List.mem_cons.mp h
      · exact .inr ⟨r, List.mem_cons_self, rfl, rfl⟩
      · obtain hm | ⟨x, hx, hk⟩ := ih (seen := (a.kind, a.qualifier) :: seen) h
        · obtain e | hm := List.mem_cons.mp hm
          · obtain ⟨hkind, hqualifier⟩ := Prod.mk.inj e
            exact .inr ⟨a, List.mem_cons_self, hkind.symm, hqualifier.symm⟩
          · exact .inl hm
        · exact .inr ⟨x, List.mem_cons_of_mem _ hx, hk⟩

theorem firstRecords_length (rs : List AlarmRecord) : ∀ seen, (firstRecords seen rs).length ≤ rs.length := by
  induction rs with
  | nil => exact fun _ => le_rfl
  | cons a rs ih =>
    intro seen
    rw [firstRecords]
    split
    · exact (ih seen).trans (Nat.le_succ _)
    · exact Nat.succ_le_succ (ih _)

/-- An entry is the mirrored one of a record's kind and qualifier. -/
def AlarmEntry.Mirrors (n : Nat) (r : AlarmRecord) (e : AlarmEntry) : Prop :=
  e.source = n ∧ e.kind = r.kind ∧ e.qualifier = r.qualifier

/-- An entry is the mirrored one of a record, in its state and with its count. -/
def AlarmEntry.Reports (n : Nat) (r : AlarmRecord) (e : AlarmEntry) : Prop :=
  e.Mirrors n r ∧ e.state = r.state ∧ e.count = max 1 r.count

theorem AlarmEntry.here_iff (n : Nat) (r : AlarmRecord) (e : AlarmEntry) :
    (e.source == n && e.kind == r.kind && e.qualifier == r.qualifier) = true ↔ e.Mirrors n r := by
  simp only [Bool.and_eq_true, beq_iff_eq, AlarmEntry.Mirrors, and_assoc]

theorem State.createMirror_mem {x e : AlarmEntry} (h : e ∈ (s.createMirror x).au.entries) :
    e ∈ s.au.entries ∨ e = { x with sequence := s.au.nextSeq } := by
  unfold State.createMirror at h
  split at h
  · split at h
    · rw [State.withAu_au, AlarmUnit.replace_entries] at h
      obtain h | h := List.mem_append.mp h
      · exact .inl (List.mem_filter.mp h).1
      · exact .inr (List.mem_singleton.mp h)
    · exact .inl h
  · obtain h | h := List.mem_append.mp h
    · exact .inl h
    · exact .inr (List.mem_singleton.mp h)

/-- R170 step 3: an entry after one record is taken. -/
theorem State.mirrorOne_mem {r : AlarmRecord} {e : AlarmEntry} (h : e ∈ (s.mirrorOne n r).au.entries) :
    (e ∈ s.au.entries ∧ ¬ e.Mirrors n r) ∨
      e.Reports n r ∧ (e.orphan = false ∨ ∃ x ∈ s.au.entries, x.source = n ∧ x.orphan = e.orphan) := by
  unfold State.mirrorOne at h
  dsimp only at h
  split at h
  · obtain ⟨x, hx, rfl⟩ := List.mem_map.mp h
    split
    · next hhere =>
      have hm := (AlarmEntry.here_iff n r x).mp hhere
      exact .inr ⟨⟨hm, rfl, rfl⟩, .inr ⟨x, hx, hm.1, rfl⟩⟩
    · next hhere => exact .inl ⟨hx, fun hm => hhere ((AlarmEntry.here_iff n r x).mpr hm)⟩
  · next hnone =>
    obtain h | rfl := State.createMirror_mem h
    · exact .inl ⟨h, fun hm => hnone (List.any_eq_true.mpr ⟨e, h, (AlarmEntry.here_iff n r e).mpr hm⟩)⟩
    · exact .inr ⟨⟨⟨rfl, rfl, rfl⟩, rfl, rfl⟩, .inl rfl⟩

/-- R170 step 3: the entries of the station after the records of a list. -/
theorem State.mirrorAll_mem (l : List AlarmRecord) : ∀ v : State, (∀ e ∈ v.au.entries, e.source = n → e.orphan = false) →
    ∀ e ∈ (l.foldl (fun t r => t.mirrorOne n r) v).au.entries, e.source = n → e.orphan = false ∧
      ((∃ r ∈ l, e.Reports n r) ∨ e ∈ v.au.entries ∧ ∀ r ∈ l, ¬ e.Mirrors n r) := by
  induction l with
  | nil => exact fun v hv e he hs => ⟨hv e he hs, .inr ⟨he, nofun⟩⟩
  | cons r l ih =>
    intro v hv e he hs
    have hone : ∀ e ∈ (v.mirrorOne n r).au.entries, e.source = n → e.orphan = false := fun e he hs => by
      obtain ⟨hin, -⟩ | ⟨-, ho | ⟨x, hx, hxs, hxo⟩⟩ := State.mirrorOne_mem he
      · exact hv e hin hs
      · exact ho
      · exact hxo.symm.trans (hv x hx hxs)
    rw [List.foldl_cons] at he
    obtain ⟨horphan, ⟨q, hq, hreports⟩ | ⟨hin, hnone⟩⟩ := ih _ hone e he hs
    · exact ⟨horphan, .inl ⟨q, List.mem_cons_of_mem _ hq, hreports⟩⟩
    · obtain ⟨hin, hnot⟩ | ⟨hreports, -⟩ := State.mirrorOne_mem hin
      · refine ⟨horphan, .inr ⟨hin, fun q hq => ?_⟩⟩
        obtain rfl | hq := List.mem_cons.mp hq
        · exact hnot
        · exact hnone q hq
      · exact ⟨horphan, .inl ⟨r, List.mem_cons_self, hreports⟩⟩

theorem State.mirrorReport_entries (s : State) (n : Nat) (rs : List AlarmRecord) : (s.mirrorReport n rs).au.entries =
    ((firstRecords [] rs).foldl (fun t r => t.mirrorOne n r) (s.withAu { s.au with
      entries := s.au.entries.filter (fun e => !unreported n (firstRecords [] rs) e) })).au.entries := by
  unfold State.mirrorReport
  dsimp only
  split <;> rfl

/-- R170: the mirrored alarms of a station after its report are those of the report's first records. -/
theorem State.mirrorReport_mem {rs : List AlarmRecord} {e : AlarmEntry} (he : e ∈ (s.mirrorReport n rs).au.entries)
    (hs : e.source = n) : e.orphan = false ∧
      ∃ r, rs.find? (fun r => r.kind == e.kind && r.qualifier == e.qualifier) = some r ∧
        e.state = r.state ∧ e.count = max 1 r.count := by
  rw [State.mirrorReport_entries] at he
  have hlisted : ∀ e ∈ s.au.entries.filter (fun e => !unreported n (firstRecords [] rs) e), e.source = n →
      e.orphan = false ∧ ∃ r ∈ firstRecords [] rs, e.Mirrors n r := fun e he hs => by
    have h := (List.mem_filter.mp he).2
    unfold unreported at h
    simp only [Bool.not_eq_true', Bool.and_eq_false_iff, Bool.or_eq_false_iff, Bool.not_eq_false', beq_eq_false_iff_ne,
      List.any_eq_true, Bool.and_eq_true, beq_iff_eq] at h
    obtain h | ⟨horphan, r, hr, hkind, hqualifier⟩ := h
    · exact absurd hs h
    · exact ⟨horphan, r, hr, hs, hkind.symm, hqualifier.symm⟩
  obtain ⟨horphan, ⟨r, hr, ⟨-, hkind, hqualifier⟩, hstate, hcount⟩ | ⟨hin, hnone⟩⟩ := State.mirrorAll_mem (firstRecords [] rs) _
    (fun e he hs => (hlisted e he hs).1) e he hs
  · refine ⟨horphan, r, ?_, hstate, hcount⟩
    rw [hkind, hqualifier]
    exact (firstRecords_find hr).2
  · obtain ⟨-, r, hr, hm⟩ := hlisted e hin hs
    exact absurd hm (hnone r hr)

/-- R172: a record for which the table has room has its entry, and none is lost. -/
theorem State.mirrorOne_room (s : State) (n : Nat) (r : AlarmRecord) (h : s.au.entries.length < 16) :
    (s.mirrorOne n r).au.entries.length ≤ s.au.entries.length + 1 ∧
    (∃ e ∈ (s.mirrorOne n r).au.entries, e.Mirrors n r) ∧
    ∀ q, (∃ e ∈ s.au.entries, e.Mirrors n q) → ∃ e ∈ (s.mirrorOne n r).au.entries, e.Mirrors n q := by
  unfold State.mirrorOne
  dsimp only
  split
  · next hany =>
    have hkeep : ∀ q, (∃ e ∈ s.au.entries, e.Mirrors n q) → ∃ e ∈ s.au.entries.map (fun e =>
        if e.source == n && e.kind == r.kind && e.qualifier == r.qualifier then { e with state := r.state, count := max 1 r.count }
        else e), e.Mirrors n q := fun q ⟨e, he, hm⟩ => by
      refine ⟨_, List.mem_map_of_mem he, ?_⟩
      split <;> exact hm
    obtain ⟨e, he, hm⟩ := List.any_eq_true.mp hany
    exact ⟨by rw [State.withAu_au, List.length_map]; exact Nat.le_succ _,
      hkeep r ⟨e, he, (AlarmEntry.here_iff n r e).mp hm⟩, hkeep⟩
  · have hroom : ¬ 16 ≤ s.au.entries.length := by omega
    unfold State.createMirror
    rw [if_neg hroom]
    refine ⟨?_, ⟨_, List.mem_append_right _ (List.mem_singleton.mpr rfl), rfl, rfl, rfl⟩, fun q ⟨e, he, hm⟩ =>
      ⟨e, List.mem_append_left _ he, hm⟩⟩
    show (s.au.entries ++ [_]).length ≤ _
    rw [List.length_append, List.length_singleton]

theorem State.mirrorAll_room (l : List AlarmRecord) : ∀ v : State, v.au.entries.length + l.length ≤ 16 →
    ∀ q, (q ∈ l ∨ ∃ e ∈ v.au.entries, e.Mirrors n q) →
      ∃ e ∈ (l.foldl (fun t r => t.mirrorOne n r) v).au.entries, e.Mirrors n q := by
  induction l with
  | nil => exact fun v _ q h => h.resolve_left List.not_mem_nil
  | cons r l ih =>
    intro v hv q h
    rw [List.length_cons] at hv
    obtain ⟨hlen, hnew, hkeep⟩ := v.mirrorOne_room n r (by omega)
    rw [List.foldl_cons]
    refine ih _ (by omega) q ?_
    obtain h | h := h
    · obtain rfl | h := List.mem_cons.mp h
      · exact .inr hnew
      · exact .inl h
    · exact .inr (hkeep q h)

/-- R170, R172: every record of a report has its entry, where the table has room for all. -/
theorem State.mirrorReport_room {rs : List AlarmRecord} (h : s.au.entries.length + rs.length ≤ 16) {r : AlarmRecord} (hr : r ∈ rs) :
    ∃ e ∈ (s.mirrorReport n rs).au.entries, e.source = n ∧ e.kind = r.kind ∧ e.qualifier = r.qualifier := by
  obtain hm | ⟨x, hx, hkind, hqualifier⟩ := firstRecords_all (seen := []) hr
  · exact absurd hm List.not_mem_nil
  have hkept := List.length_filter_le (fun e => !unreported n (firstRecords [] rs) e) s.au.entries
  have htaken := firstRecords_length rs []
  obtain ⟨e, he, hs, hk, hq⟩ := State.mirrorAll_room (n := n) (firstRecords [] rs)
    (s.withAu { s.au with entries := s.au.entries.filter (fun e => !unreported n (firstRecords [] rs) e) })
    (by rw [State.withAu_au]; dsimp only; omega) x (.inl hx)
  rw [State.mirrorReport_entries]
  exact ⟨e, he, hs, hk.trans hkind, hq.trans hqualifier⟩

end

end Sys2Proof.Machine

/-! BEACON_RECEIVED as a whole (R2, R3, R5, R8, R10, R121, R123, R170), and PATTERN_RECEIVED (R4). -/

namespace Sys2Proof.Machine

section
variable {s t u : State} {n : Nat} {b : Beacon}

/-! What a beacon leaves before the reaction. -/

theorem State.judgeMismatch_only (s : State) (n : Nat) : (∃ a, s.judgeMismatch n = s.withAu a) ∧
    (s.osm.op.alarmsTaken = true → (s.judgeMismatch n).inForce .paramMismatch n = (s.entry n).causes.any) := by
  unfold State.judgeMismatch
  split
  · next hany =>
    obtain ⟨a, ha, -⟩ := s.onset_only .paramMismatch n
    exact ⟨⟨a, ha⟩, fun ho => by rw [State.onset_inForce, ho, hany]; simp⟩
  · next hany =>
    obtain ⟨a, ha, -⟩ := s.clearCond_only .paramMismatch n
    exact ⟨⟨a, ha⟩, fun ho => by rw [State.clearCond_ends _ _ ho, Bool.eq_false_iff.mpr hany]⟩

/-- The units once a beacon's entry, cuts and report have been taken. -/
theorem State.beaconTaken_units (s : State) (b : Beacon) (hn : 1 ≤ n ∧ n ≤ 15) :
    (s.beaconTaken n b).pvt = (s.setEntry n (s.beaconEntry n b)).pvt ∧ (s.beaconTaken n b).osm = s.osm ∧
    (s.beaconTaken n b).settings = s.settings ∧ (s.beaconTaken n b).su = s.su ∧ (s.beaconTaken n b).pwu = s.pwu ∧
    (s.beaconTaken n b).cc.cuts = applyCutList s.cc.cuts n b.cuts ∧
    (s.osm.op.alarmsTaken = true → (s.beaconTaken n b).inForce .paramMismatch n = (s.causesFor n b).any) ∧
    ∀ e ∈ (s.beaconTaken n b).au.entries, e.source = n → e.orphan = false ∧
      ∃ r, b.alarms.find? (fun r => r.kind == e.kind && r.qualifier == e.qualifier) = some r ∧
        e.state = r.state ∧ e.count = max 1 r.count := by
  have hentry : (s.setEntry n (s.beaconEntry n b)).entry n = s.beaconEntry n b := by
    rw [State.entry_setEntry, if_pos ⟨rfl, hn⟩]
  obtain ⟨⟨a, ha⟩, hforce⟩ := (s.setEntry n (s.beaconEntry n b)).judgeMismatch_only n
  have hcuts : (s.setEntry n (s.beaconEntry n b)).cc = s.cc := rfl
  rw [hentry] at hforce
  have hbase : (s.setEntry n (s.beaconEntry n b)).osm = s.osm ∧ (s.setEntry n (s.beaconEntry n b)).settings = s.settings ∧
      (s.setEntry n (s.beaconEntry n b)).su = s.su ∧ (s.setEntry n (s.beaconEntry n b)).pwu = s.pwu := ⟨rfl, rfl, rfl, rfl⟩
  have hcauses : (s.beaconEntry n b).causes = s.causesFor n b := rfl
  rw [hcauses] at hforce
  unfold State.beaconTaken
  generalize s.setEntry n (s.beaconEntry n b) = p at ha hforce hcuts hbase ⊢
  have hjudged : (p.judgeMismatch n).pvt = p.pvt ∧ (p.judgeMismatch n).osm = p.osm ∧ (p.judgeMismatch n).settings = p.settings ∧
      (p.judgeMismatch n).su = p.su ∧ (p.judgeMismatch n).pwu = p.pwu ∧ (p.judgeMismatch n).cc = p.cc := by
    rw [ha]
    exact ⟨rfl, rfl, rfl, rfl, rfl, rfl⟩
  generalize p.judgeMismatch n = j at hforce hjudged ⊢
  obtain ⟨jpvt, josm, jset, jsu, jpwu, jcc⟩ := hjudged
  obtain ⟨posm, pset, psu, ppwu⟩ := hbase
  have hkept := Kept.putCuts j (applyCutList j.cc.cuts n b.cuts)
  have hheld := State.putCuts_cuts j (applyCutList j.cc.cuts n b.cuts)
  rw [jcc, hcuts] at hkept hheld ⊢
  generalize j.putCuts (applyCutList s.cc.cuts n b.cuts) = c at hkept hheld ⊢
  have hreport := fun e he hs => State.mirrorReport_mem (s := c) (n := n) (rs := b.alarms) (e := e) he hs
  obtain ⟨m, hm, hi⟩ := c.mirrorReport_only n b.alarms
  rw [hm] at hreport ⊢
  refine ⟨hkept.pvt.trans jpvt, (hkept.osm.trans josm).trans posm, (hkept.settings.trans jset).trans pset,
    (hkept.su.trans jsu).trans psu, (hkept.pwu.trans jpwu).trans ppwu, hheld, fun ho => ?_, hreport⟩
  have hmirrored : (c.withAu m).inForce .paramMismatch n = c.inForce .paramMismatch n :=
    congrArg (fun l => l.contains (AlarmKind.paramMismatch, n)) hi
  rw [hmirrored, hkept.inForce_of .paramMismatch n rfl]
  exact hforce (by rw [posm]; exact ho)

theorem State.checkDrain_au (s : State) : s.checkDrain.au = s.au := by
  have hlower : ∀ (f : PoleState → Bool) (v : State) (p : Pole), (v.lowerIf f p).au = v.au := fun f v p => by
    unfold State.lowerIf
    split
    · cases p <;> rfl
    · rfl
  unfold State.checkDrain State.endDrain
  split
  · rw [bothPoles, List.foldl_cons, List.foldl_cons, List.foldl_nil, hlower, hlower]
    rfl
  · rfl

theorem State.polesReadTable_mismatch (s : State) (q : Nat) :
    s.polesReadTable.inForce .paramMismatch q = s.inForce .paramMismatch q := by
  unfold State.polesReadTable
  split
  · rw [State.finishPoles_inForce none s.checkDrain .paramMismatch q (by simp [poleCondition, blockCondition])]
    unfold State.inForce
    rw [State.checkDrain_au]
  · rfl

/-- R92: at another station than the pole station no rule of the pole watch unit runs. -/
theorem State.polesReadTable_other (h : s.osm.role ≠ .pole) : s.polesReadTable = s :=
  if_neg fun k => h (State.polesRun_role k).1

/-- The units once a beacon has been taken. -/
theorem State.takeBeacon_units (s : State) (b : Beacon) (hn : 1 ≤ n ∧ n ≤ 15) (hpeer : n ≠ s.osm.number) :
    (s.takeBeacon n b).pvt = (s.setEntry n (s.beaconEntry n b)).pvt ∧ (s.takeBeacon n b).osm = s.osm ∧
    (s.takeBeacon n b).settings = s.settings ∧
    (s.osm.op.alarmsTaken = true → (s.takeBeacon n b).inForce .paramMismatch n = (s.causesFor n b).any) ∧
    (∀ e ∈ (s.takeBeacon n b).cc.cuts, e.origin = n → ∃ r ∈ b.cuts, r.cause = e.cause ∧ r.number = e.number) ∧
    ∀ e ∈ (s.takeBeacon n b).au.entries, e.source = n → e.orphan = false ∧
      ∃ r, b.alarms.find? (fun r => r.kind == e.kind && r.qualifier == e.qualifier) = some r ∧
        e.state = r.state ∧ e.count = max 1 r.count := by
  obtain ⟨bpvt, bosm, bset, -, -, bcuts, bforce, bmirrored⟩ := s.beaconTaken_units b hn
  obtain ⟨x, ⟨⟨f, a, hx⟩, hforeign, hforce⟩, htake⟩ := s.takeBeacon_noted n b
  rw [htake]
  have hw := Watched.polesReadTable x
  have hf := hforeign.trans (Foreign.polesReadTable (s := x))
  have hmismatch := (x.polesReadTable_mismatch n).trans (hforce n)
  generalize x.polesReadTable = u at hw hf hmismatch
  have hxunits : x.pvt = (s.beaconTaken n b).pvt ∧ x.osm = (s.beaconTaken n b).osm ∧ x.settings = (s.beaconTaken n b).settings := by
    rw [hx]
    exact ⟨rfl, rfl, rfl⟩
  obtain ⟨xpvt, xosm, xset⟩ := hxunits
  refine ⟨(hw.pvt.trans xpvt).trans bpvt, (hw.osm.trans xosm).trans bosm, (hw.settings.trans xset).trans bset,
    fun ho => hmismatch.trans (bforce ho), fun e he ho => ?_, fun e he hs => ?_⟩
  · have h := hf.cuts e he (by rw [ho, bosm]; exact hpeer)
    rw [bcuts] at h
    exact (applyCutList_mem.mp h).2.resolve_left fun hne => hne ho
  · exact bmirrored e (hf.alarms e he (by rw [hs, bosm]; exact hpeer)) hs

/-- R121, R123: the cuts once a beacon has been taken, where the set has room for all it lists. -/
theorem State.takeBeacon_cuts (s : State) (b : Beacon) (hn : 1 ≤ n ∧ n ≤ 15) (hpeer : n ≠ s.osm.number) (hok : s.CutsOk)
    (hd : s.DriverSettled) (hp : b.cuts.Pairwise fun r q => r.cause ≠ q.cause)
    (hroom : s.osm.role ≠ .pole ∧ s.cc.cuts.length + b.cuts.length ≤ 8 ∨
      s.osm.role = .pole ∧ s.cc.cuts.length + b.cuts.length ≤ 7 ∧
        ∀ c ∈ poleCauses, c ≠ .sourceChange → s.polesHold none c = s.holdsCut c) :
    (s.takeBeacon n b).DriverSettled ∧
    (∀ r ∈ b.cuts, (⟨n, r.cause, r.number, false⟩ : CutEntry) ∈ (s.takeBeacon n b).cc.cuts) ∧
    ∀ e ∈ s.cc.cuts, e.origin ≠ n → (s.osm.role = .pole → e.own = false) → e ∈ (s.takeBeacon n b).cc.cuts := by
  obtain ⟨-, bosm, -, bsu, bpwu, bcuts, -, -⟩ := s.beaconTaken_units b hn
  obtain ⟨x, ⟨⟨f, a, hx⟩, -, -⟩, htake⟩ := s.takeBeacon_noted n b
  have hxunits : x.osm = s.osm ∧ x.su = s.su ∧ x.pwu = s.pwu ∧ x.cc.cuts = applyCutList s.cc.cuts n b.cuts := by
    rw [hx]
    exact ⟨bosm, bsu, bpwu, bcuts⟩
  obtain ⟨xosm, xsu, xpwu, xcuts⟩ := hxunits
  have hholds : ∀ c, x.holdsCut c = s.holdsCut c := fun c => by
    rw [State.holdsCut_eq, State.holdsCut_eq, xcuts, applyCutList_own hok hpeer]
  have hpeers : PeerCuts n s.cc.cuts := hok.peerOwn hpeer
  have hsettled : x.DriverSettled := fun hr ho => by
    have h := hd (by rw [← xosm]; exact hr) (by rw [← xosm]; exact ho)
    unfold State.din
    rw [hholds, xsu]
    exact h
  obtain ⟨jlen, jin, jkeep⟩ := applyCutList_room hp hpeers (by obtain h | h := hroom <;> omega)
  rw [htake]
  rw [← xcuts] at jlen jin jkeep
  obtain ⟨hr, -⟩ | ⟨hr, hlen, hheld⟩ := hroom
  · rw [State.polesReadTable_other (by rw [xosm]; exact hr)]
    exact ⟨hsettled, jin, fun e he ho _ => jkeep e he ho⟩
  · have hkeeps := x.polesReadTable_keepsPeers fun _ => ⟨by omega, fun c hc hne => by
      rw [State.polesHold_congr none c xpwu (hholds c), hholds, hheld c hc hne]⟩
    refine ⟨fun hconsole => ?_, fun r hrec => hkeeps _ (jin r hrec) rfl, fun e he ho hown => hkeeps e (jkeep e he ho) (hown hr)⟩
    rw [(Watched.polesReadTable x).osm, xosm, hr] at hconsole
    cases hconsole

/-! The whole step. -/

/-- R3, Table 1-2: the contents of a received beacon as they are stored. -/
theorem storedForm_eq (b : Beacon) : storedForm b = { b with
    part := match b.part with
      | .traction v => .traction (min 1023 v)
      | .auxiliary => .auxiliary
      | .battery d a => .battery d a
      | .pole p => .pole { p with
          voltage := min 1023 p.voltage, posCount := min 15 p.posCount, negCount := min 15 p.negCount }
      | .console c => .console { c with heat := min 8 c.heat }
    period := if b.period = 10 ∨ b.period = 20 ∨ b.period = 50 then b.period else 50
    draw := min 400 b.draw
    regenRequest := min 400 b.regenRequest
    regen := min 400 b.regen
    sink := min 1600 b.sink
    claims := b.claims.map (fun c => ⟨c.cls, min 400 c.demand, min c.floor (min 400 c.demand)⟩) } := by
  have hperiod : (if periodKnown b.period then b.period else 50) =
      if b.period = 10 ∨ b.period = 20 ∨ b.period = 50 then b.period else 50 := if_congr decide_eq_true_iff rfl rfl
  unfold storedForm
  rw [hperiod]
  have hpart : storedPart b.part = match b.part with
      | .traction v => .traction (min 1023 v)
      | .auxiliary => .auxiliary
      | .battery d a => .battery d a
      | .pole p => .pole { p with
          voltage := min 1023 p.voltage, posCount := min 15 p.posCount, negCount := min 15 p.negCount }
      | .console c => .console { c with heat := min 8 c.heat } := by
    cases b.part <;> rfl
  rw [hpart]
  rfl

theorem senderPeriod_stored (b : Beacon) : senderPeriod (storedForm b) =
    if b.op = .parked then 1000 else if b.period = 10 ∨ b.period = 20 ∨ b.period = 50 then b.period else 50 := by
  unfold senderPeriod
  rw [storedForm_eq]

/-- R10: the causes a beacon shows. -/
theorem State.causesFor_iff (s : State) (n : Nat) (b : Beacon) :
    ((s.causesFor n b).paramSet = true ↔ s.osm.op ≠ .faulted ∧ b.paramSet ≠ s.settings.paramSet) ∧
    ((s.causesFor n b).period = true ↔ s.osm.op ≠ .faulted ∧
      (b.period ≠ s.settings.period ∨ ¬ (b.period = 10 ∨ b.period = 20 ∨ b.period = 50))) ∧
    ((s.causesFor n b).role = true ↔ s.osm.op ≠ .faulted ∧
      (n = s.settings.poleStation ∧ b.part.role ≠ .pole ∨ n = s.settings.consoleStation ∧ b.part.role ≠ .console ∨
        b.part.role = .pole ∧ n ≠ s.settings.poleStation ∨ b.part.role = .console ∧ n ≠ s.settings.consoleStation)) := by
  unfold State.causesFor
  split
  · next h => simp [noCauses, h]
  · next h => simp [h, periodKnown, or_assoc]

theorem Causes.any_iff (c : Causes) : c.any = true ↔ c ≠ ⟨false, false, false⟩ := by
  obtain ⟨p, q, r⟩ := c
  cases p <;> cases q <;> cases r <;> decide

end

end Sys2Proof.Machine

/-! BEACON_RECEIVED and PATTERN_RECEIVED settled (R2 to R5, R8, R10, R121, R123, R170). -/

namespace Sys2Proof.Machine

section
variable {s : State} {n : Nat} {b : Beacon}

theorem State.patternEntry_beacon (s : State) (n : Nat) :
    (s.patternEntry n).beacon = some (patternForm ((s.entry n).beacon.getD s.blankBeacon)) := rfl

/-- R2: what a beacon and the reaction to it leave of the entries. -/
theorem react_beacon_entries (cue : Cue) (hc : cue.compose = false) (ho : s.osm.op.receives = true) (hn : 1 ≤ n ∧ n ≤ 15)
    (hpeer : s.isOwn n = false) :
    ((State.react cue s (s.takeBeacon n b)).entry n).agrees (s.beaconEntry n b) ∧
    ((State.react cue s (s.takeBeacon n b)).entry n).pe = max
      (if (State.react cue s (s.takeBeacon n b)).osm.op = .parked then 1000
        else if (State.react cue s (s.takeBeacon n b)).osm.op = .faulted then 20 else s.settings.period)
      (if b.op = .parked then 1000 else if b.period = 10 ∨ b.period = 20 ∨ b.period = 50 then b.period else 50) ∧
    ∀ m, m ≠ n → s.isOwn m = false → ((State.react cue s (s.takeBeacon n b)).entry m).agrees (s.entry m) := by
  obtain ⟨hpvt, hosm, hset, -, -, -⟩ := s.takeBeacon_units b hn (State.ne_number hpeer (by omega))
  rw [← senderPeriod_stored]
  generalize s.takeBeacon n b = u at hpvt hosm hset ⊢
  exact State.react_entryTaken cue hc ho hn hpeer rfl nofun rfl hpvt hosm hset

/-- R10, R121, R170: what a beacon and the reaction to it leave of the conditions, the cuts and the alarms. -/
theorem react_beacon_lists (cue : Cue) (ho : s.osm.op.receives = true) (hn : 1 ≤ n ∧ n ≤ 15) (hpeer : s.isOwn n = false) :
    (s.osm.op.alarmsTaken = true →
      (State.react cue s (s.takeBeacon n b)).inForce .paramMismatch n = (s.causesFor n b).any) ∧
    (∀ e ∈ (State.react cue s (s.takeBeacon n b)).cc.cuts, e.origin = n →
      ∃ r ∈ b.cuts, r.cause = e.cause ∧ r.number = e.number) ∧
    (s.CutsOk → s.DriverSettled → b.cuts.Pairwise (fun r q => r.cause ≠ q.cause) →
      (s.osm.role ≠ .pole ∧ s.cc.cuts.length + b.cuts.length ≤ 8 ∨
        s.osm.role = .pole ∧ s.cc.cuts.length + b.cuts.length ≤ 7 ∧
          ∀ c ∈ poleCauses, c ≠ .sourceChange → s.polesHold none c = s.holdsCut c) →
      (∀ r ∈ b.cuts, (⟨n, r.cause, r.number, false⟩ : CutEntry) ∈ (State.react cue s (s.takeBeacon n b)).cc.cuts) ∧
        ∀ e ∈ s.cc.cuts, e.origin ≠ n → (s.osm.role = .pole → e.own = false) →
          e ∈ (State.react cue s (s.takeBeacon n b)).cc.cuts) ∧
    ∀ e ∈ (State.react cue s (s.takeBeacon n b)).au.entries, e.source = n → e.orphan = false ∧
      ∃ r, b.alarms.find? (fun r => r.kind == e.kind && r.qualifier == e.qualifier) = some r ∧
        e.state = r.state ∧ e.count = max 1 r.count := by
  have hne : n ≠ s.osm.number := State.ne_number hpeer (by omega)
  have hroom := s.takeBeacon_cuts b hn hne
  obtain ⟨-, hosm, -, hforce, hcuts, halarms⟩ := s.takeBeacon_units b hn hne
  generalize s.takeBeacon n b = u at hroom hosm hforce hcuts halarms ⊢
  have hforeign := Foreign.react cue s u
  have hother : n ≠ u.osm.number := by rw [hosm]; exact hne
  refine ⟨fun ha => (State.react_inForce cue s u .paramMismatch n rfl).trans (hforce ha), fun e he horigin => ?_,
    fun hok hd hp hr => ?_, fun e he hsource => ?_⟩
  · exact hcuts e (hforeign.cuts e he (by rw [horigin]; exact hother)) horigin
  · obtain ⟨hsettled, hin, hkeep⟩ := hroom hok hd hp hr
    rw [State.react_cuts_settled cue s (by rw [hosm]; exact ho) hsettled]
    exact ⟨hin, hkeep⟩
  · exact halarms e (hforeign.alarms e he (by rw [hsource]; exact hother)) hsource

end

/-- Settles O32: PATTERN_RECEIVED by its entry alone, BEACON_RECEIVED by its entry, and by its lists, each followed from the
taking of the frame through the reaction. -/
theorem beaconAndPatternAreStored : Obligations.BeaconAndPatternAreStored := by
  refine ⟨fun f n p s ho hk hf hpeer => ⟨_, rfl, ?_⟩, fun f n b s ho hk hf hpeer => ⟨_, rfl, ?_⟩⟩
  · have hrange : 1 ≤ n ∧ n ≤ 15 := checkFrame_range hf
    have hown : s.isOwn (Received.pattern n p).station = false := hpeer
    rw [State.receive_eq s 4 f _ _ ho (by rw [hk]; rfl) hf, hown, if_neg Bool.false_ne_true]
    dsimp only
    obtain ⟨⟨hstate, hage, hphantom, hcauses, hbeacon⟩, hpe, hothers⟩ :=
      react_pattern (s.frameCue (.pattern n p)) rfl ho hrange hpeer p
    refine ⟨hstate, hage, hphantom, fun b hb => ?_, fun hb => ?_, hcauses, hpe, hothers⟩
    · rw [hbeacon, State.patternEntry_beacon, hb]
      rfl
    · rw [hbeacon, State.patternEntry_beacon, hb]
      rfl
  · have hrange : 1 ≤ n ∧ n ≤ 15 := checkFrame_range hf
    have hown : s.isOwn (Received.beacon n b).station = false := hpeer
    rw [State.receive_eq s 0 f _ _ ho (by rw [hk]; rfl) hf, hown, if_neg Bool.false_ne_true]
    dsimp only
    have hcue : (s.frameCue (.beacon n b)).compose = false := by
      have hdef : s.frameCue (.beacon n b) = if s.isOwn n then noCue else entryCue (applyCutList s.cc.cuts n b.cuts) := rfl
      rw [hdef]
      split <;> rfl
    generalize s.frameCue (.beacon n b) = cue at hcue ⊢
    obtain ⟨⟨hstate, hage, hphantom, hcauses, hbeacon⟩, hpe, hothers⟩ := react_beacon_entries (b := b) cue hcue ho hrange hpeer
    obtain ⟨hforce, hcuts, hroom, halarms⟩ := react_beacon_lists (b := b) cue ho hrange hpeer
    have hbecauses : (s.beaconEntry n b).causes = s.causesFor n b := rfl
    obtain ⟨hset, hperiod, hrole⟩ := s.causesFor_iff n b
    rw [hbecauses] at hcauses
    rw [hcauses]
    exact ⟨hstate, hage, hphantom, hset, hperiod, hrole, fun ha => by rw [hforce ha]; exact Causes.any_iff _,
      hbeacon.trans (congrArg some (storedForm_eq b)), hpe, hothers, fun _ => hcuts, hroom, halarms,
      fun hlen r hr => State.mirrorReport_room hlen hr⟩

end Sys2Proof.Machine

/-! What a sample makes of the pole records, pole by pole (R71, R72, R78, R80, R91, R95, R97, R102, R104). -/

namespace Sys2Proof.Machine

section
variable {s t u : State}

/-- Of what the pole watch unit reads and writes only the pole records differ, and the alarms. -/
structure PoleLocal (s t : State) : Prop where
  settings : t.settings = s.settings
  osm : t.osm = s.osm
  su : t.su = s.su
  pvt : t.pvt = s.pvt
  cf : t.cf = s.cf
  cc : t.cc = s.cc
  unit : t.pwu = { s.pwu with pos := t.pwu.pos, neg := t.pwu.neg }

namespace PoleLocal

theorem refl (s : State) : PoleLocal s s := ⟨rfl, rfl, rfl, rfl, rfl, rfl, rfl⟩

theorem trans (h : PoleLocal s t) (k : PoleLocal t u) : PoleLocal s u :=
  ⟨k.settings.trans h.settings, k.osm.trans h.osm, k.su.trans h.su, k.pvt.trans h.pvt, k.cf.trans h.cf, k.cc.trans h.cc,
    k.unit.trans (by rw [h.unit])⟩

theorem setPole (s : State) (p : Pole) (r : PoleRecord) : PoleLocal s (s.setPole p r) := by
  cases p <;> exact ⟨rfl, rfl, rfl, rfl, rfl, rfl, rfl⟩

theorem onset (s : State) (k : AlarmKind) (q : Nat) : PoleLocal s (s.onset k q) := by
  obtain ⟨a, ha, -⟩ := s.onset_only k q
  rw [ha]
  exact ⟨rfl, rfl, rfl, rfl, rfl, rfl, rfl⟩

theorem ite {p : Prop} [Decidable p] (h : PoleLocal s t) (k : PoleLocal s u) : PoleLocal s (if p then t else u) := by
  split <;> assumption

/-- The readings of a pole and the window about a height are of what is left. -/
theorem elevation (h : PoleLocal s t) (p : Pole) : t.elevation p = s.elevation p := by
  unfold State.elevation State.ain
  rw [h.su]

end PoleLocal

/-- R99: a pole at a wire-height reference is in window on the latest sample and the present rope trip. -/
def State.windowAt (s : State) (p : Pole) (height : Nat) : Bool :=
  decide (s.elevation p ≤ height + s.settings.erise) && decide (height ≤ s.elevation p + s.settings.efall) &&
    decide (s.lateral p ≤ s.lateralLimit) && !s.ropeTrip p

theorem State.inWindowOf_eq (s : State) (p : Pole) : s.inWindowOf p = s.windowAt p (s.pole p).height := rfl

theorem State.specialRead_congr (hset : t.settings = s.settings) (hosm : t.osm = s.osm) (hpvt : t.pvt = s.pvt)
    (hcf : t.cf = s.cf) : t.specialRead = s.specialRead := by
  unfold State.specialRead
  rw [hset, hosm, hpvt, hcf]

theorem State.windowAt_congr (hset : t.settings = s.settings) (hosm : t.osm = s.osm) (hsu : t.su = s.su) (hpvt : t.pvt = s.pvt)
    (hcf : t.cf = s.cf) : t.windowAt = s.windowAt := by
  have hspecial := State.specialRead_congr hset hosm hpvt hcf
  funext p height
  unfold State.windowAt State.lateralLimit State.elevation State.lateral State.ropeTrip State.ain State.din
  rw [hspecial, hset, hsu]

theorem PoleLocal.windowAt (h : PoleLocal s t) : t.windowAt = s.windowAt :=
  State.windowAt_congr h.settings h.osm h.su h.pvt h.cf

/-- A rule that is applied to each pole in turn and changes the record of that pole alone. -/
theorem State.eachPole {f : State → Pole → State} {g : State → Pole → PoleRecord → PoleRecord}
    (hl : ∀ v p, PoleLocal v (f v p)) (hf : ∀ v p q, (f v p).pole q = if p = q then g v q (v.pole q) else v.pole q)
    (hg : ∀ v w, PoleLocal v w → g w = g v) (s : State) :
    PoleLocal s (bothPoles.foldl f s) ∧ ∀ q, (bothPoles.foldl f s).pole q = g s q (s.pole q) := by
  have hfold : bothPoles.foldl f s = f (f s .pos) .neg := rfl
  rw [hfold]
  refine ⟨(hl s .pos).trans (hl _ .neg), fun q => ?_⟩
  rw [hf, hf, hg _ _ (hl s .pos)]
  cases q <;> simp

/-! The rules, record by record. -/

/-- R78, R80: the record of a pole that is pulled down, or that rose when stowed. -/
def PoleRecord.fallen (c : Settings) (elevation : Nat) (r : PoleRecord) : PoleRecord :=
  if r.state.falling && decide (elevation < c.ehook) then r.enter (if c.nlock ≤ r.count then .lockedOut else .stowed)
  else if r.state == .stowed && decide (c.ehook < elevation) then r.enter .lowering
  else r

/-- R71: the record of a rising pole that clears its hook. -/
def PoleRecord.sought (c : Settings) (elevation : Nat) (r : PoleRecord) : PoleRecord :=
  if r.state == .raising && decide (c.ehook < elevation) then r.enter .seeking else r

/-- R76, R102, R104: the record of a pole whose window is judged. -/
def State.windowed (s : State) (p : Pole) (r : PoleRecord) : PoleRecord :=
  if r.state = .onWire then (if s.windowAt p r.height then r else r.enter .suspect)
  else if r.state = .suspect then
    (if s.windowAt p r.height && decide (s.settings.vsection ≤ s.ain 0) then
      (if s.pwu.operation = .lowerDescent then (r.returned s.osm.uptime).enter .lowering else r.returned s.osm.uptime)
    else r)
  else r

theorem State.judgeWindow_eq (s : State) (p : Pole) : s.judgeWindow p =
    if (s.pole p).state = .onWire then (if s.windowAt p (s.pole p).height then s else s.enterPole p .suspect)
    else if (s.pole p).state = .suspect then
      (if s.windowAt p (s.pole p).height && decide (s.settings.vsection ≤ s.ain 0) then s.returnPole p else s)
    else s := by
  unfold State.judgeWindow
  rw [State.inWindowOf_eq]
  cases (s.pole p).state <;> rfl

theorem State.fallPoles_pole (s : State) : PoleLocal s (bothPoles.foldl State.fallPole s) ∧
    ∀ q, (bothPoles.foldl State.fallPole s).pole q = (s.pole q).fallen s.settings (s.elevation q) := by
  refine State.eachPole (g := fun v q r => r.fallen v.settings (v.elevation q)) (fun v p => ?_) (fun v p q => ?_)
    (fun v w h => ?_) s
  · unfold State.fallPole
    dsimp only
    split
    · split
      · exact (PoleLocal.setPole v p _).trans (PoleLocal.onset _ _ _)
      · exact PoleLocal.setPole v p _
    · split
      · exact PoleLocal.setPole v p _
      · exact .refl v
  · unfold State.fallPole PoleRecord.fallen
    dsimp only
    by_cases hpq : p = q
    · subst hpq
      rw [if_pos rfl]
      split
      · split
        · rw [State.onset_pole, State.pole_enterPole, if_pos rfl]
        · rw [State.pole_enterPole, if_pos rfl]
      · split
        · rw [State.pole_enterPole, if_pos rfl]
        · rfl
    · rw [if_neg hpq]
      split
      · split
        · rw [State.onset_pole, State.pole_enterPole, if_neg hpq]
        · rw [State.pole_enterPole, if_neg hpq]
      · split
        · rw [State.pole_enterPole, if_neg hpq]
        · rfl
  · funext q r
    rw [h.settings, h.elevation]

theorem State.seekPoles_pole (s : State) : PoleLocal s (bothPoles.foldl State.seekPole s) ∧
    ∀ q, (bothPoles.foldl State.seekPole s).pole q = (s.pole q).sought s.settings (s.elevation q) := by
  refine State.eachPole (g := fun v q r => r.sought v.settings (v.elevation q)) (fun v p => ?_) (fun v p q => ?_)
    (fun v w h => ?_) s
  · unfold State.seekPole
    split
    · exact PoleLocal.setPole v p _
    · exact .refl v
  · unfold State.seekPole PoleRecord.sought
    by_cases hpq : p = q
    · subst hpq
      rw [if_pos rfl]
      split
      · rw [State.pole_enterPole, if_pos rfl]
      · rfl
    · rw [if_neg hpq]
      split
      · rw [State.pole_enterPole, if_neg hpq]
      · rfl
  · funext q r
    rw [h.settings, h.elevation]

theorem PoleLocal.returnPole (s : State) (p : Pole) : PoleLocal s (s.returnPole p) := by
  unfold State.returnPole
  exact (PoleLocal.ite ((PoleLocal.setPole s p _).trans (PoleLocal.onset _ _ _)) (PoleLocal.setPole s p _)).trans
    (PoleLocal.ite (PoleLocal.setPole _ p _) (.refl _))

theorem State.judgeWindows_pole (s : State) : PoleLocal s (bothPoles.foldl State.judgeWindow s) ∧
    ∀ q, (bothPoles.foldl State.judgeWindow s).pole q = s.windowed q (s.pole q) := by
  refine State.eachPole (g := State.windowed) (fun v p => ?_) (fun v p q => ?_) (fun v w h => ?_) s
  · rw [State.judgeWindow_eq]
    exact .ite (.ite (.refl v) (PoleLocal.setPole v p _)) (.ite (.ite (PoleLocal.returnPole v p) (.refl v)) (.refl v))
  · rw [State.judgeWindow_eq]
    unfold State.windowed
    by_cases hpq : p = q
    · subst hpq
      rw [if_pos rfl]
      split
      · split
        · rfl
        · rw [State.pole_enterPole, if_pos rfl]
      · split
        · split
          · rw [State.returnPole_pole, if_pos rfl]
          · rfl
        · rfl
    · rw [if_neg hpq]
      split
      · split
        · rfl
        · rw [State.pole_enterPole, if_neg hpq]
      · split
        · split
          · rw [State.returnPole_pole, if_neg hpq]
          · rfl
        · rfl
  · funext q r
    have hain : w.ain 0 = v.ain 0 := by unfold State.ain; rw [h.su]
    have hoperation : w.pwu.operation = v.pwu.operation := by rw [h.unit]
    unfold State.windowed
    rw [h.windowAt, h.settings, hain, hoperation, h.osm]

/-- R72, R96: the records of two poles that make contact. -/
theorem State.contactPoles_pole (s : State) : PoleLocal s (bothPoles.foldl State.contactPole s) ∧
    ∀ q, (bothPoles.foldl State.contactPole s).pole q =
      { (s.pole q).enter .onWire with height := s.elevation q, forgive := 0 } := by
  refine State.eachPole (f := State.contactPole) (g := fun v q r => { r.enter .onWire with height := v.elevation q, forgive := 0 })
    (fun v p => PoleLocal.setPole v p _) (fun v p q => ?_) (fun v w h => ?_) s
  · unfold State.contactPole
    rw [State.pole_setPole]
    by_cases hpq : p = q
    · subst hpq
      rfl
    · rw [if_neg hpq, if_neg hpq]
  · funext q r
    rw [h.elevation]

/-- R91: the records of the poles at their first sample. -/
theorem State.placeEach_pole (s : State) : PoleLocal s (bothPoles.foldl State.placePole s) ∧
    ∀ q, (bothPoles.foldl State.placePole s).pole q =
      (s.pole q).enter (if s.elevation q < s.settings.ehook then .stowed else .lowering) := by
  refine State.eachPole (f := State.placePole) (g := fun v q r => r.enter (if v.elevation q < v.settings.ehook then .stowed else .lowering))
    (fun v p => PoleLocal.setPole v p _) (fun v p q => ?_) (fun v w h => ?_) s
  · unfold State.placePole
    rw [State.pole_enterPole]
    by_cases hpq : p = q
    · subst hpq
      rfl
    · rw [if_neg hpq, if_neg hpq]
  · funext q r
    rw [h.elevation, h.settings]

/-- R95: the records of the poles as the elevations of a sample join them. -/
theorem State.takeEach_pole (s : State) : PoleLocal s (bothPoles.foldl State.takeElevation s) ∧
    ∀ q, ∃ l, (bothPoles.foldl State.takeElevation s).pole q = { s.pole q with samples := l } := by
  have h := State.eachPole (f := State.takeElevation)
    (g := fun v q r => { r with samples := (r.samples ++ [v.elevation q]).drop ((r.samples ++ [v.elevation q]).length - 16) })
    (fun v p => PoleLocal.setPole v p _) (fun v p q => ?_) (fun v w h => ?_) s
  · exact ⟨h.1, fun q => ⟨_, h.2 q⟩⟩
  · unfold State.takeElevation
    dsimp only
    rw [State.pole_setPole]
    by_cases hpq : p = q
    · subst hpq
      rfl
    · rw [if_neg hpq, if_neg hpq]
  · funext q r
    rw [h.elevation]

end

end Sys2Proof.Machine

/-! What a sample makes of the pole watch unit before its step ends (R71 to R73, R86 to R90, R102, R104). -/

namespace Sys2Proof.Machine

section
variable {s t u m : State}

/-- What of the rest of the station the rules of the pole watch unit read is the same, and the cuts are. -/
structure PoleEnv (s t : State) : Prop where
  settings : t.settings = s.settings
  osm : t.osm = s.osm
  su : t.su = s.su
  pvt : t.pvt = s.pvt
  cf : t.cf = s.cf
  cc : t.cc = s.cc

namespace PoleEnv

theorem refl (s : State) : PoleEnv s s := ⟨rfl, rfl, rfl, rfl, rfl, rfl⟩

theorem trans (h : PoleEnv s t) (k : PoleEnv t u) : PoleEnv s u :=
  ⟨k.settings.trans h.settings, k.osm.trans h.osm, k.su.trans h.su, k.pvt.trans h.pvt, k.cf.trans h.cf, k.cc.trans h.cc⟩

theorem ite {p : Prop} [Decidable p] (h : PoleEnv s t) (k : PoleEnv s u) : PoleEnv s (if p then t else u) := by
  split <;> assumption

theorem withPwu (s : State) (x : PoleUnit) : PoleEnv s (s.withPwu x) := ⟨rfl, rfl, rfl, rfl, rfl, rfl⟩

theorem onset (s : State) (k : AlarmKind) (q : Nat) : PoleEnv s (s.onset k q) := by
  obtain ⟨a, ha, -⟩ := s.onset_only k q
  rw [ha]
  exact ⟨rfl, rfl, rfl, rfl, rfl, rfl⟩

theorem clearCond (s : State) (k : AlarmKind) (q : Nat) : PoleEnv s (s.clearCond k q) := by
  obtain ⟨a, ha, -⟩ := s.clearCond_only k q
  rw [ha]
  exact ⟨rfl, rfl, rfl, rfl, rfl, rfl⟩

theorem elevation (h : PoleEnv s t) (p : Pole) : t.elevation p = s.elevation p := by
  unfold State.elevation State.ain
  rw [h.su]

theorem ain (h : PoleEnv s t) (i : Nat) : t.ain i = s.ain i := by
  unfold State.ain
  rw [h.su]

theorem windowAt (h : PoleEnv s t) : t.windowAt = s.windowAt := State.windowAt_congr h.settings h.osm h.su h.pvt h.cf

theorem modeAt (h : PoleEnv s t) (l : LineState) : t.modeAt l = s.modeAt l := by
  unfold State.modeAt
  rw [h.pvt]

theorem windowed (h : PoleEnv s t) (hop : t.pwu.operation = .lowerDescent ↔ s.pwu.operation = .lowerDescent) :
    t.windowed = s.windowed := by
  funext p r
  unfold State.windowed
  rw [h.windowAt, h.settings, h.ain, h.osm]
  simp only [hop]

end PoleEnv

theorem PoleLocal.env (h : PoleLocal s t) : PoleEnv s t := ⟨h.settings, h.osm, h.su, h.pvt, h.cf, h.cc⟩

/-! The elevations of the sample (R91, R95, R97, R98). -/

/-- What of the pole watch unit a sample's elevations leave but the tracking of heights. -/
structure Elevated (s t : State) : Prop where
  env : PoleEnv s t
  operation : t.pwu.operation = s.pwu.operation
  line : t.pwu.line = s.pwu.line
  source : t.pwu.source = s.pwu.source
  sourceTimer : t.pwu.sourceTimer = s.pwu.sourceTimer
  pole : ∀ q, (t.pole q).count = (s.pole q).count ∧ (t.pole q).bounces = (s.pole q).bounces

theorem Elevated.refl (s : State) : Elevated s s := ⟨.refl s, rfl, rfl, rfl, rfl, fun _ => ⟨rfl, rfl⟩⟩

theorem Elevated.trans (h : Elevated s t) (k : Elevated t u) : Elevated s u :=
  ⟨h.env.trans k.env, k.operation.trans h.operation, k.line.trans h.line, k.source.trans h.source,
    k.sourceTimer.trans h.sourceTimer, fun q => ⟨(k.pole q).1.trans (h.pole q).1, (k.pole q).2.trans (h.pole q).2⟩⟩

theorem PoleLocal.elevated (h : PoleLocal s t)
    (hp : ∀ q, (t.pole q).count = (s.pole q).count ∧ (t.pole q).bounces = (s.pole q).bounces) : Elevated s t :=
  ⟨h.env, by rw [h.unit], by rw [h.unit], by rw [h.unit], by rw [h.unit], hp⟩

/-- R97: the records of the poles as a tracking step is taken. -/
theorem State.trackEach_pole (s : State) : PoleLocal s (bothPoles.foldl State.trackPole s) ∧
    ∀ q, ∃ h, (bothPoles.foldl State.trackPole s).pole q = { s.pole q with height := h } := by
  have h := State.eachPole (f := State.trackPole) (g := fun _ _ r => if r.state = .onWire then { r with
      height := if r.height < r.samples.sum / 16 then r.height + 1
        else if r.samples.sum / 16 < r.height then r.height - 1 else r.height } else r)
    (fun v p => ?_) (fun v p q => ?_) (fun _ _ _ => rfl) s
  · refine ⟨h.1, fun q => ?_⟩
    rw [h.2]
    split
    · exact ⟨_, rfl⟩
    · exact ⟨(s.pole q).height, rfl⟩
  · unfold State.trackPole
    exact .ite (PoleLocal.setPole v p _) (.refl v)
  · unfold State.trackPole
    dsimp only
    by_cases hpq : p = q
    · subst hpq
      rw [if_pos rfl]
      split
      · rw [State.pole_setPole, if_pos rfl]
      · rfl
    · rw [if_neg hpq]
      split
      · rw [State.pole_setPole, if_neg hpq]
      · rfl

/-- R95, R98: the pole watch unit as the elevations of a sample are taken. -/
theorem State.takeElevations_spec (s : State) : Elevated s s.takeElevations ∧
    s.takeElevations.pwu.loadPending = s.pwu.loadPending ∧ (∀ q, (s.takeElevations.pole q).state = (s.pole q).state) ∧
    (s.pwu.trackWaits = false → ∀ q, (s.takeElevations.pole q).height = (s.pole q).height) := by
  obtain ⟨hlocal, hpole⟩ := s.takeEach_pole
  unfold State.takeElevations
  dsimp only
  generalize bothPoles.foldl State.takeElevation s = a at hlocal hpole
  have haunit : a.pwu.loadPending = s.pwu.loadPending ∧ a.pwu.trackWaits = s.pwu.trackWaits := by
    rw [hlocal.unit]
    exact ⟨rfl, rfl⟩
  obtain ⟨haload, hawaits⟩ := haunit
  have hsampled : ∀ q, (a.withPwu { a.pwu with sampled := true }).pole q = a.pole q := fun q => by cases q <;> rfl
  have hfirst : Elevated s (a.withPwu { a.pwu with sampled := true }) := by
    have h := hlocal.elevated fun q => by
      obtain ⟨l, hl⟩ := hpole q
      rw [hl]
      exact ⟨rfl, rfl⟩
    exact ⟨h.env.trans (.withPwu a _), h.operation, h.line, h.source, h.sourceTimer, fun q => by rw [hsampled]; exact h.pole q⟩
  have hstate : ∀ q, ((a.withPwu { a.pwu with sampled := true }).pole q).state = (s.pole q).state ∧
      ((a.withPwu { a.pwu with sampled := true }).pole q).height = (s.pole q).height := fun q => by
    obtain ⟨l, hl⟩ := hpole q
    rw [hsampled, hl]
    exact ⟨rfl, rfl⟩
  have hload : (a.withPwu { a.pwu with sampled := true }).pwu.loadPending = s.pwu.loadPending := haload
  have hwaits : (a.withPwu { a.pwu with sampled := true }).pwu.trackWaits = s.pwu.trackWaits := hawaits
  generalize a.withPwu { a.pwu with sampled := true } = v at hfirst hstate hload hwaits
  split
  · next hw =>
    obtain ⟨klocal, kpole⟩ := v.trackEach_pole
    unfold State.trackPoles
    dsimp only
    generalize bothPoles.foldl State.trackPole v = b at klocal kpole
    have hb : ∀ q, (b.withPwu { b.pwu with trackWaits := false }).pole q = b.pole q := fun q => by cases q <;> rfl
    have k := klocal.elevated fun q => by
      obtain ⟨l, hl⟩ := kpole q
      rw [hl]
      exact ⟨rfl, rfl⟩
    have hnext : Elevated v (b.withPwu { b.pwu with trackWaits := false }) :=
      ⟨k.env.trans (.withPwu b _), k.operation, k.line, k.source, k.sourceTimer, fun q => by rw [hb]; exact k.pole q⟩
    have hbload : b.pwu.loadPending = v.pwu.loadPending := by rw [klocal.unit]
    refine ⟨hfirst.trans hnext, hbload.trans hload, fun q => ?_, fun hn => ?_⟩
    · obtain ⟨l, hl⟩ := kpole q
      rw [hb, hl]
      exact (hstate q).1
    · rw [hwaits, hn] at hw
      cases hw
  · exact ⟨hfirst, hload, fun q => (hstate q).1, fun _ q => (hstate q).2⟩

/-- R91: the poles from the first sample after LOADING, and as they were at every other. -/
theorem State.placePoles_spec (s : State) : (s.pwu.loadPending = false → s.placePoles = s) ∧ Elevated s s.placePoles ∧
    (s.pwu.loadPending = true → ∀ q, (s.placePoles.pole q).state =
      if s.elevation q < s.settings.ehook then .stowed else .lowering) := by
  unfold State.placePoles
  cases hl : s.pwu.loadPending with
  | false => exact ⟨fun _ => rfl, .refl s, nofun⟩
  | true =>
    rw [if_pos rfl]
    dsimp only
    obtain ⟨hlocal, hpole⟩ := s.placeEach_pole
    generalize bothPoles.foldl State.placePole s = a at hlocal hpole
    have ha : ∀ q, (a.withPwu { a.pwu with loadPending := false }).pole q = a.pole q := fun q => by cases q <;> rfl
    have h := hlocal.elevated fun q => by
      rw [hpole]
      exact ⟨rfl, rfl⟩
    refine ⟨nofun, ⟨h.env.trans (.withPwu a _), h.operation, h.line, h.source, h.sourceTimer, fun q => by rw [ha]; exact h.pole q⟩,
      fun _ q => ?_⟩
    rw [ha, hpole]
    rfl

end

end Sys2Proof.Machine

/-! What a sample's judgements make of rising poles, of contact, of the line state and of the windows (R71 to R73, R86 to R90,
R96, R102, R104). -/

namespace Sys2Proof.Machine

section
variable {s t u m d : State} {q : Pole}

/-! A raise abandoned above Emax, and contact. -/

/-- R73: a rising pole is above Emax in a raise. -/
def State.Abandons (m : State) : Prop :=
  m.pwu.operation = .raise ∧ ∃ p, (m.pole p).state.rising = true ∧ m.settings.emax < m.elevation p

/-- R72: both poles seek and the line has voltage. -/
def State.Contacts (m : State) : Prop := (∀ p, (m.pole p).state = .seeking) ∧ m.settings.vpresent ≤ m.ain 0

theorem State.checkEmax_cases (m : State) :
    (m.Abandons ∧ m.checkEmax = m.abandonRaise) ∨ (¬ m.Abandons ∧ m.checkEmax = m) := by
  have hany : (bothPoles.any fun p => (m.pole p).state.rising && decide (m.settings.emax < m.elevation p)) = true ↔
      ∃ p, (m.pole p).state.rising = true ∧ m.settings.emax < m.elevation p := by
    simp only [List.any_eq_true, Bool.and_eq_true, decide_eq_true_eq]
    exact ⟨fun ⟨p, _, h⟩ => ⟨p, h⟩, fun ⟨p, h⟩ => ⟨p, by cases p <;> decide, h⟩⟩
  unfold State.checkEmax State.Abandons
  split
  · next h => exact .inl ⟨⟨h.1, hany.mp h.2⟩, rfl⟩
  · next h => exact .inr ⟨fun k => h ⟨k.1, hany.mpr k.2⟩, rfl⟩

theorem PoleEnv.windowed_onWire (h : PoleEnv s t) {p : Pole} {r : PoleRecord} (hr : r.state = .onWire) :
    t.windowed p r = s.windowed p r := by
  unfold State.windowed
  rw [if_pos hr, if_pos hr, h.windowAt]

theorem State.abandonRaise_spec (m : State) : PoleEnv m m.abandonRaise ∧
    (∀ p, m.abandonRaise.pole p = if (m.pole p).state.rising then (m.pole p).enter .lowering else m.pole p) ∧
    m.abandonRaise.pwu.line = m.pwu.line ∧ m.abandonRaise.pwu.source = m.pwu.source ∧
    m.abandonRaise.pwu.sourceTimer = m.pwu.sourceTimer ∧
    (m.osm.op.alarmsTaken = true → m.abandonRaise.inForce .raiseFail 0 = true) := by
  have hlower := State.eachPole (f := State.lowerIf PoleState.rising)
    (g := fun _ _ r => if r.state.rising then r.enter .lowering else r)
    (fun v p => .ite (PoleLocal.setPole v p _) (.refl v)) (fun v p q => ?_) (fun _ _ _ => rfl) m
  · obtain ⟨hlocal, hpole⟩ := hlower
    unfold State.abandonRaise
    generalize bothPoles.foldl (State.lowerIf PoleState.rising) m = a at hlocal hpole ⊢
    have hunit : a.pwu.line = m.pwu.line ∧ a.pwu.source = m.pwu.source ∧ a.pwu.sourceTimer = m.pwu.sourceTimer := by
      rw [hlocal.unit]
      exact ⟨rfl, rfl, rfl⟩
    have henv : PoleEnv m a.endRaise := hlocal.env.trans (.withPwu a _)
    have hend : ∀ p, a.endRaise.pole p = a.pole p := State.endRaise_pole a
    have hline : a.endRaise.pwu.line = a.pwu.line ∧ a.endRaise.pwu.source = a.pwu.source ∧
        a.endRaise.pwu.sourceTimer = a.pwu.sourceTimer := ⟨rfl, rfl, rfl⟩
    obtain ⟨x, hx, -⟩ := a.endRaise.onset_only .raiseFail 0
    refine ⟨henv.trans (.onset _ _ _), fun p => by rw [State.onset_pole, hend, hpole], ?_, ?_, ?_, fun ho => ?_⟩
    · rw [hx]
      exact hline.1.trans hunit.1
    · rw [hx]
      exact hline.2.1.trans hunit.2.1
    · rw [hx]
      exact hline.2.2.trans hunit.2.2
    · rw [State.onset_inForce, henv.osm, ho]
      simp
  · unfold State.lowerIf
    by_cases hpq : p = q
    · subst hpq
      rw [if_pos rfl]
      split
      · rw [State.pole_enterPole, if_pos rfl]
      · rfl
    · rw [if_neg hpq]
      split
      · rw [State.pole_enterPole, if_neg hpq]
      · rfl

theorem State.checkContact_cases (m : State) : (m.Contacts ∧ PoleEnv m m.checkContact ∧
      (∀ p, m.checkContact.pole p = { (m.pole p).enter .onWire with height := m.elevation p, forgive := 0 }) ∧
      m.checkContact.pwu.operation = .none ∧ m.checkContact.pwu.line = .live ∧ m.checkContact.pwu.source = m.pwu.source ∧
      m.checkContact.pwu.sourceTimer = m.pwu.sourceTimer) ∨ (¬ m.Contacts ∧ m.checkContact = m) := by
  have hboth : (m.pwu.pos.state = .seeking ∧ m.pwu.neg.state = .seeking ∧ m.settings.vpresent ≤ m.ain 0) ↔ m.Contacts :=
    ⟨fun ⟨h1, h2, h3⟩ => ⟨fun p => by cases p; exacts [h1, h2], h3⟩, fun ⟨h, h3⟩ => ⟨h .pos, h .neg, h3⟩⟩
  unfold State.checkContact
  split
  · next h =>
    obtain ⟨hlocal, hpole⟩ := m.contactPoles_pole
    dsimp only
    generalize bothPoles.foldl State.contactPole m = a at hlocal hpole
    have hunit : a.pwu.source = m.pwu.source ∧ a.pwu.sourceTimer = m.pwu.sourceTimer := by
      rw [hlocal.unit]
      exact ⟨rfl, rfl⟩
    refine .inl ⟨hboth.mp h, hlocal.env.trans ((PoleEnv.withPwu a _).trans (.withPwu a.endRaise _)), fun p => ?_, rfl, rfl,
      hunit.1, hunit.2⟩
    rw [← hpole]
    cases p <;> rfl
  · next h => exact .inr ⟨fun k => h (hboth.mpr k), rfl⟩

/-! The line state, the source mode and the windows. -/

/-- R86, R87, R88: the line state as a sample's voltage judges it. -/
def State.lineAfter (s : State) (l : LineState) : LineState :=
  if l = .live ∧ s.ain 0 < s.settings.vsection then .gap
  else if (l = .gap ∨ l = .out) ∧ s.settings.vpresent ≤ s.ain 0 then .live
  else l

theorem PoleEnv.lineAfter (h : PoleEnv s t) (l : LineState) : t.lineAfter l = s.lineAfter l := by
  unfold State.lineAfter
  rw [h.ain, h.settings]

/-- What the judgement of the line state and of the source mode leaves. -/
theorem State.judgeLine_spec (d : State) : PoleEnv d d.judgeLine.updateSource ∧
    (∀ p, d.judgeLine.updateSource.pole p = d.pole p) ∧ d.judgeLine.updateSource.pwu.operation = d.pwu.operation ∧
    d.judgeLine.updateSource.pwu.line = d.lineAfter d.pwu.line ∧
    d.judgeLine.updateSource.pwu.source = d.modeAt (d.lineAfter d.pwu.line) ∧
    d.judgeLine.updateSource.pwu.sourceTimer =
      (if sourceChanges d.pwu.source (d.modeAt (d.lineAfter d.pwu.line)) then some 0 else d.pwu.sourceTimer) ∧
    (d.judgeLine.updateSource.inForce .raiseFail 0 = d.inForce .raiseFail 0) := by
  have hjudge : ∃ (g : Nat) (a : AlarmUnit), d.judgeLine = (d.withPwu { d.pwu with
      line := d.lineAfter d.pwu.line, gapTimer := g }).withAu a ∧
      a.inForce.contains (AlarmKind.raiseFail, 0) = d.au.inForce.contains (AlarmKind.raiseFail, 0) := by
    have hsame : d.lineAfter d.pwu.line = d.pwu.line → d = (d.withPwu { d.pwu with
        line := d.lineAfter d.pwu.line, gapTimer := d.pwu.gapTimer }).withAu d.au := fun h => by rw [h]; rfl
    unfold State.judgeLine
    split
    · next hl =>
      split
      · next hv =>
        have hafter : d.lineAfter d.pwu.line = .gap := if_pos ⟨hl, hv⟩
        rw [hafter]
        exact ⟨0, d.au, rfl, rfl⟩
      · next hv =>
        have hafter : d.lineAfter d.pwu.line = d.pwu.line := by
          unfold State.lineAfter
          rw [if_neg (fun h => hv h.2), if_neg (fun h => by rw [hl] at h; obtain ⟨h | h, -⟩ := h <;> cases h)]
        exact ⟨_, _, hsame hafter, rfl⟩
    · next hl =>
      have hnot : ¬ (d.pwu.line = .live ∧ d.ain 0 < d.settings.vsection) := fun h => by rw [hl] at h; cases h.1
      split
      · next hv =>
        have hafter : d.lineAfter d.pwu.line = .live := (if_neg hnot).trans (if_pos ⟨.inl hl, hv⟩)
        rw [hafter]
        exact ⟨0, d.au, rfl, rfl⟩
      · next hv => exact ⟨_, _, hsame ((if_neg hnot).trans (if_neg fun h => hv h.2)), rfl⟩
    · next hl =>
      have hnot : ¬ (d.pwu.line = .live ∧ d.ain 0 < d.settings.vsection) := fun h => by rw [hl] at h; cases h.1
      split
      · next hv =>
        have hafter : d.lineAfter d.pwu.line = .live := (if_neg hnot).trans (if_pos ⟨.inr hl, hv⟩)
        have hforce := (d.withPwu { d.pwu with line := .live }).clearCond_inForce .lineLost .raiseFail 0 0 (by simp)
        obtain ⟨a, ha, -⟩ := (d.withPwu { d.pwu with line := .live }).clearCond_only .lineLost 0
        rw [hafter]
        rw [ha] at hforce
        exact ⟨d.pwu.gapTimer, a, ha, hforce⟩
      · next hv => exact ⟨_, _, hsame ((if_neg hnot).trans (if_neg fun h => hv h.2)), rfl⟩
    · next hl =>
      have hafter : d.lineAfter d.pwu.line = d.pwu.line := by
        unfold State.lineAfter
        rw [if_neg (fun h => by rw [hl] at h; cases h.1), if_neg (fun h => by rw [hl] at h; obtain ⟨h | h, -⟩ := h <;> cases h)]
      exact ⟨_, _, hsame hafter, rfl⟩
  obtain ⟨g, a, hj, hforce⟩ := hjudge
  have hmode : d.judgeLine.sourceMode = d.modeAt (d.lineAfter d.pwu.line) := by
    rw [State.sourceMode_eq, hj]
    rfl
  have hdef : d.judgeLine.updateSource = d.judgeLine.withPwu { d.judgeLine.pwu with
      source := d.judgeLine.sourceMode
      sourceTimer := if sourceChanges d.judgeLine.pwu.source d.judgeLine.sourceMode then some 0 else d.judgeLine.pwu.sourceTimer } := rfl
  rw [hdef, hmode, hj]
  exact ⟨⟨rfl, rfl, rfl, rfl, rfl, rfl⟩, fun p => by cases p <;> rfl, rfl, rfl, rfl, rfl, hforce⟩

/-- RAISE_FAIL stays in force. -/
def FailStays (s t : State) : Prop := s.inForce .raiseFail 0 = true → t.inForce .raiseFail 0 = true

namespace FailStays

theorem trans (h : FailStays s t) (k : FailStays t u) : FailStays s u := fun hs => k (h hs)

theorem ite {p : Prop} [Decidable p] (h : FailStays s t) (k : FailStays s u) : FailStays s (if p then t else u) := by
  split <;> assumption

theorem setPole (s : State) (p : Pole) (r : PoleRecord) : FailStays s (s.setPole p r) := by
  cases p <;> exact id

theorem onset (s : State) (k : AlarmKind) (q : Nat) : FailStays s (s.onset k q) := fun h => by
  rw [State.onset_inForce, h, Bool.true_or]

theorem returnPole (s : State) (p : Pole) : FailStays s (s.returnPole p) := by
  unfold State.returnPole
  exact (FailStays.ite ((setPole s p _).trans (onset _ _ _)) (setPole s p _)).trans (FailStays.ite (setPole _ p _) id)

theorem judgeWindows (s : State) : FailStays s (bothPoles.foldl State.judgeWindow s) := by
  have hone : ∀ (v : State) (p : Pole), FailStays v (v.judgeWindow p) := fun v p => by
    rw [State.judgeWindow_eq]
    exact .ite (.ite id (setPole v p _)) (.ite (.ite (returnPole v p) id) id)
  exact (hone s .pos).trans (hone _ .neg)

end FailStays

/-! From the poles' falling and rising to the end of the judgements. -/

/-- What a sample makes of the pole watch unit before the step ends, once the falling and the rising poles have moved. -/
def State.judged (m : State) : State := bothPoles.foldl State.judgeWindow m.checkEmax.checkContact.judgeLine.updateSource

/-- What Emax and contact leave. -/
theorem State.met_spec (m : State) : PoleEnv m m.checkEmax.checkContact ∧
    m.checkEmax.checkContact.pwu.source = m.pwu.source ∧ m.checkEmax.checkContact.pwu.sourceTimer = m.pwu.sourceTimer := by
  have h1 : PoleEnv m m.checkEmax ∧ m.checkEmax.pwu.source = m.pwu.source ∧ m.checkEmax.pwu.sourceTimer = m.pwu.sourceTimer := by
    obtain ⟨-, h⟩ | ⟨-, h⟩ := m.checkEmax_cases
    · obtain ⟨henv, -, -, hsource, htimer, -⟩ := m.abandonRaise_spec
      rw [h]
      exact ⟨henv, hsource, htimer⟩
    · rw [h]
      exact ⟨.refl m, rfl, rfl⟩
  obtain ⟨henv, hsource, htimer⟩ := h1
  generalize m.checkEmax = c at henv hsource htimer
  obtain ⟨-, kenv, -, -, -, ksource, ktimer⟩ | ⟨-, h⟩ := c.checkContact_cases
  · exact ⟨henv.trans kenv, ksource.trans hsource, ktimer.trans htimer⟩
  · rw [h]
    exact ⟨henv, hsource, htimer⟩

/-- What the judgements of a sample leave, whatever Emax and contact have made. -/
theorem State.judged_spec (m : State) : PoleEnv m m.judged ∧
    m.judged.pwu.operation = m.checkEmax.checkContact.pwu.operation ∧
    m.judged.pwu.line = m.lineAfter m.checkEmax.checkContact.pwu.line ∧
    m.judged.pwu.source = m.modeAt m.judged.pwu.line ∧
    m.judged.pwu.sourceTimer = (if sourceChanges m.pwu.source m.judged.pwu.source then some 0 else m.pwu.sourceTimer) ∧
    FailStays m.checkEmax.checkContact m.judged ∧
    ∀ p, (m.checkEmax.checkContact.pwu.operation = .lowerDescent ↔ m.pwu.operation = .lowerDescent) ∨
        (m.checkEmax.checkContact.pole p).state = .onWire →
      m.judged.pole p = m.windowed p (m.checkEmax.checkContact.pole p) := by
  obtain ⟨denv, dsource, dtimer⟩ := m.met_spec
  unfold State.judged
  generalize m.checkEmax.checkContact = d at denv dsource dtimer
  obtain ⟨jenv, jpole, joperation, jline, jsource, jtimer, jfail⟩ := d.judgeLine_spec
  generalize d.judgeLine.updateSource = j at jenv jpole joperation jline jsource jtimer jfail
  obtain ⟨blocal, bpole⟩ := j.judgeWindows_pole
  have hfail := FailStays.judgeWindows j
  generalize bothPoles.foldl State.judgeWindow j = b at blocal bpole hfail
  have hunit : b.pwu.operation = j.pwu.operation ∧ b.pwu.line = j.pwu.line ∧ b.pwu.source = j.pwu.source ∧
      b.pwu.sourceTimer = j.pwu.sourceTimer := by
    rw [blocal.unit]
    exact ⟨rfl, rfl, rfl, rfl⟩
  obtain ⟨boperation, bline, bsource, btimer⟩ := hunit
  have henv := denv.trans jenv
  rw [denv.lineAfter] at jline jsource jtimer
  rw [denv.modeAt] at jsource jtimer
  refine ⟨henv.trans blocal.env, boperation.trans joperation, bline.trans jline, ?_, ?_, fun hf => hfail (jfail.trans hf),
    fun p hop => ?_⟩
  · rw [bsource, jsource, bline, jline]
  · rw [btimer, jtimer, bsource, jsource, dsource, dtimer]
  · rw [bpole, jpole]
    obtain hop | hwire := hop
    · rw [henv.windowed (by rw [joperation]; exact hop)]
    · exact henv.windowed_onWire hwire

/-- A pole that does not rise is judged by its window alone. -/
theorem State.judged_still (hq : (m.pole q).state.rising = false) : m.judged.pole q = m.windowed q (m.pole q) := by
  have hmet : m.checkEmax.checkContact.pole q = m.pole q ∧
      (m.checkEmax.checkContact.pwu.operation = .lowerDescent ↔ m.pwu.operation = .lowerDescent) := by
    have hemax : m.checkEmax.pole q = m.pole q ∧ (m.checkEmax.pwu.operation = .lowerDescent ↔ m.pwu.operation = .lowerDescent) := by
      obtain ⟨⟨hraise, -⟩, h⟩ | ⟨-, h⟩ := m.checkEmax_cases
      · obtain ⟨-, hpole, -⟩ := m.abandonRaise_spec
        rw [h, hpole, if_neg (by rw [hq]; exact Bool.false_ne_true), State.abandonRaise_operation, hraise]
        exact ⟨rfl, nofun, nofun⟩
      · rw [h]
        exact ⟨rfl, Iff.rfl⟩
    obtain ⟨hpole, hop⟩ := hemax
    generalize m.checkEmax = c at hpole hop
    obtain ⟨⟨hseek, -⟩, -⟩ | ⟨-, h⟩ := c.checkContact_cases
    · have hs := hseek q
      rw [hpole] at hs
      rw [hs] at hq
      cases hq
    · rw [h]
      exact ⟨hpole, hop⟩
  obtain ⟨-, -, -, -, -, -, hpole⟩ := m.judged_spec
  rw [hpole q (.inl hmet.2), hmet.1]

theorem State.windowed_other {r : PoleRecord} (h : r.state.up = false) : s.windowed q r = r := by
  unfold State.windowed
  rw [if_neg (fun k => by rw [k] at h; cases h), if_neg (fun k => by rw [k] at h; cases h)]

/-- R73: where the raise is abandoned. -/
theorem State.judged_abandons (h : m.Abandons) : m.judged.pwu.operation = .none ∧
    m.judged.pwu.line = m.lineAfter m.pwu.line ∧
    (m.osm.op.alarmsTaken = true → m.judged.inForce .raiseFail 0 = true) ∧
    ∀ p, (m.pole p).state.rising = true → (m.judged.pole p).state = .lowering := by
  obtain ⟨-, apole, aline, -, -, afail⟩ := m.abandonRaise_spec
  have hemax : m.checkEmax = m.abandonRaise := (m.checkEmax_cases.resolve_right fun k => k.1 h).2
  have hop : m.abandonRaise.pwu.operation = .none := State.abandonRaise_operation m
  have hcontact : m.abandonRaise.checkContact = m.abandonRaise := by
    obtain ⟨⟨hseek, -⟩, -⟩ | ⟨-, k⟩ := m.abandonRaise.checkContact_cases
    · have hs := hseek .pos
      rw [apole] at hs
      split at hs
      · cases hs
      · next hr =>
        rw [hs] at hr
        exact absurd rfl hr
    · exact k
  have hmet : m.checkEmax.checkContact = m.abandonRaise := by rw [hemax, hcontact]
  obtain ⟨-, joperation, jline, -, -, jfail, jpole⟩ := m.judged_spec
  rw [hmet] at joperation jline jfail jpole
  rw [aline] at jline
  refine ⟨joperation.trans hop, jline, fun ho => jfail (afail ho), fun p hp => ?_⟩
  rw [jpole p (.inl (by rw [hop, h.1]; exact ⟨nofun, nofun⟩)), apole, if_pos hp]
  exact congrArg PoleRecord.state (State.windowed_other rfl)

/-- R72, R96: where the poles make contact. -/
theorem State.judged_contacts (hn : ¬ m.Abandons) (h : m.Contacts) : m.judged.pwu.operation = .none ∧
    m.judged.pwu.line = m.lineAfter .live ∧ ∀ p, (m.judged.pole p).height = m.elevation p ∧
      (m.judged.pole p).state = if m.lateral p ≤ m.lateralLimit ∧ m.ropeTrip p = false then .onWire else .suspect := by
  have hemax : m.checkEmax = m := (m.checkEmax_cases.resolve_left fun k => hn k.1).2
  obtain ⟨-, -, cpole, coperation, cline, -, -⟩ := (m.checkContact_cases.resolve_right fun k => k.1 h)
  obtain ⟨-, joperation, jline, -, -, -, jpole⟩ := m.judged_spec
  rw [hemax] at joperation jline jpole
  rw [cline] at jline
  refine ⟨joperation.trans coperation, jline, fun p => ?_⟩
  have hwire : (m.checkContact.pole p).state = .onWire := by rw [cpole]; rfl
  have hwindow : m.windowAt p (m.elevation p) = true ↔ m.lateral p ≤ m.lateralLimit ∧ m.ropeTrip p = false := by
    unfold State.windowAt
    rw [decide_eq_true (Nat.le_add_right _ _), decide_eq_true (Nat.le_add_right _ _)]
    simp
  rw [jpole p (.inr hwire)]
  unfold State.windowed
  rw [if_pos hwire, cpole]
  dsimp only
  split
  · next hw => exact ⟨rfl, (if_pos (hwindow.mp hw)).symm⟩
  · next hw => exact ⟨rfl, (if_neg fun k => hw (hwindow.mpr k)).symm⟩

/-- R86 to R88: where the raise is not abandoned and there is no contact. -/
theorem State.judged_plain (hn : ¬ m.Abandons) (hc : ¬ m.Contacts) : m.judged.pwu.operation = m.pwu.operation ∧
    m.judged.pwu.line = m.lineAfter m.pwu.line ∧ ∀ p, m.judged.pole p = m.windowed p (m.pole p) := by
  have hemax : m.checkEmax = m := (m.checkEmax_cases.resolve_left fun k => hn k.1).2
  have hmet : m.checkEmax.checkContact = m := by
    rw [hemax]
    exact (m.checkContact_cases.resolve_left fun k => hc k.1).2
  obtain ⟨-, joperation, jline, -, -, -, jpole⟩ := m.judged_spec
  rw [hmet] at joperation jline jpole
  exact ⟨joperation, jline, fun p => jpole p (.inl Iff.rfl)⟩

end

end Sys2Proof.Machine

/-! ANALOG_SAMPLE at the pole station: the poles' falling and rising, and the step as a whole (R65, R71, R78, R80). -/

namespace Sys2Proof.Machine

section
variable {s t u z : State} {q : Pole}

/-- R71, R78, R80: the record of a pole that has fallen or risen at a sample. -/
def PoleRecord.moved (c : Settings) (elevation : Nat) (r : PoleRecord) : PoleRecord := (r.fallen c elevation).sought c elevation

/-- R71, R78, R80: the poles have fallen and risen at a sample. -/
def State.polesMoved (z : State) : State := bothPoles.foldl State.seekPole (bothPoles.foldl State.fallPole z)

theorem State.polesMoved_pole (z : State) : PoleLocal z z.polesMoved ∧
    ∀ q, z.polesMoved.pole q = (z.pole q).moved z.settings (z.elevation q) := by
  obtain ⟨hlocal, hpole⟩ := z.fallPoles_pole
  unfold State.polesMoved
  generalize bothPoles.foldl State.fallPole z = a at hlocal hpole
  obtain ⟨klocal, kpole⟩ := a.seekPoles_pole
  refine ⟨hlocal.trans klocal, fun q => ?_⟩
  rw [kpole, hpole, hlocal.settings, hlocal.elevation]
  rfl

theorem PoleState.up_still {st : PoleState} (h : st.up = true) : st.falling = false ∧ st ≠ .stowed ∧ st ≠ .raising := by
  obtain rfl | rfl := (PoleState.up_iff st).mp h <;> exact ⟨rfl, nofun, nofun⟩

theorem PoleState.rising_iff (st : PoleState) : st.rising = true ↔ st = .raising ∨ st = .seeking := by cases st <;> decide

theorem PoleState.falling_iff (st : PoleState) : st.falling = true ↔ st = .retrieving ∨ st = .lowering := by
  cases st <;> decide

theorem PoleState.rising_still {st : PoleState} (h : st.rising = true) : st.falling = false ∧ st ≠ .stowed := by
  obtain rfl | rfl := (PoleState.rising_iff st).mp h <;> exact ⟨rfl, nofun⟩

namespace PoleRecord

variable {c : Settings} {e : Nat} {r : PoleRecord}

theorem sought_other (h : r.state ≠ .raising) : r.sought c e = r :=
  if_neg fun k => h (beq_iff_eq.mp (Bool.and_eq_true_iff.mp k).1)

theorem fallen_other (h : r.state.falling = false) (hs : r.state ≠ .stowed) : r.fallen c e = r := by
  unfold PoleRecord.fallen
  rw [h, Bool.false_and, if_neg Bool.false_ne_true]
  exact if_neg fun k => hs (beq_iff_eq.mp (Bool.and_eq_true_iff.mp k).1)

/-- R78: a pole that is pulled down. -/
theorem moved_falling (h : r.state.falling = true) : (r.moved c e).state =
    if c.ehook ≤ e then r.state else if c.nlock ≤ r.count then .lockedOut else .stowed := by
  have hne : r.state ≠ .raising ∧ r.state ≠ .stowed := by
    constructor <;>
    · intro k
      rw [k] at h
      cases h
  unfold PoleRecord.moved
  by_cases he : c.ehook ≤ e
  · have hsame : r.fallen c e = r := by
      unfold PoleRecord.fallen
      rw [decide_eq_false (by omega), Bool.and_false, if_neg Bool.false_ne_true]
      exact if_neg fun k => hne.2 (beq_iff_eq.mp (Bool.and_eq_true_iff.mp k).1)
    rw [hsame, sought_other hne.1, if_pos he]
  · have hfall : r.fallen c e = r.enter (if c.nlock ≤ r.count then .lockedOut else .stowed) :=
      if_pos (by rw [h, decide_eq_true (by omega)]; rfl)
    have hstate : (r.fallen c e).state = if c.nlock ≤ r.count then .lockedOut else .stowed := by rw [hfall]; rfl
    rw [sought_other (by rw [hstate]; split <;> nofun), hstate, if_neg he]

/-- R80: a stowed pole. -/
theorem moved_stowed (h : r.state = .stowed) : (r.moved c e).state = if c.ehook < e then .lowering else .stowed := by
  have hfall : (r.fallen c e).state = if c.ehook < e then .lowering else .stowed := by
    unfold PoleRecord.fallen
    rw [h]
    split
    · next k => cases k
    · split
      · next k => exact (if_pos (by simpa using k)).symm
      · next k => exact h.trans (if_neg (by simpa using k)).symm
  unfold PoleRecord.moved
  rw [sought_other (by rw [hfall]; split <;> nofun), hfall]

/-- A pole on the wire or in SUSPECT neither falls nor rises. -/
theorem moved_up (h : r.state.up = true) : r.moved c e = r := by
  obtain ⟨hf, hs, hr⟩ := PoleState.up_still h
  unfold PoleRecord.moved
  rw [fallen_other hf hs, sought_other hr]

/-- R71: a rising pole. -/
theorem moved_rising (h : r.state.rising = true) : (r.moved c e).state.rising = true ∧
    (r.state = .raising → (r.moved c e).state = if c.ehook < e then .seeking else .raising) ∧
    (r.state = .seeking → (r.moved c e).state = .seeking) := by
  obtain ⟨hf, hs⟩ := PoleState.rising_still h
  unfold PoleRecord.moved
  rw [fallen_other hf hs]
  by_cases hs : r.state = .raising
  · have hsought : (r.sought c e).state = if c.ehook < e then .seeking else .raising := by
      unfold PoleRecord.sought
      rw [hs]
      split
      · next k => exact (if_pos (by simpa using k)).symm
      · next k => exact hs.trans (if_neg (by simpa using k)).symm
    rw [hsought]
    exact ⟨by split <;> rfl, fun _ => rfl, fun k => by rw [hs] at k; cases k⟩
  · rw [sought_other hs]
    exact ⟨h, fun k => absurd k hs, id⟩

/-- A pole that falls or is stowed is neither rising nor up after a sample. -/
theorem moved_settled (h : r.state.falling = true ∨ r.state = .stowed) :
    (r.moved c e).state.rising = false ∧ (r.moved c e).state.up = false := by
  obtain h | h := h
  · rw [moved_falling h]
    split
    · obtain hs | hs := (PoleState.falling_iff _).mp h <;> rw [hs] <;> exact ⟨rfl, rfl⟩
    · split <;> exact ⟨rfl, rfl⟩
  · rw [moved_stowed h]
    split <;> exact ⟨rfl, rfl⟩

theorem moved_rising_eq : (r.moved c e).state.rising = r.state.rising := by
  cases h : r.state.rising with
  | true => exact (moved_rising h).1
  | false =>
    by_cases hs : r.state.falling = true ∨ r.state = .stowed
    · exact (moved_settled hs).1
    · obtain ⟨hf, hs⟩ := not_or.mp hs
      unfold PoleRecord.moved
      rw [fallen_other (Bool.eq_false_iff.mpr hf) hs, sought_other (fun k => by rw [k] at h; cases h), h]

/-- R71: a pole seeks after a sample if it did before or has cleared its hook. -/
theorem moved_seeking_iff : (r.moved c e).state = .seeking ↔ r.state = .seeking ∨ r.state = .raising ∧ c.ehook < e := by
  constructor
  · intro h
    have hr : r.state.rising = true := by rw [← moved_rising_eq (c := c) (e := e), h]; rfl
    obtain ⟨-, hraising, -⟩ := moved_rising (c := c) (e := e) hr
    obtain hs | hs := (PoleState.rising_iff _).mp hr
    · rw [hraising hs] at h
      by_cases he : c.ehook < e
      · exact .inr ⟨hs, he⟩
      · rw [if_neg he] at h
        cases h
    · exact .inl hs
  · rintro (hs | ⟨hs, he⟩)
    · exact (moved_rising (by rw [hs]; rfl)).2.2 hs
    · rw [(moved_rising (by rw [hs]; rfl)).2.1 hs, if_pos he]

/-- R91: where no pole rises, a pole falls as it does where the rules run. -/
theorem moved_eq_fallen (h : r.state.falling = true ∨ r.state = .stowed) : r.moved c e = r.fallen c e := by
  refine sought_other fun k => ?_
  unfold PoleRecord.fallen at k
  split at k
  · have hstate : (if c.nlock ≤ r.count then PoleState.lockedOut else .stowed) = .raising := k
    split at hstate <;> cases hstate
  · split at k
    · cases k
    · rw [k] at h
      obtain h | h := h <;> cases h

end PoleRecord

end

end Sys2Proof.Machine

/-! ANALOG_SAMPLE at the pole station as a whole (R65, R78, R80, R86 to R91, R109). -/

namespace Sys2Proof.Machine

section
variable {s t u : State} {q : Pole} {x : AnalogSample}

/-- The state as the elevations of a sample are taken and the first sample after LOADING has placed the poles. -/
def State.samplePlaced (s : State) (x : AnalogSample) : State := (s.takeReadings x).judgeHot.takeElevations.placePoles

/-- The state as the poles have fallen and risen at a sample. -/
def State.sampleMoved (s : State) (x : AnalogSample) : State := (s.samplePlaced x).polesMoved

/-- What the blocks after the pole watch unit leave of a sample. -/
theorem State.takeSample_after (s : State) (x : AnalogSample) :
    (s.takeSample x).pwu = (s.takeReadings x).judgeHot.samplePoles.pwu ∧
    (s.takeSample x).cc = (s.takeReadings x).judgeHot.samplePoles.cc ∧
    (s.takeSample x).au = (s.takeReadings x).judgeHot.samplePoles.au ∧
    (s.takeSample x).ae.hot = (s.takeReadings x).judgeHot.samplePoles.ae.hot := by
  unfold State.takeSample
  dsimp only
  generalize (s.takeReadings x).judgeHot.samplePoles = v
  obtain ⟨⟨l, hl⟩, -⟩ := v.sampleChannels_eq
  generalize channelNumbers.foldl State.sampleThermal (channelNumbers.foldl State.samplePressure v) = y at hl
  have hheat : y.sampleHeat.pwu = y.pwu ∧ y.sampleHeat.cc = y.cc ∧ y.sampleHeat.au = y.au ∧ y.sampleHeat.ae = y.ae := by
    unfold State.sampleHeat
    split <;> exact ⟨rfl, rfl, rfl, rfl⟩
  obtain ⟨hpwu, hcc, hau, hae⟩ := hheat
  generalize y.sampleHeat = z at hpwu hcc hau hae
  have hregen : z.sampleRegen.pwu = z.pwu ∧ z.sampleRegen.cc = z.cc ∧ z.sampleRegen.au = z.au ∧ z.sampleRegen.ae.hot = z.ae.hot :=
    ⟨rfl, rfl, rfl, rfl⟩
  rw [hregen.1, hregen.2.1, hregen.2.2.1, hregen.2.2.2, hpwu, hcc, hau, hae, hl]
  exact ⟨rfl, rfl, rfl, rfl⟩

theorem State.judgeHot_osm (s : State) (x : AnalogSample) : (s.takeReadings x).judgeHot.osm = s.osm ∧
    (s.takeReadings x).judgeHot.takeElevations.osm = s.osm := by
  obtain ⟨a, ha⟩ := (s.takeReadings x).judgeHot_only
  have hosm : (s.takeReadings x).judgeHot.osm = s.osm := by rw [ha]; rfl
  exact ⟨hosm, ((s.takeReadings x).judgeHot.takeElevations_spec).1.env.osm.trans hosm⟩

/-- What a sample leaves of the pole watch unit, the cuts and the alarms, where the rules run. -/
theorem State.takeSample_run (x : AnalogSample) (hr : s.polesRun = true) :
    (s.takeSample x).pwu = ((s.sampleMoved x).judged.finishPoles none).pwu ∧
    (s.takeSample x).cc = ((s.sampleMoved x).judged.finishPoles none).cc ∧
    (s.takeSample x).au = ((s.sampleMoved x).judged.finishPoles none).au := by
  obtain ⟨hosm, helevated⟩ := s.judgeHot_osm x
  obtain ⟨hrole, hserves⟩ := State.polesRun_role hr
  have hrun : (s.takeReadings x).judgeHot.samplePoles = (s.sampleMoved x).judged.finishPoles none := by
    unfold State.samplePoles
    rw [if_pos (by rw [hosm]; exact hrole)]
    exact if_pos (by rw [helevated]; exact hserves)
  obtain ⟨hpwu, hcc, hau, -⟩ := s.takeSample_after x
  rw [hpwu, hcc, hau, hrun]
  exact ⟨rfl, rfl, rfl⟩

/-- R91: what a sample leaves of the poles in MAINTENANCE and FAULTED. -/
theorem State.takeSample_idle (x : AnalogSample) (hrole : s.osm.role = .pole) (ho : s.osm.op.serves = false) (q : Pole) :
    (s.takeSample x).pole q = ((s.samplePlaced x).pole q).fallen (s.samplePlaced x).settings ((s.samplePlaced x).elevation q) := by
  obtain ⟨hosm, helevated⟩ := s.judgeHot_osm x
  have hidle : (s.takeReadings x).judgeHot.samplePoles = bothPoles.foldl State.fallPole (s.samplePlaced x) := by
    unfold State.samplePoles
    rw [if_pos (by rw [hosm]; exact hrole)]
    exact if_neg (by rw [helevated, ho]; exact Bool.false_ne_true)
  rw [← (s.samplePlaced x).fallPoles_pole.2, ← hidle]
  unfold State.pole
  rw [(s.takeSample_after x).1]

/-- The poles as they are placed at a sample, against the state before it. -/
theorem State.samplePlaced_spec (s : State) (x : AnalogSample) : Elevated (s.takeReadings x) (s.samplePlaced x) ∧
    ∀ q, (s.pwu.loadPending = true → ((s.samplePlaced x).pole q).state =
        if (s.takeReadings x).elevation q < s.settings.ehook then .stowed else .lowering) ∧
      (s.pwu.loadPending = false → ((s.samplePlaced x).pole q).state = (s.pole q).state ∧
        (s.pwu.trackWaits = false → ((s.samplePlaced x).pole q).height = (s.pole q).height)) := by
  obtain ⟨a, ha⟩ := (s.takeReadings x).judgeHot_only
  have hhot : Elevated (s.takeReadings x) (s.takeReadings x).judgeHot := by
    rw [ha]
    exact ⟨⟨rfl, rfl, rfl, rfl, rfl, rfl⟩, rfl, rfl, rfl, rfl, fun _ => ⟨rfl, rfl⟩⟩
  have hpwu : (s.takeReadings x).judgeHot.pwu = s.pwu := by rw [ha]; rfl
  unfold State.samplePlaced
  generalize (s.takeReadings x).judgeHot = h at hhot hpwu
  have hpole : ∀ q, h.pole q = s.pole q := fun q => by unfold State.pole; rw [hpwu]
  obtain ⟨kelev, kload, kstate, kheight⟩ := h.takeElevations_spec
  generalize h.takeElevations = e at kelev kload kstate kheight
  obtain ⟨hplain, pelev, pstate⟩ := e.placePoles_spec
  have hload : e.pwu.loadPending = s.pwu.loadPending := by rw [kload, hpwu]
  refine ⟨hhot.trans (kelev.trans pelev), fun q => ⟨fun hl => ?_, fun hl => ?_⟩⟩
  · rw [pstate (hload.trans hl), (hhot.trans kelev).env.elevation, (hhot.trans kelev).env.settings]
    rfl
  · rw [hplain (hload.trans hl), kstate, hpole]
    exact ⟨rfl, fun hw => by rw [kheight (by rw [hpwu]; exact hw), hpole]⟩

/-- The pole watch unit as the poles have moved, against the state before the sample. -/
theorem State.sampleMoved_spec (s : State) (x : AnalogSample) : PoleEnv (s.takeReadings x) (s.sampleMoved x) ∧
    (s.sampleMoved x).pwu.operation = s.pwu.operation ∧ (s.sampleMoved x).pwu.line = s.pwu.line ∧
    (s.sampleMoved x).pwu.source = s.pwu.source ∧ (s.sampleMoved x).pwu.sourceTimer = s.pwu.sourceTimer ∧
    ∀ q, (s.sampleMoved x).pole q =
      ((s.samplePlaced x).pole q).moved s.settings ((s.takeReadings x).elevation q) := by
  obtain ⟨helev, -⟩ := s.samplePlaced_spec x
  unfold State.sampleMoved
  generalize s.samplePlaced x = z at helev
  obtain ⟨mlocal, mpole⟩ := z.polesMoved_pole
  generalize z.polesMoved = m at mlocal mpole
  refine ⟨helev.env.trans mlocal.env, ?_, ?_, ?_, ?_, fun q => ?_⟩
  · rw [mlocal.unit]
    exact helev.operation
  · rw [mlocal.unit]
    exact helev.line
  · rw [mlocal.unit]
    exact helev.source
  · rw [mlocal.unit]
    exact helev.sourceTimer
  · rw [mpole, helev.env.settings, helev.env.elevation]
    rfl

/-- What the whole step of a sample leaves at the pole station where the rules run. -/
theorem react_sample_run (cue : Cue) (hr : s.polesRun = true) :
    Finished none (s.sampleMoved x).judged (State.react cue s (s.takeSample x)) ∧
    (State.react cue s (s.takeSample x)).pwu.source = s.modeAt (State.react cue s (s.takeSample x)).pwu.line ∧
    ((s.sampleMoved x).judged.bothDown = false → (s.sampleMoved x).judged.inForce .raiseFail 0 = true →
      (State.react cue s (s.takeSample x)).inForce .raiseFail 0 = true) ∧
    (State.react cue s (s.takeSample x)).osm.uptime = s.osm.uptime := by
  obtain ⟨henv, -⟩ := s.sampleMoved_spec x
  have jenv := henv.trans (s.sampleMoved x).judged_spec.1
  obtain ⟨hpwu, hcc, hau⟩ := State.takeSample_run x hr
  obtain ⟨-, -, hosm, -, -⟩ := s.takeSample_units x
  generalize (s.sampleMoved x).judged = b at jenv hpwu hcc hau ⊢
  have hbr : b.polesRun = true := by
    have h : b.osm = s.osm := jenv.osm
    unfold State.polesRun
    rw [h]
    exact hr
  have hsource := State.finishPoles_source none hbr
  have hfinished : Finished none b (s.takeSample x) := (Finished.finishPoles none b hbr).congr hpwu (by rw [hcc])
  have hcarried := Carried.react cue s (s.takeSample x)
  obtain ⟨-, -, -, -, -, hline, -, hmode, -⟩ := hcarried.poles
  refine ⟨hfinished.reacted cue s (by rw [hosm]; exact (State.polesRun_role hr).1), ?_, fun hdown hfail => ?_, ?_⟩
  · rw [hline, hmode, hpwu, hsource]
    exact jenv.modeAt _
  · have hforce : (s.takeSample x).inForce .raiseFail 0 = (b.finishPoles none).inForce .raiseFail 0 := by
      unfold State.inForce
      rw [hau]
    rw [State.react_inForce cue s _ .raiseFail 0 rfl, hforce, State.finishPoles_inForce none b .raiseFail 0 ?_]
    · exact hfail
    · unfold poleCondition
      rw [hdown]
      simp [blockCondition]
  · exact hcarried.uptime.trans (by rw [hosm])

end

end Sys2Proof.Machine

/-! ANALOG_SAMPLE at the pole station: the poles and the raise (R71 to R73, R78, R80, R91, R96, R102, R104). -/

namespace Sys2Proof.Machine

section
variable {s t u : State} {q : Pole} {x : AnalogSample} {cue : Cue}

theorem PoleEnv.lateral (h : PoleEnv s t) (p : Pole) : t.lateral p = s.lateral p ∧ t.lateralLimit = s.lateralLimit ∧
    t.ropeTrip p = s.ropeTrip p := by
  have hspecial := State.specialRead_congr h.settings h.osm h.pvt h.cf
  unfold State.lateral State.lateralLimit State.ropeTrip State.ain State.din
  rw [hspecial, h.settings, h.su]
  exact ⟨rfl, rfl, rfl⟩

theorem State.takeReadings_elevation (s : State) (x : AnalogSample) (p : Pole) :
    (s.samplePlaced x).settings = s.settings ∧ (s.samplePlaced x).elevation p = (s.takeReadings x).elevation p := by
  obtain ⟨h, -⟩ := s.samplePlaced_spec x
  exact ⟨h.env.settings, h.env.elevation p⟩

/-- R78, R80: a pole that falls or is stowed at a sample, whether or not the rules of the pole watch unit run. -/
theorem react_sample_falling (cue : Cue) (hrole : s.osm.role = .pole)
    (h : ((s.samplePlaced x).pole q).state.falling = true ∨ ((s.samplePlaced x).pole q).state = .stowed) :
    ((State.react cue s (s.takeSample x)).pole q).state =
      (((s.samplePlaced x).pole q).moved s.settings ((s.takeReadings x).elevation q)).state := by
  cases ho : s.osm.op.serves with
  | true =>
    have hr : s.polesRun = true := by
      unfold State.polesRun
      rw [hrole, ho]
      rfl
    obtain ⟨hrising, hup⟩ := PoleRecord.moved_settled (c := s.settings) (e := (s.takeReadings x).elevation q) h
    obtain ⟨-, -, -, -, -, hpole⟩ := s.sampleMoved_spec x
    rw [(react_sample_run cue hr).1.state, State.judged_still (by rw [hpole]; exact hrising), hpole,
      State.windowed_other hup]
  | false =>
    obtain ⟨hset, helev⟩ := s.takeReadings_elevation x q
    rw [(Carried.react cue s (s.takeSample x)).pole, State.takeSample_idle x hrole ho, hset, helev,
      PoleRecord.moved_eq_fallen h]

/-- R91: the poles from the first sample after LOADING. -/
theorem react_sample_placed (cue : Cue) (hrole : s.osm.role = .pole) (hl : s.pwu.loadPending = true) (q : Pole) :
    ((State.react cue s (s.takeSample x)).pole q).state =
      if (s.takeReadings x).elevation q < s.settings.ehook then .stowed else .lowering := by
  have hstate := ((s.samplePlaced_spec x).2 q).1 hl
  by_cases he : (s.takeReadings x).elevation q < s.settings.ehook
  · rw [if_pos he] at hstate
    rw [react_sample_falling cue hrole (.inr hstate), PoleRecord.moved_stowed hstate, if_pos he, if_neg (by omega)]
  · rw [if_neg he] at hstate
    have hfalling : ((s.samplePlaced x).pole q).state.falling = true := by rw [hstate]; rfl
    rw [react_sample_falling cue hrole (.inl hfalling), PoleRecord.moved_falling hfalling, if_neg he, if_pos (by omega), hstate]

/-- R78, R80: a pole that falls or is stowed. -/
theorem react_sample_settled (cue : Cue) (hrole : s.osm.role = .pole) (hl : s.pwu.loadPending = false) (q : Pole) :
    ((s.pole q).state = .retrieving ∨ (s.pole q).state = .lowering →
      ((State.react cue s (s.takeSample x)).pole q).state =
        if s.settings.ehook ≤ (s.takeReadings x).elevation q then (s.pole q).state
        else if s.settings.nlock ≤ (s.pole q).count then .lockedOut else .stowed) ∧
    ((s.pole q).state = .stowed → ((State.react cue s (s.takeSample x)).pole q).state =
      if s.settings.ehook < (s.takeReadings x).elevation q then .lowering else .stowed) := by
  obtain ⟨helev, hplaced⟩ := s.samplePlaced_spec x
  obtain ⟨hstate, -⟩ := (hplaced q).2 hl
  have hcount : ((s.samplePlaced x).pole q).count = (s.pole q).count := (helev.pole q).1
  constructor
  · intro h
    have hfalling : ((s.samplePlaced x).pole q).state.falling = true := by
      rw [hstate]
      exact (PoleState.falling_iff _).mpr h
    rw [react_sample_falling cue hrole (.inl hfalling), PoleRecord.moved_falling hfalling, hstate, hcount]
  · intro h
    have hstowed := hstate.trans h
    rw [react_sample_falling cue hrole (.inr hstowed), PoleRecord.moved_stowed hstowed]

/-! Where the rules run and no tracking step waits. -/

/-- R73: the raise is abandoned at a sample exactly as the state before it and the elevations say. -/
theorem State.sampleMoved_abandons (hl : s.pwu.loadPending = false) : (s.sampleMoved x).Abandons ↔
    s.pwu.operation = .raise ∧ ∃ p, (s.pole p).state.rising = true ∧ s.settings.emax < (s.takeReadings x).elevation p := by
  obtain ⟨henv, hop, -, -, -, hpole⟩ := s.sampleMoved_spec x
  obtain ⟨-, hplaced⟩ := s.samplePlaced_spec x
  unfold State.Abandons
  have hset : (s.sampleMoved x).settings = s.settings := henv.settings
  rw [hop, hset]
  refine and_congr_right fun _ => exists_congr fun p => ?_
  rw [hpole, PoleRecord.moved_rising_eq, ((hplaced p).2 hl).1, henv.elevation]

/-- R71, R72: the poles make contact at a sample exactly as the state before it, the elevations and the voltage say. -/
theorem State.sampleMoved_contacts (hl : s.pwu.loadPending = false) : (s.sampleMoved x).Contacts ↔
    (∀ p, (s.pole p).state = .seeking ∨ (s.pole p).state = .raising ∧ s.settings.ehook < (s.takeReadings x).elevation p) ∧
      s.settings.vpresent ≤ x.ain0.toNat := by
  obtain ⟨henv, -, -, -, -, hpole⟩ := s.sampleMoved_spec x
  obtain ⟨-, hplaced⟩ := s.samplePlaced_spec x
  unfold State.Contacts
  have hset : (s.sampleMoved x).settings = s.settings := henv.settings
  rw [hset, henv.ain]
  refine and_congr (forall_congr' fun p => ?_) Iff.rfl
  rw [hpole, PoleRecord.moved_seeking_iff, ((hplaced p).2 hl).1]

/-- R73: the raise is abandoned. -/
theorem react_sample_abandons (cue : Cue) (hr : s.polesRun = true) (hl : s.pwu.loadPending = false)
    (hop : s.pwu.operation = .raise) {q : Pole} (hq : (s.pole q).state.rising = true)
    (he : s.settings.emax < (s.takeReadings x).elevation q) :
    (State.react cue s (s.takeSample x)).pwu.operation = .none ∧
    (State.react cue s (s.takeSample x)).inForce .raiseFail 0 = true ∧
    ∀ p, (s.pole p).state.rising = true → ((State.react cue s (s.takeSample x)).pole p).state = .lowering := by
  obtain ⟨hf, -, hfail, -⟩ := react_sample_run (x := x) cue hr
  obtain ⟨henv, -, -, -, -, hpole⟩ := s.sampleMoved_spec x
  obtain ⟨-, hplaced⟩ := s.samplePlaced_spec x
  obtain ⟨joperation, -, jfail, jpole⟩ := State.judged_abandons (State.sampleMoved_abandons hl |>.mpr ⟨hop, q, hq, he⟩)
  have hrising : ∀ p, (s.pole p).state.rising = true → ((s.sampleMoved x).judged.pole p).state = .lowering := fun p hp =>
    jpole p (by rw [hpole, PoleRecord.moved_rising_eq, ((hplaced p).2 hl).1]; exact hp)
  have htaken : (s.sampleMoved x).osm.op.alarmsTaken = true := by
    have hosm : (s.sampleMoved x).osm = s.osm := henv.osm
    rw [hosm]
    exact OpState.serves_taken (State.polesRun_role hr).2
  refine ⟨?_, hfail (State.bothDown_of (p := q) (by rw [hrising q hq]; rfl)) (jfail htaken),
    fun p hp => (hf.state p).trans (hrising p hp)⟩
  rw [hf.operation, joperation, ite_self]

/-- R72, R96: contact. -/
theorem react_sample_contacts (cue : Cue) (hr : s.polesRun = true) (hn : ¬ (s.sampleMoved x).Abandons)
    (hc : (s.sampleMoved x).Contacts) : (s.sampleMoved x).judged.bothUp = true ∧
    (State.react cue s (s.takeSample x)).pwu.operation = .none ∧
    (State.react cue s (s.takeSample x)).pwu.line = (if s.settings.vsection ≤ x.ain0.toNat then .live else .gap) ∧
    ∀ p, ((State.react cue s (s.takeSample x)).pole p).height = (s.takeReadings x).elevation p ∧
      ((State.react cue s (s.takeSample x)).pole p).state =
        if (s.takeReadings x).lateral p ≤ (s.takeReadings x).lateralLimit ∧ (s.takeReadings x).ropeTrip p = false
        then .onWire else .suspect := by
  obtain ⟨hf, -, -, -⟩ := react_sample_run (x := x) cue hr
  obtain ⟨henv, -⟩ := s.sampleMoved_spec x
  obtain ⟨joperation, jline, jpole⟩ := State.judged_contacts hn hc
  have hup : (s.sampleMoved x).judged.bothUp = true := by
    rw [State.bothUp_iff]
    intro p
    rw [(jpole p).2]
    split <;> rfl
  have hline : (s.sampleMoved x).lineAfter .live = if s.settings.vsection ≤ x.ain0.toNat then .live else .gap := by
    rw [henv.lineAfter]
    unfold State.lineAfter
    have hain : (s.takeReadings x).ain 0 = x.ain0.toNat := rfl
    have hset : (s.takeReadings x).settings = s.settings := rfl
    rw [hain, hset]
    by_cases hv : s.settings.vsection ≤ x.ain0.toNat
    · rw [if_neg (fun k => by omega), if_pos hv]
      split <;> rfl
    · rw [if_pos ⟨rfl, by omega⟩, if_neg hv]
  refine ⟨hup, ?_, ?_, fun p => ⟨?_, ?_⟩⟩
  · rw [hf.operation, joperation, ite_self]
  · rw [hf.line, if_pos hup, jline, hline]
  · obtain ⟨c, hpole⟩ := hf.pole p
    rw [hpole]
    exact (jpole p).1.trans (henv.elevation p)
  · obtain ⟨h1, h2, h3⟩ := henv.lateral p
    rw [hf.state, (jpole p).2, h1, h2, h3]

/-- R71: no contact, and no raise abandoned. -/
theorem react_sample_rising (cue : Cue) (hr : s.polesRun = true) (hl : s.pwu.loadPending = false)
    (hn : ¬ (s.sampleMoved x).Abandons) (hc : ¬ (s.sampleMoved x).Contacts) (p : Pole) :
    ((s.pole p).state = .raising → ((State.react cue s (s.takeSample x)).pole p).state =
      if s.settings.ehook < (s.takeReadings x).elevation p then .seeking else .raising) ∧
    ((s.pole p).state = .seeking → ((State.react cue s (s.takeSample x)).pole p).state = .seeking) := by
  obtain ⟨hf, -, -, -⟩ := react_sample_run (x := x) cue hr
  obtain ⟨-, -, -, -, -, hpole⟩ := s.sampleMoved_spec x
  obtain ⟨-, hplaced⟩ := s.samplePlaced_spec x
  obtain ⟨-, -, jpole⟩ := State.judged_plain hn hc
  have hstate := ((hplaced p).2 hl).1
  have hrising : (s.pole p).state.rising = true → ((State.react cue s (s.takeSample x)).pole p).state =
      (((s.samplePlaced x).pole p).moved s.settings ((s.takeReadings x).elevation p)).state := fun h => by
    have hup : ((s.sampleMoved x).pole p).state.up = false := by
      have hmoved : ((s.sampleMoved x).pole p).state.rising = true := by
        rw [hpole, PoleRecord.moved_rising_eq, hstate]
        exact h
      obtain k | k := (PoleState.rising_iff _).mp hmoved <;> rw [k] <;> rfl
    rw [hf.state, jpole, State.windowed_other hup, hpole]
  constructor
  · intro h
    have hr : ((s.samplePlaced x).pole p).state.rising = true := by rw [hstate, h]; rfl
    rw [hrising (by rw [h]; rfl), (PoleRecord.moved_rising hr).2.1 (hstate.trans h)]
  · intro h
    have hr : ((s.samplePlaced x).pole p).state.rising = true := by rw [hstate, h]; rfl
    rw [hrising (by rw [h]; rfl), (PoleRecord.moved_rising hr).2.2 (hstate.trans h)]

/-- R76, R102, R104: the window of a pole on the wire or in SUSPECT. -/
theorem react_sample_window (cue : Cue) (hr : s.polesRun = true) (hl : s.pwu.loadPending = false)
    (hw : s.pwu.trackWaits = false) (p : Pole) :
    ((s.pole p).state = .onWire → ((State.react cue s (s.takeSample x)).pole p).state =
      if (s.takeReadings x).inWindowOf p then .onWire else .suspect) ∧
    ((s.pole p).state = .suspect →
      if (s.takeReadings x).inWindowOf p = true ∧ s.settings.vsection ≤ x.ain0.toNat then
        ((State.react cue s (s.takeSample x)).pole p).state = (if s.pwu.operation = .lowerDescent then .lowering else .onWire) ∧
          ((State.react cue s (s.takeSample x)).pole p).bounces.getLast? = some s.osm.uptime
      else ((State.react cue s (s.takeSample x)).pole p).state = .suspect) := by
  obtain ⟨hf, -, -, -⟩ := react_sample_run (x := x) cue hr
  obtain ⟨henv, hop, -, -, -, hpole⟩ := s.sampleMoved_spec x
  obtain ⟨-, hplaced⟩ := s.samplePlaced_spec x
  obtain ⟨hstate, hheight⟩ := (hplaced p).2 hl
  have hheight := hheight hw
  obtain ⟨c, htpole⟩ := hf.pole p
  have hrecord : (s.pole p).state.up = true → (State.react cue s (s.takeSample x)).pole p =
      { (s.sampleMoved x).windowed p ((s.samplePlaced x).pole p) with suspectCut := c } := fun h => by
    have hup : ((s.samplePlaced x).pole p).state.up = true := by rw [hstate]; exact h
    have hsame : (s.sampleMoved x).pole p = (s.samplePlaced x).pole p := by rw [hpole, PoleRecord.moved_up hup]
    have hstill : ((s.sampleMoved x).pole p).state.rising = false := by
      rw [hsame]
      obtain k | k := (PoleState.up_iff _).mp hup <;> rw [k] <;> rfl
    rw [htpole, State.judged_still hstill, hsame]
  have hwindow : (s.sampleMoved x).windowAt p ((s.samplePlaced x).pole p).height = (s.takeReadings x).inWindowOf p := by
    rw [henv.windowAt, hheight]
    rfl
  have hset : (s.sampleMoved x).settings = s.settings := henv.settings
  have hain : (s.sampleMoved x).ain 0 = x.ain0.toNat := henv.ain 0
  have hosm : (s.sampleMoved x).osm = s.osm := henv.osm
  constructor
  · intro h
    have hwire := hstate.trans h
    rw [hrecord (by rw [h]; rfl)]
    unfold State.windowed
    rw [if_pos hwire, hwindow]
    split
    · exact hwire
    · rfl
  · intro h
    have hsuspect := hstate.trans h
    have hrecord := hrecord (by rw [h]; rfl)
    have hjudged : (s.sampleMoved x).windowed p ((s.samplePlaced x).pole p) =
        if (s.takeReadings x).inWindowOf p && decide (s.settings.vsection ≤ x.ain0.toNat) then
          (if s.pwu.operation = .lowerDescent then
            (((s.samplePlaced x).pole p).returned s.osm.uptime).enter .lowering
          else ((s.samplePlaced x).pole p).returned s.osm.uptime)
        else (s.samplePlaced x).pole p := by
      unfold State.windowed
      rw [if_neg (by rw [hsuspect]; nofun), if_pos hsuspect, hwindow, hset, hain, hop, hosm]
    rw [hjudged] at hrecord
    by_cases hin : (s.takeReadings x).inWindowOf p = true ∧ s.settings.vsection ≤ x.ain0.toNat
    · rw [if_pos (by rw [hin.1, decide_eq_true hin.2]; rfl)] at hrecord
      rw [if_pos hin, hrecord]
      split
      · exact ⟨rfl, recordBounce_last _ _⟩
      · exact ⟨rfl, recordBounce_last _ _⟩
    · rw [if_neg (fun k => hin (by simpa using k))] at hrecord
      rw [if_neg hin, hrecord]
      exact hsuspect

end

end Sys2Proof.Machine

/-! ANALOG_SAMPLE: the line state, the source mode and the cuts at the pole station, and the readings everywhere (R32, R65, R85
to R90, R109, R138, R177). -/

namespace Sys2Proof.Machine

section
variable {s t u : State} {x : AnalogSample} {cue : Cue}

/-- R86, R87, R88: the line state that a sample's voltage gives. -/
def lineSampled (s : State) (x : AnalogSample) : LineState :=
  if s.pwu.line = .live ∧ x.ain0.toNat < s.settings.vsection then .gap
  else if (s.pwu.line = .gap ∨ s.pwu.line = .out) ∧ s.settings.vpresent ≤ x.ain0.toNat then .live
  else s.pwu.line

theorem State.sampleMoved_line (s : State) (x : AnalogSample) :
    (s.sampleMoved x).lineAfter (s.sampleMoved x).pwu.line = lineSampled s x := by
  obtain ⟨henv, -, hline, -⟩ := s.sampleMoved_spec x
  rw [henv.lineAfter, hline]
  rfl

/-- Poles that are up neither rise nor make contact. -/
theorem State.sampleMoved_up (hl : s.pwu.loadPending = false) (hup : s.bothUp = true) :
    ¬ (s.sampleMoved x).Abandons ∧ ¬ (s.sampleMoved x).Contacts := by
  rw [State.sampleMoved_abandons hl, State.sampleMoved_contacts hl]
  have hstill : ∀ p, (s.pole p).state.rising = false := fun p => by
    obtain h | h := (PoleState.up_iff _).mp (State.pole_up hup p) <;> rw [h] <;> rfl
  refine ⟨fun ⟨_, p, hp, _⟩ => ?_, fun ⟨hseek, _⟩ => ?_⟩
  · rw [hstill p] at hp
    cases hp
  · have h := hstill .pos
    obtain hs | ⟨hs, -⟩ := hseek .pos <;> (rw [hs] at h; cases h)

theorem Finished.bothUp {w : Option Pole} (f : Finished w s t) : t.bothUp = s.bothUp ∧ t.bothDown = s.bothDown := by
  have hpos : t.pwu.pos.state = s.pwu.pos.state := f.state .pos
  have hneg : t.pwu.neg.state = s.pwu.neg.state := f.state .neg
  unfold State.bothUp State.bothDown
  rw [hpos, hneg]
  exact ⟨rfl, rfl⟩

/-- R85 to R88: the line state while the poles were up. -/
theorem react_sample_line (cue : Cue) (hr : s.polesRun = true) (hl : s.pwu.loadPending = false) (hup : s.bothUp = true) :
    (s.sampleMoved x).judged.pwu.line = lineSampled s x ∧ (State.react cue s (s.takeSample x)).pwu.line =
      if (State.react cue s (s.takeSample x)).bothUp = false then .isOpen else lineSampled s x := by
  obtain ⟨hf, -, -, -⟩ := react_sample_run (x := x) cue hr
  obtain ⟨hn, hc⟩ := State.sampleMoved_up (x := x) hl hup
  have hline := (State.judged_plain hn hc).2.1.trans (s.sampleMoved_line x)
  refine ⟨hline, ?_⟩
  rw [hf.line, hf.bothUp.1, hline]
  cases (s.sampleMoved x).judged.bothUp <;> rfl

/-- R89, R90: a mode published at the end of a step by way of a mode that the step's judgements have published. -/
theorem Finished.followsBy {b : State} {w : Option Pole} (f : Finished w b t) (hsource : t.pwu.source = s.modeAt t.pwu.line)
    (htimer : b.pwu.sourceTimer = if sourceChanges s.pwu.source b.pwu.source then some 0 else s.pwu.sourceTimer) :
    s.SourceFollows t b.pwu.source := by
  obtain ⟨m, hm, ht⟩ := f.source
  rw [← hm, htimer] at ht
  refine ⟨hsource, fun h => ?_, fun h1 h2 => ?_, f.sourceChange⟩
  · rw [ht]
    split
    · rfl
    · next hn => exact if_pos ((SourceCuts_iff _ _).mp (h.resolve_right fun k => hn ((SourceCuts_iff _ _).mp k)))
  · rw [ht, if_neg (fun k => h2 ((SourceCuts_iff _ _).mpr k)), if_neg (fun k => h1 ((SourceCuts_iff _ _).mpr k))]

/-- R89, R90: the published source mode follows by way of the mode of the line state that the voltage gives. -/
theorem react_sample_source (cue : Cue) (hr : s.polesRun = true) :
    s.SourceFollows (State.react cue s (s.takeSample x)) (s.modeAt (s.sampleMoved x).judged.pwu.line) := by
  obtain ⟨hf, hsource, -, -⟩ := react_sample_run (x := x) cue hr
  obtain ⟨henv, -, -, msource, mtimer, -⟩ := s.sampleMoved_spec x
  obtain ⟨-, -, -, jsource, jtimer, -, -⟩ := (s.sampleMoved x).judged_spec
  have hmode : ∀ l, (s.sampleMoved x).modeAt l = s.modeAt l := fun l => henv.modeAt l
  rw [hmode] at jsource
  rw [msource, mtimer] at jtimer
  generalize State.react cue s (s.takeSample x) = t at hf hsource ⊢
  generalize (s.sampleMoved x).judged = b at hf jsource jtimer ⊢
  rw [← jsource]
  exact hf.followsBy hsource jtimer

/-- R89, R90: from poles that are not up, with the line open, the mode changes once. -/
theorem react_sample_open (cue : Cue) (hr : s.polesRun = true) (hl : s.pwu.line = .isOpen) :
    s.SourceFollows (State.react cue s (s.takeSample x)) (State.react cue s (s.takeSample x)).pwu.source := by
  obtain ⟨hf, hsource, -, -⟩ := react_sample_run (x := x) cue hr
  have hopen : (s.sampleMoved x).lineAfter (s.sampleMoved x).pwu.line = .isOpen := by
    rw [s.sampleMoved_line x]
    unfold lineSampled
    rw [hl]
    rfl
  have hline : (State.react cue s (s.takeSample x)).pwu.line = (s.sampleMoved x).judged.pwu.line := by
    by_cases ha : (s.sampleMoved x).Abandons
    · rw [hf.line, (State.judged_abandons ha).2.1, hopen, ite_self]
    · by_cases hc : (s.sampleMoved x).Contacts
      · rw [hf.line, if_pos (react_sample_contacts cue hr ha hc).1]
      · rw [hf.line, (State.judged_plain ha hc).2.1, hopen, ite_self]
  have h := react_sample_source (x := x) cue hr
  rw [← hline, ← hsource] at h
  exact h

/-- R109, R116: the pole watch unit's cuts after the sample. -/
theorem react_sample_cuts (cue : Cue) (hr : s.polesRun = true) :
    (State.react cue s (s.takeSample x)).holdsCut .suspectPos =
      ((State.react cue s (s.takeSample x)).pwu.pos.state == .suspect) ∧
    (State.react cue s (s.takeSample x)).holdsCut .suspectNeg =
      ((State.react cue s (s.takeSample x)).pwu.neg.state == .suspect) ∧
    (State.react cue s (s.takeSample x)).holdsCut .section_ = ((State.react cue s (s.takeSample x)).pwu.line == .gap) ∧
    (State.react cue s (s.takeSample x)).holdsCut .lowering = (State.react cue s (s.takeSample x)).pwu.operation.lowers ∧
    (State.react cue s (s.takeSample x)).holdsCut .dewirePos =
      (s.holdsCut .dewirePos && !(State.react cue s (s.takeSample x)).bothDown) ∧
    (State.react cue s (s.takeSample x)).holdsCut .dewireNeg =
      (s.holdsCut .dewireNeg && !(State.react cue s (s.takeSample x)).bothDown) := by
  obtain ⟨hf, -, -, -⟩ := react_sample_run (x := x) cue hr
  obtain ⟨henv, -⟩ := s.sampleMoved_spec x
  have hcuts : ∀ c, (s.sampleMoved x).judged.holdsCut c = s.holdsCut c :=
    State.holdsCut_congr (congrArg CutUnit.cuts ((henv.trans (s.sampleMoved x).judged_spec.1).cc))
  generalize State.react cue s (s.takeSample x) = t at hf ⊢
  generalize (s.sampleMoved x).judged = b at hf hcuts
  have hpos : t.pwu.pos.state = b.pwu.pos.state := hf.state .pos
  have hneg : t.pwu.neg.state = b.pwu.neg.state := hf.state .neg
  have hdown := hf.bothUp.2
  refine ⟨?_, ?_, hf.sectionCut, hf.lowering, ?_, ?_⟩
  · rw [hf.suspectPos, hpos]
  · rw [hf.suspectNeg, hneg]
  · rw [hf.dewirePos, hcuts, hdown]
    rfl
  · rw [hf.dewireNeg, hcuts, hdown]
    rfl

/-! The readings and the flags they set. -/

/-- R32, R65, R138, R177: the readings, the hot state, the heat duty and the critical flags after the sample. -/
theorem react_sample_readings (cue : Cue) (s : State) (x : AnalogSample) :
    (State.react cue s (s.takeSample x)).su = ⟨x, true, s.su.din⟩ ∧
    (State.react cue s (s.takeSample x)).ae.hot = (if s.ae.hot then decide (s.settings.release + 50 < x.ain6.toNat)
      else decide (s.settings.trip + 50 ≤ x.ain6.toNat)) ∧
    (s.osm.role = .console → s.osm.op.receives = true →
      (State.react cue s (s.takeSample x)).cf.heat = x.ain5.toNat * 9 / 1024) ∧
    ∀ (c : Fin 4) (i : Nat), (s.record c).present = true → (s.record c).pressureInput = some i →
      ((State.react cue s (s.takeSample x)).chan c).critical = decide (readingOf x i < (s.record c).pcrit) := by
  obtain ⟨hsu, -, -, hheat, hchan⟩ := s.takeSample_units x
  have hhot : (s.takeSample x).ae.hot = (s.takeReadings x).hotAfter := by
    obtain ⟨a, ha⟩ := (s.takeReadings x).judgeHot_only
    have hjudged : (s.takeReadings x).judgeHot.ae.hot = (s.takeReadings x).hotAfter := by rw [ha]; rfl
    have hsteady : (s.takeReadings x).judgeHot.samplePoles.ae.steady.hot = (s.takeReadings x).judgeHot.ae.steady.hot := by
      rw [(Watched.samplePoles (s.takeReadings x).judgeHot).ae]
    exact (s.takeSample_after x).2.2.2.trans (hsteady.trans hjudged)
  have hcarried := Carried.react cue s (s.takeSample x)
  generalize s.takeSample x = u at hsu hheat hchan hhot hcarried ⊢
  refine ⟨hcarried.su.trans hsu, ?_, fun hr ho => ?_, fun c i hp hi => ?_⟩
  · have e : (State.react cue s u).ae.carried.hot = u.ae.carried.hot := by rw [hcarried.ae]
    exact e.trans hhot
  · have e : (State.react cue s u).cf.carried.heat = u.cf.carried.heat := by rw [hcarried.cf]
    exact e.trans (hheat hr ho)
  · have e : ((State.react cue s u).chan c).steady.2.2 =
        (((s.chan c).pressed (s.record c) x).warmed (s.record c) x).steady.2.2 := by rw [hcarried.chan, hchan]
    exact e.trans (Channel.sampled_requesting x (s.chan c) hp hi).2

end

/-- Settles O28: the readings everywhere; at the pole station the poles, the line state, the source mode and the cuts, each
followed from the poles' movements through the judgements and the end of the unit's step. -/
theorem sampleIsTaken : Obligations.SampleIsTaken := by
  intro x s w ho hw
  subst hw
  have hexec : exec (.analogSample x) s = .next (State.react (s.sampleCue (s.takeSample x)) s (s.takeSample x)) :=
    congrArg Host.Outcome.next (if_pos ho)
  generalize s.sampleCue (s.takeSample x) = cue at hexec
  obtain ⟨hsu, hhot, hheat, hcritical⟩ := react_sample_readings cue s x
  refine ⟨_, hexec, hsu, hhot, hheat, hcritical, fun hrole hl _ p => react_sample_placed cue hrole hl p,
    fun hrole hl p => react_sample_settled cue hrole hl p, fun hr hl hwaits => ?_⟩
  obtain ⟨hf, hsource, -, -⟩ := react_sample_run (x := x) cue hr
  obtain ⟨hsuspectPos, hsuspectNeg, hsection, hlowering, hdewirePos, hdewireNeg⟩ := react_sample_cuts (x := x) cue hr
  refine ⟨fun hop ⟨q, hq, he⟩ => react_sample_abandons cue hr hl hop hq he, fun hlow => ?_,
    fun p => react_sample_window cue hr hl hwaits p, fun hup => (react_sample_line cue hr hl hup).2, hsource, hf.sourceChange,
    fun hup => ?_, fun _ hopen => react_sample_open cue hr hopen, hsuspectPos, hsuspectNeg, hsection, hlowering, hdewirePos,
    hdewireNeg⟩
  · have hn : ¬ (s.sampleMoved x).Abandons := fun h => by
      obtain ⟨-, p, hp, he⟩ := (State.sampleMoved_abandons hl).mp h
      exact absurd (hlow p hp) (Nat.not_le.mpr he)
    split
    · next hboth =>
      have hc : (s.sampleMoved x).Contacts := (State.sampleMoved_contacts hl).mpr
        ⟨fun p => hboth.1 p (by cases p <;> decide), hboth.2⟩
      obtain ⟨-, hoperation, hline, hpoles⟩ := react_sample_contacts cue hr hn hc
      exact ⟨hoperation, hline, hpoles⟩
    · next hboth =>
      have hc : ¬ (s.sampleMoved x).Contacts := fun h => by
        obtain ⟨hseek, hv⟩ := (State.sampleMoved_contacts hl).mp h
        exact hboth ⟨fun p _ => hseek p, hv⟩
      exact fun p => react_sample_rising cue hr hl hn hc p
  · have h := react_sample_source (x := x) cue hr
    rw [(react_sample_line cue hr hl hup).1] at h
    exact h

end Sys2Proof.Machine
